-- ==== Sys2Proof/Word.lean ====
section
/-! DEFINITION. The word types of the Jaruk JM4 (R4, R45) and sparse tables of plain data. -/

namespace Sys2Proof

/-- A 64-bit value: a register, a slot, an address, a token header (R20, R45). -/
abbrev Word := BitVec 64

/-- One byte of device memory (R4). -/
abbrev Byte := BitVec 8

/-- An instruction target: [8:2] the index, [1:0] the slot (R14). -/
abbrev Target := BitVec 9

/-- A sparse table: keys strictly rising, no entry equal to what an unlisted key reads as. -/
abbrev Tab (α : Type) := List (Nat × α)

end Sys2Proof
end

