-- ==== Sys2Proof/Syntax.lean ====
section
/-! DEFINITION. Every operation and step of spec/opcode_table.json, one constructor a row.

The 113 control-thread operations carry the fields of their format (R13, R14); the TAP codes carry the
data register they are scanned with (Debug access, chapter 19); every other row is a whole step of the
machine (spec/95_what_each_step_holds.md) and carries the party it is a step of, but for the firings of the
fabric: those act at the site that State names as the one that fires, as a control-thread operation acts at
the instruction that State names. -/
namespace Sys2Proof

/-- PR (R14): unpredicated, on a true predicate, on a false one.  The code 0b01 is reserved. -/
inductive Pr where
  | always
  | onTrue
  | onFalse
  deriving DecidableEq, Repr

/-- Format T2 (R13). -/
structure T2 where
  a : Bool
  pr : Pr
  t1 : Target
  t2 : Target
  m : BitVec 3
  deriving DecidableEq, Repr

/-- Format T2 of NULL and BWAIT, where A and M are zero (R15, R16). -/
structure TB where
  pr : Pr
  t1 : Target
  t2 : Target
  deriving DecidableEq, Repr

/-- Format TI, and format SY of SYSR, whose fields lie alike (R13). -/
structure TI where
  a : Bool
  pr : Pr
  t1 : Target
  imm : BitVec 12
  deriving DecidableEq, Repr

/-- Formats TI and SY of the operations that never carry A (R15). -/
structure TC where
  pr : Pr
  t1 : Target
  imm : BitVec 12
  deriving DecidableEq, Repr

/-- Format LS (R13). -/
structure LS where
  a : Bool
  pr : Pr
  lsid : BitVec 5
  t1 : Target
  wd : BitVec 2
  imm : BitVec 5
  deriving DecidableEq, Repr

/-- Format ST (R13). -/
structure ST where
  pr : Pr
  lsid : BitVec 5
  wd : BitVec 2
  imm : BitVec 14
  deriving DecidableEq, Repr

/-- Format AM (R13). -/
structure AM where
  pr : Pr
  lsid : BitVec 5
  t1 : Target
  w : Bool
  scope : BitVec 3
  ord : BitVec 2
  deriving DecidableEq, Repr

/-- Format BR (R13), its exit and its offset. -/
structure BX where
  pr : Pr
  x : BitVec 3
  off : BitVec 18
  deriving DecidableEq, Repr

/-- Format RD (R13). -/
structure RD where
  g : BitVec 6
  t1 : Target
  t2 : Target
  deriving DecidableEq, Repr

/-- Format WR (R13). -/
structure WR where
  pr : Pr
  g : BitVec 6
  deriving DecidableEq, Repr

/-- The fields of FENCE (R17). -/
structure FN where
  lsid : BitVec 5
  scope : BitVec 3
  pred : BitVec 8
  succ : BitVec 8
  deriving DecidableEq, Repr

/-- A site: the package-wide region and the site index y * 12 + x (R2, R3, R33). -/
structure Site where
  r : Nat
  s : Nat
  deriving DecidableEq, Repr

/-- A consumer port, which names the one arc that ends there: region, and site index * 4 + input (R33, R86). -/
structure Port where
  r : Nat
  p : Nat
  deriving DecidableEq, Repr

/-- The operations and steps of the part, one constructor for each row of spec/opcode_table.json: those with
fields of their own first, then those that take everything from State. -/
inductive Instr where
  /-- RDG (R47): Fires at block start and delivers the committed value of global register gN to up to two targets. -/
  | rdg (f : RD)
  /-- WRG (R48): Holds a value for register gN, which takes it at commit unless the value is null. -/
  | wrg (f : WR)
  /-- MOV (R50): Copies its l operand to up to two targets. -/
  | mov (f : T2)
  /-- MOVI (R50): Delivers the sign-extended 12-bit immediate. -/
  | movi (f : TI)
  /-- MOVHI (R50): Delivers (l << 12) or the zero-extended 12-bit immediate, modulo 2^64. -/
  | movhi (f : TI)
  /-- NULL (R49): Delivers the null value to WRG l slots so a register counts as written without change. -/
  | null (f : TB)
  /-- SNUL (R136): Marks a store id as stored with no memory effect. -/
  | snul (f : ST)
  /-- ADD (R121): Integer addition, 64-bit or 32-bit with .w. -/
  | add (f : T2)
  /-- SUB (R121): Integer subtraction. -/
  | sub (f : T2)
  /-- MUL (R121): Low n bits of the integer product. -/
  | mul (f : T2)
  /-- MULH (R121): High n bits of the signed product. -/
  | mulh (f : T2)
  /-- MULHU (R121): High n bits of the unsigned product. -/
  | mulhu (f : T2)
  /-- DIV (R122): Signed division rounding toward zero, never trapping. -/
  | div (f : T2)
  /-- DIVU (R122): Unsigned division, never trapping. -/
  | divu (f : T2)
  /-- REM (R122): Signed remainder, never trapping. -/
  | rem (f : T2)
  /-- REMU (R122): Unsigned remainder, never trapping. -/
  | remu (f : T2)
  /-- AND (R121): Bitwise and. -/
  | and (f : T2)
  /-- OR (R121): Bitwise or. -/
  | or (f : T2)
  /-- XOR (R121): Bitwise exclusive or. -/
  | xor (f : T2)
  /-- SHL (R121): Shift left with zero fill. -/
  | shl (f : T2)
  /-- SHR (R121): Logical shift right. -/
  | shr (f : T2)
  /-- SRA (R121): Arithmetic shift right. -/
  | sra (f : T2)
  /-- ROL (R121): Rotate left within n bits. -/
  | rol (f : T2)
  /-- MIN (R121): Signed minimum. -/
  | min (f : T2)
  /-- MAX (R121): Signed maximum. -/
  | max (f : T2)
  /-- MINU (R121): Unsigned minimum. -/
  | minu (f : T2)
  /-- MAXU (R121): Unsigned maximum. -/
  | maxu (f : T2)
  /-- CLZ (R123): Counts leading zero bits of the n-bit operand. -/
  | clz (f : T2)
  /-- POPC (R123): Counts set bits of the n-bit operand. -/
  | popc (f : T2)
  /-- EXT (R123): Sign- or zero-extends the low byte, half or word as the M mode selects. -/
  | ext (f : T2)
  /-- ADDI (R124): Adds the sign-extended immediate modulo 2^64. -/
  | addi (f : TI)
  /-- ANDI (R124): Bitwise and with the sign-extended immediate. -/
  | andi (f : TI)
  /-- ORI (R124): Bitwise or with the sign-extended immediate. -/
  | ori (f : TI)
  /-- XORI (R124): Bitwise exclusive or with the sign-extended immediate. -/
  | xori (f : TI)
  /-- SHLI (R124): Shift left by an immediate count 0-63. -/
  | shli (f : TI)
  /-- SHRI (R124): Logical shift right by an immediate count. -/
  | shri (f : TI)
  /-- SRAI (R124): Arithmetic shift right by an immediate count. -/
  | srai (f : TI)
  /-- MULI (R124): Multiplies by the sign-extended immediate modulo 2^64. -/
  | muli (f : TI)
  /-- TEQ (R125): Delivers 1 when the operands are equal. -/
  | teq (f : T2)
  /-- TNE (R125): Delivers 1 when the operands differ. -/
  | tne (f : T2)
  /-- TLT (R125): Signed less-than test. -/
  | tlt (f : T2)
  /-- TLTU (R125): Unsigned less-than test. -/
  | tltu (f : T2)
  /-- TLE (R125): Signed less-or-equal test. -/
  | tle (f : T2)
  /-- TLEU (R125): Unsigned less-or-equal test. -/
  | tleu (f : T2)
  /-- TGT (R125): Signed greater-than test. -/
  | tgt (f : T2)
  /-- TGTU (R125): Unsigned greater-than test. -/
  | tgtu (f : T2)
  /-- TGE (R125): Signed greater-or-equal test. -/
  | tge (f : T2)
  /-- TGEU (R125): Unsigned greater-or-equal test. -/
  | tgeu (f : T2)
  /-- TEQI (R125): Tests equality with the sign-extended immediate. -/
  | teqi (f : TI)
  /-- TNEI (R125): Tests inequality with the sign-extended immediate. -/
  | tnei (f : TI)
  /-- TLTI (R125): Signed less-than test against the immediate. -/
  | tlti (f : TI)
  /-- TGEI (R125): Signed greater-or-equal test against the immediate. -/
  | tgei (f : TI)
  /-- FADD (R127): IEEE addition rounded once in RNE. -/
  | fadd (f : T2)
  /-- FSUB (R127): IEEE subtraction rounded once in RNE. -/
  | fsub (f : T2)
  /-- FMUL (R127): IEEE multiplication rounded once in RNE. -/
  | fmul (f : T2)
  /-- FDIV (R127): IEEE division rounded once in RNE. -/
  | fdiv (f : T2)
  /-- FMA (R127): Fused a times b plus c, rounded once. -/
  | fma (f : T2)
  /-- FMIN (R128): Lesser operand with -0 below +0 and NaN handling. -/
  | fmin (f : T2)
  /-- FMAX (R128): Greater operand with -0 below +0 and NaN handling. -/
  | fmax (f : T2)
  /-- FCVT (R130): Converts between F32, F64, I64, I32 and N64 as M selects. -/
  | fcvt (f : T2)
  /-- FTEQ (R129): Exact floating equality test. -/
  | fteq (f : T2)
  /-- FTLT (R129): Exact floating less-than test. -/
  | ftlt (f : T2)
  /-- FTLE (R129): Exact floating less-or-equal test. -/
  | ftle (f : T2)
  /-- FSQRT (R127): IEEE square root rounded once. -/
  | fsqrt (f : T2)
  /-- LD (R133): Checks its address and delivers a zero-extended load, forwarded from lower-positioned stores. -/
  | ld (f : LS)
  /-- LDS (R133): Checks its address and delivers a sign-extended load. -/
  | lds (f : LS)
  /-- ST (R135): Checks its address and holds bytes to be stored at commit in position order. -/
  | st (f : ST)
  /-- AMOADD (R274): Atomic add performed indivisibly at commit, old value to WRG targets. -/
  | amoadd (f : AM)
  /-- AMOSWP (R274): Atomic swap performed at commit. -/
  | amoswp (f : AM)
  /-- AMOCAS (R274): Atomic compare-and-swap performed at commit. -/
  | amocas (f : AM)
  /-- AMOMIN (R274): Atomic signed minimum performed at commit. -/
  | amomin (f : AM)
  /-- AMOMAX (R274): Atomic signed maximum performed at commit. -/
  | amomax (f : AM)
  /-- AMOAND (R274): Atomic and performed at commit. -/
  | amoand (f : AM)
  /-- AMOOR (R274): Atomic or performed at commit. -/
  | amoor (f : AM)
  /-- FENCE (R277): Orders predecessor-class accesses before successor-class accesses at a scope, at its commit position. -/
  | fence (f : FN)
  /-- BR (R51): Fires an exit to a block at a signed 16-byte offset. -/
  | br (f : BX)
  /-- BRI (R137): Fires an exit to an address computed at run time. -/
  | bri (f : BX)
  /-- CALL (R138): Exits to a callee and pushes the return address at commit. -/
  | call (f : BX)
  /-- CALLI (R138): Exits to a computed callee and pushes the return address. -/
  | calli (f : BX)
  /-- RET (R138): Exits to the popped return address. -/
  | ret (f : BX)
  /-- JTAB (R141): Exits through a jump table entry, or to the default label when the index is out of range. -/
  | jtab (f : BX)
  /-- LOOP (R142): Exits to the loop head like BR and asks for loop-buffer capture. -/
  | loop (f : BX)
  /-- SCALL (R143): Commits the block and then takes the SCALL trap with number n. -/
  | scall (f : BX)
  /-- TRAP (R143): Commits the block and then takes the TRAPI trap with number n. -/
  | trap (f : BX)
  /-- ERET (R144): Exits to sq.epc and clears trap mode at commit. -/
  | eret (f : BX)
  /-- CFGL (R56): Loads and checks a configuration image into context slots of the relocated regions, delivering NREG. -/
  | cfgl (f : TC)
  /-- CFGA (R57): At commit arms context slot s, draining any armed context first. -/
  | cfga (f : TC)
  /-- DRAIN (R58): Delivers the armed state and at commit drains the armed context, holding the next block until drained. -/
  | drain (f : TC)
  /-- TCNT (R226): At commit adds a tile count to the MMA or SYSM element at a site. -/
  | tcnt (f : TC)
  /-- SPUSH (R59): Places a value in a port node's ingress queue at commit. -/
  | spush (f : TC)
  /-- SPOP (R60): Delivers an egress-queue entry, waiting for it, removed at commit. -/
  | spop (f : TC)
  /-- SPACE (R61): Delivers the committed occupancy of a port node's queues. -/
  | space (f : TC)
  /-- INJ (R59): Places a bubble, XCH or REQ header in a port node's ingress queue at commit. -/
  | inj (f : TC)
  /-- CFGW (R288): Writes a parameter of a site in a loaded, unarmed context slot at commit. -/
  | cfgw (f : TC)
  /-- BAR (R281): Arrives at a named barrier at commit as a release, returning the generation counted in. -/
  | bar (f : TC)
  /-- BWAIT (R282): Waits until a barrier's generation has passed the recorded one and delivers the distance. -/
  | bwait (f : TB)
  /-- BPH (R282): Delivers whether the barrier's phase bit differs from the recorded PH. -/
  | bph (f : TC)
  /-- FLGS (R283): Sets a die flag at commit as a release, delivering its previous value. -/
  | flgs (f : TC)
  /-- FLGC (R283): Clears a die flag at commit as a release, delivering its previous value. -/
  | flgc (f : TC)
  /-- FLGT (R283): Delivers a flag's value at firing. -/
  | flgt (f : TC)
  /-- FLGW (R283): Waits until a flag has held the awaited value and delivers it. -/
  | flgw (f : TC)
  /-- TAGW (R286): Waits until all masked tag bits are set. -/
  | tagw (f : TC)
  /-- TAGF (R286): Delivers the lowest free tag and reserves it at commit. -/
  | tagf (f : TC)
  /-- TAGC (R286): Clears masked tag bits and frees their reservations at commit. -/
  | tagc (f : TC)
  /-- DEPD (R287): Lowers a task's dependence counter at commit, saturating at zero. -/
  | depd (f : TC)
  /-- DEPR (R287): Sets a task's dependence counter at commit when its state takes a new count. -/
  | depr (f : TC)
  /-- CPCH (R290): Appends a chain head to a copy channel's queue at commit as a release. -/
  | cpch (f : TC)
  /-- CPST (R290): Restarts a stopped copy channel at the record where it stopped. -/
  | cpst (f : TC)
  /-- CPAB (R290): Discards a channel's queue and aborts its record in progress. -/
  | cpab (f : TC)
  /-- SYSR (R52): Delivers the value of a system register at firing. -/
  | sysr (f : TI)
  /-- SYSW (R53): Writes a system register at commit in ascending index. -/
  | sysw (f : TC)
  /-- HALT (R54): Makes the sequencer stop fetching after the block commits, keeping the exit target as resume address. -/
  | halt (f : TC)
  /-- WAITI (R145): Waits for a region event and delivers the event latch, clearing delivered bits at commit. -/
  | waiti (f : TC)
  /-- BLOCK_FETCH (R153): The sequencer fetches the next block header and words through the instruction cache. -/
  | blockFetch (q : Nat)
  /-- BLOCK_DECODE (R154): The whole fetched block is decoded and checked, then starts with unslotted instructions firing. -/
  | blockDecode (q : Nat)
  /-- BLOCK_RESOLVE (R157): A settled block is abandoned on a trap condition, committed, or left waiting. -/
  | blockResolve (q : Nat)
  /-- BLOCK_COMMIT (R158): Once conditions and queue room hold, the block's effects take place in eight ordered steps. -/
  | blockCommit (q : Nat)
  /-- BLKHANG (R161): The block timeout expires and the block is abandoned with BLKHANG and a lack report. -/
  | blkhang (q : Nat)
  /-- RUNAHEAD_BLOCK_START (R170): The sequencer starts a predicted younger block whose access slice runs ahead. -/
  | runaheadBlockStart (q : Nat)
  /-- DBGHALT (R112): With HTRAP set, a risen HELD bit raises DBGHALT before the next block starts. -/
  | dbghalt (q : Nat)
  /-- PREEMPT (R358): With PTRAP set the scheduler raises PREEMPT on the anchor sequencer with reason and grace. -/
  | preempt (die task reason : Nat)
  /-- PREEMPT_GRACE_EXPIRE (R358): No yield within the grace makes the save proceed with the sequencer stopped. -/
  | preemptGraceExpire (die task : Nat)
  /-- REGISTER_WRITE (R53): A write to a system register with no behaviour of its own stores its value by field. -/
  | registerWrite (q : Nat) (id : BitVec 12) (v : Word)
  /-- SQ_STATUS_WRITE (R176): Writing sq.status sets fields and clearing RAEN or LBEN discards run-ahead or releases the loop buffer. -/
  | sqStatusWrite (q : Nat) (v : Word)
  /-- RASD_WRITE (R166): Writing sq.rasd drops or adds return-address entries at the oldest end. -/
  | rasdWrite (q : Nat) (v : Word)
  /-- DBG_CTL_WRITE (R110): Writing dbg.ctl sets HEN and HTRAP; lowering HEN makes withheld tokens visible. -/
  | dbgCtlWrite (q : Nat) (v : Word)
  /-- DBG_HALT_WRITE (R109): Writing a halt point enables, changes or disables what it withholds. -/
  | dbgHaltWrite (q k : Nat) (v : Word)
  /-- DBG_STEP (R111): Releases the oldest withheld token of each arc a halt point covers into its release register. -/
  | dbgStep (q : Nat) (v : Word)
  /-- HANG_THAW (R119): hang.ctl CMD thaw lets a frozen region fire again and restarts the interval. -/
  | hangThaw (q : Nat) (v : Word)
  /-- HANG_DISCARD (R119): hang.ctl CMD discard drops all tokens, resets elements and leaves the context unarmed. -/
  | hangDiscard (q : Nat) (v : Word)
  /-- FLOG_CTL_WRITE (R177): Writing flog.ctl sets SIZE and resets WIDX, RIDX and DROP. -/
  | flogCtlWrite (q : Nat) (v : Word)
  /-- FLOG_RD_WRITE (R177): Writing flog.rd advances RIDX, clamped to WIDX, freeing log entries. -/
  | flogRdWrite (q : Nat) (v : Word)
  /-- HANG_DECLARATION (R114): A region with held tokens and no movement for INTERVAL is declared hung. -/
  | hangDeclaration (r : Nat)
  /-- TOKEN_VISIBLE (R90): An emitted token becomes visible at its consumer after hop time, in arc order. -/
  | tokenVisible (p : Port)
  /-- REQUEST_ARRIVAL (R94): A REQ on the request channel reaches a demand producer and raises that arc's request count. -/
  | requestArrival (p : Port)
  /-- STRAY_CONTROL_DISCARD (R95): An XCH or REQ at an input with no treatment for it is consumed, discarded and logged. -/
  | strayControlDiscard (p : Port)
  /-- SLUICE_PARK (R357): A head stuck behind a closed input is taken into a park slot under SLUICE. -/
  | sluicePark (p : Port)
  /-- REMOTE_FRAME_RECEIVE (R399): A scale-out frame delivers tokens in order to the remote stream buffer. -/
  | remoteFrameReceive (peer seq handle : Nat) (words : List (List Word))
  /-- REMOTE_RETRANSMIT (R399): A lost frame is sent again without reordering. -/
  | remoteRetransmit (peer k : Nat)
  /-- REMOTE_PEER_TIMEOUT (R399): A peer silent for 1 ms stalls the EGR with reason 0x07. -/
  | remotePeerTimeout (peer : Nat)
  /-- CONTEXT_ARM (R57): After the old context drains the new one is armed in all its regions, registers set and REQs sent. -/
  | contextArm (c : Nat)
  /-- DRAIN_COMPLETE (R359): A drain completes once WEIRs have passed and accesses are performed, releasing at package scope. -/
  | drainComplete (c : Nat)
  /-- PHASE_END (R355): A context reaches phase end, sets PHASE and may arm the slot the predicate network names. -/
  | phaseEnd (c : Nat)
  /-- BARRIER_ARRIVAL (R281): A committed arrival reaches the owner, counts and may complete the generation. -/
  | barrierArrival (k : Nat)
  /-- COPY_CHAIN_START (R290): An idle channel takes the head of its queue and enters RUN. -/
  | copyChainStart (die ch : Nat)
  /-- COPY_RECORD_READ (R326): A channel reads a transfer record and runs its checks. -/
  | copyRecordRead (die ch : Nat)
  /-- COPY_WRITE_UNIT (R335): A channel produces and writes one write unit to every destination. -/
  | copyWriteUnit (die ch : Nat)
  /-- COPY_RECORD_COMPLETE (R337): After all units are performed the completion actions run and the final write clears OWN. -/
  | copyRecordComplete (die ch : Nat)
  /-- HEADRACE_RECORD_READ (R227): The graph sequencer reads a section record, arms its image and adds tile counts. -/
  | headraceRecordRead (die : Nat)
  /-- HEADRACE_SECTION_COMPLETE (R227): After every counted element expires and writes are performed, completion actions and STATUS are written. -/
  | headraceSectionComplete (die : Nat)
  /-- TASK_ALLOCATE (R347): The loader or host allocates a task, loading its counter from DEPS. -/
  | taskAllocate (die task : Nat)
  /-- TASK_SELECT (R349): When regions free or a task becomes ready, the scheduler selects by priority and allocates regions. -/
  | taskSelect (die : Nat)
  /-- TASK_LAUNCH (R350): Launch empties queues, loads IMAGE, sets the control thread and starts block and chain. -/
  | taskLaunch (die task : Nat)
  /-- TASK_END (R351): When the anchor halts and the chain stops, the task's armed contexts are drained. -/
  | taskEnd (die task : Nat)
  /-- PREEMPT_DECISION (R356): The scheduler chooses the lowest-priority pre-emptible task and starts its save. -/
  | preemptDecision (die : Nat)
  /-- SAVE_COMPLETE (R359): The save image is complete and the task becomes SAVED with its regions freed. -/
  | saveComplete (die task : Nat)
  /-- TASK_RESUME (R349): A SAVED task selected on its own regions starts RESUMING. -/
  | taskResume (die task : Nat)
  /-- RESTORE_COMPLETE (R360): The restore completes and the task's control thread restarts at its resume address. -/
  | restoreComplete (die task : Nat)
  /-- TASK_FAULT (R364): A fault event faults a task, drains its contexts and writes FAULT. -/
  | taskFault (die task : Nat)
  /-- TASK_RESET_BY_HOST (R347): The host resets a FAULTED task to WAIT or READY with its counter from DEPS. -/
  | taskResetByHost (die task : Nat)
  /-- TASK_RELEASE_BY_HOST (R347): The host releases a task to FREE. -/
  | taskReleaseByHost (die task : Nat)
  /-- STAGE_WIDEN (R354): A stage with high input occupancy is drained and remapped at double unroll. -/
  | stageWiden (die task stage : Nat)
  /-- PAGER_RESOLVE (R363): On a PFLAG set the scheduler acts on every resolved fault-queue entry. -/
  | pagerResolve (part : Nat)
  /-- CORRECTED_ERROR (R365): A corrected error is counted and may declare its structure lasting. -/
  | correctedError (kind index : Nat)
  /-- QUIESCE (R372): Takes a region group out of the scheduling pool and pre-empts its tasks. -/
  | quiesce (v : Word)
  /-- QUIESCE_COMPLETE (R372): The group becomes QUIET once its regions hold no task, context or copy. -/
  | quiesceComplete (die col : Nat)
  /-- RETAIN (R373): Writes a retention image for each region of the group. -/
  | retain (v : Word)
  /-- RETAIN_COMPLETE (R373): RETAIN completes once image writes are performed, or fails back to QUIET. -/
  | retainComplete (die col : Nat)
  /-- GATE (R374): Stops the group's clocks and takes its rails to zero. -/
  | gate (v : Word)
  /-- GATE_COMPLETE (R374): The group reaches GATED. -/
  | gateComplete (die col : Nat)
  /-- RELEASE (R369): Returns a QUIET or RETAINED group to the pool. -/
  | release (v : Word)
  /-- GROUP_SELECT_DIE (R370): A pwr.grpreq write with OP 0 selects the die pwr.state reports. -/
  | groupSelectDie (v : Word)
  /-- WAKE (R375): A pwr.wake write starts waking a gated group with optional restore. -/
  | wake (v : Word)
  /-- WAKE_COMPLETE (R375): The woken group is restored or reset, pending tags ORed in, and returned to POOL. -/
  | wakeComplete (die col : Nat)
  /-- PWR_CAP_WRITE (R378): Sets the module power cap or refuses it below the floors. -/
  | pwrCapWrite (v : Word)
  /-- PWR_ERRLOG_CLEAR (R368): Any write to pwr.errlog clears it. -/
  | pwrErrlogClear (v : Word)
  /-- PWR_VSET_WRITE (R388): Sets a region's voltage ceiling, lowering its current code with it. -/
  | pwrVsetWrite (v : Word)
  /-- VOLTAGE_SLEW (R388): The region supply moves one 25 mV step after 100 ns. -/
  | voltageSlew (r : Nat)
  /-- PWR_EVAL_WRITE (R395): Sets the selected energy counter and clears its sticky bit. -/
  | pwrEvalWrite (v : Word)
  /-- PARTITION_LOAD (R392): part.cmd LOAD applies a partition record as one change or refuses it. -/
  | partitionLoad (v : Word)
  /-- POWER_MEASURE (R393): Every 1 µs the scheduler measures power and throttles or unthrottles partitions. -/
  | powerMeasure (mw : Nat)
  /-- MILLPOND_HOLD (R389): A reserve below 70 % makes the region's ingress elements withhold firings. -/
  | millpondHold (r pct : Nat)
  /-- MILLPOND_RELEASE (R389): A reserve back at 80 %, or 1.5 µs elapsed, ends the hold. -/
  | millpondRelease (r pct : Nat)
  /-- REGION_IDLE_GATE (R390): An idle region with a long predicted idle interval is gated on retention. -/
  | regionIdleGate (r : Nat)
  /-- REGION_IDLE_WAKE (R390): A waking event restores a gated region's power before proceeding. -/
  | regionIdleWake (r : Nat)
  /-- HOST_MEMORY_WINDOW (R396): A host request reads or writes device memory through a partition's translation. -/
  | hostMemoryWindow (part : Nat) (va : Word) (write : Bool) (data : List Byte)
  /-- HOST_TASK_POST (R396): A task post with ARM = 0 lowers a task's counter as DEPD. -/
  | hostTaskPost (v : Word)
  /-- HOST_ARM_POST (R396): A task post with ARM = 1 sets a task's counter as DEPR. -/
  | hostArmPost (v : Word)
  /-- ATTESTATION_REQUEST (R400): A nonce request returns a signed measurement report. -/
  | attestationRequest (nonce : List Byte)
  /-- MODULE_RESET (R400): The boot ROM verifies and runs firmware stages, extending measurements. -/
  | moduleReset (stages : List (List Byte))
  /-- REGACC_READ (R400): TAP register access reading a sequencer's register when debug is enabled. -/
  | regaccRead (target : BitVec 8) (id : BitVec 12)
  /-- REGACC_WRITE (R400): TAP register access writing a sequencer's register when debug is enabled. -/
  | regaccWrite (target : BitVec 8) (id : BitVec 12) (v : Word)
  /-- ACCESS_PERFORMED (R311): A device-memory access issued by a control thread or its sequencer (load data, store or atomic acceptance, CFGL image read, flag or fault-log write) is performed and its value or acceptance returns. -/
  | accessPerformed (q blk ix : Nat)
  /-- TILE_PORT_WRITE (R194): A data token at a tile port is written into TL in a firing of its own. -/
  | tilePortWrite
  /-- TILE_EXCHANGE (R194): Paired XCH tokens at tile port and stream input swap TA and TL. -/
  | tileExchange
  /-- CONTROL_TOKEN_PASSAGE (R357): An element with all used inputs closed consumes WEIR or SLUICE, saves or resets state and emits it onward. -/
  | controlTokenPassage
  /-- VADD (R76): Firing that adds two tiles elementwise. -/
  | vadd
  /-- VSUB (R76): Firing that subtracts two tiles elementwise. -/
  | vsub
  /-- VMUL (R183): Firing that multiplies two tiles elementwise. -/
  | vmul
  /-- VMIN (R183): Firing giving the elementwise minimum. -/
  | vmin
  /-- VMAX (R183): Firing giving the elementwise maximum. -/
  | vmax
  /-- VABS (R183): Firing giving elementwise absolute values. -/
  | vabs
  /-- VNEG (R183): Firing giving elementwise negation. -/
  | vneg
  /-- VADDS (R183): Firing giving saturated integer sums. -/
  | vadds
  /-- VSUBS (R183): Firing giving saturated integer differences. -/
  | vsubs
  /-- VAND (R183): Firing giving elementwise bitwise and. -/
  | vand
  /-- VOR (R183): Firing giving elementwise bitwise or. -/
  | vor
  /-- VXOR (R183): Firing giving elementwise bitwise exclusive or. -/
  | vxor
  /-- VSHL (R183): Firing giving elementwise left shifts. -/
  | vshl
  /-- VSHR (R183): Firing giving elementwise logical right shifts. -/
  | vshr
  /-- VSRA (R183): Firing giving elementwise arithmetic right shifts. -/
  | vsra
  /-- VCMP (R78): Firing comparing two tiles elementwise under a MODE condition. -/
  | vcmp
  /-- VCMPI (R78): Firing comparing a tile with the immediate in P0. -/
  | vcmpi
  /-- VSEL (R79): Firing selecting x or y elementwise by predicate. -/
  | vsel
  /-- VADDI (R77): Firing adding the sign-extended P0 to each element. -/
  | vaddi
  /-- VCVT (R184): Firing converting a tile to OFMT with one rounding, choosing MX scales. -/
  | vcvt
  /-- VSCL (R185): Firing scaling a tile by a power of two. -/
  | vscl
  /-- VFMA (R186): Firing computing a times b plus c elementwise. -/
  | vfma
  /-- VEXP2 (R187): Firing giving correctly rounded 2^a. -/
  | vexp2
  /-- VLOG2 (R187): Firing giving correctly rounded log2 a. -/
  | vlog2
  /-- VRCP (R187): Firing giving correctly rounded reciprocals. -/
  | vrcp
  /-- VRSQ (R187): Firing giving correctly rounded reciprocal square roots. -/
  | vrsq
  /-- VTANH (R187): Firing giving correctly rounded tanh. -/
  | vtanh
  /-- VSIGM (R187): Firing giving the correctly rounded logistic sigmoid. -/
  | vsigm
  /-- VRSUM (R188): Firing giving exact row sums rounded once. -/
  | vrsum
  /-- VRMAX (R189): Firing giving row maxima. -/
  | vrmax
  /-- VTRN (R190): Firing emitting the transpose after the last input beat. -/
  | vtrn
  /-- HMIX (R191): Firing emitting one counter-based keep-mask word per row. -/
  | hmix
  /-- VMASK (R193): Firing applying a mask and scale to a data tile. -/
  | vmask
  /-- MMA (R199): Firing accumulating activation rows against TA and emitting an image at LR or LS. -/
  | mma
  /-- SYSM (R200): Systolic cell firing adding its product to the partial image from the north and forwarding the activation east. -/
  | sysm
  /-- ACLR (R204): Firing emitting a zero CSIMG image per trigger. -/
  | aclr
  /-- RES (R205): Firing resolving an image to a tile of OFMT with one rounding. -/
  | res
  /-- RESN (R206): Firing converting a CSIMG image to canonical NRIMG. -/
  | resn
  /-- ACMP (R207): Firing comparing exact lane values with a threshold into a mask. -/
  | acmp
  /-- ASTR (R208): Firing setting an image's check word. -/
  | astr
  /-- ALD (R208): Firing checking a reloaded image, or converting a tile exactly into an image. -/
  | ald
  /-- AADD (R209): Firing adding images exactly, pairwise or into a running image. -/
  | aadd
  /-- TLD (R195): Firing applying the held tile TA to a stream token. -/
  | tld
  /-- TXCH (R197): Firing forwarding tokens and inserting an XCH after every P0 data tokens. -/
  | txch
  /-- TEMIT (R196): Firing emitting a copy of TA per trigger. -/
  | temit
  /-- BUFW (R218): Firing writing a token into the next MN entry and setting it full. -/
  | bufw
  /-- BUFR (R218): Firing storing tokens and emitting the oldest entry per request. -/
  | bufr
  /-- BUFRP (R218): Firing filling entries and replaying them P3 times. -/
  | bufrp
  /-- BUFRN (R218): Firing filling entries and emitting the entry each index names. -/
  | bufrn
  /-- SCRW (R219): Firing writing a token into scratch at an offset. -/
  | scrw
  /-- SCRR (R219): Firing reading a token from scratch at an offset on demand. -/
  | scrr
  /-- AGSEQ (R224): Firing emitting the next tile address of an affine walk. -/
  | agseq
  /-- AGLD (R224): Firing emitting the next tile of the walk on demand. -/
  | agld
  /-- AGST (R224): Firing writing a token to the next tile of the walk. -/
  | agst
  /-- AGGAT (R289): Firing gathering indexed table rows into a token. -/
  | aggat
  /-- AGSCT (R289): Firing scattering token rows to indexed table rows. -/
  | agsct
  /-- AGATM (R289): Firing performing indivisible read-modify-writes on indexed elements. -/
  | agatm
  /-- AG_DESCRIPTOR_FETCH (R222): The descriptor fetched on arming arrives, or is found bad. -/
  | agDescriptorFetch
  /-- AG_MEMORY_RESPONSE (R225): A memory response to an element access arrives, yielding data, a poisoned token or a dropped write. -/
  | agMemoryResponse
  /-- AG_PAGE_FAULT (R361): An element access meets a page fault, stalls and is reported to the pager. -/
  | agPageFault
  /-- STEER (R63): Firing sending a data token to its true or false way by predicate. -/
  | steer
  /-- STEERN (R64): Firing sending a data token to the output its selector names. -/
  | steern
  /-- SINK (R65): Firing consuming a data token. -/
  | sink
  /-- MERGE (R66): Firing forwarding the way the control token selects. -/
  | merge
  /-- MERGEA (R67): Firing forwarding heads in arrival order. -/
  | mergea
  /-- MERGEC (R68): Firing forwarding heads in chainage order, poisoning stale ones. -/
  | mergec
  /-- CARRY (R69): Firing forwarding the initial or loop-back value by the decider. -/
  | carry
  /-- INV (R70): Firing re-emitting a kept loop-invariant value per decider. -/
  | inv
  /-- REPEAT (R210): Firing re-emitting a message a counted number of times. -/
  | repeatTok
  /-- REPEATP (R210): Firing re-emitting a message P1 times. -/
  | repeatp
  /-- CONST (R211): Firing emitting a constant token. -/
  | const
  /-- COUNT (R212): Firing emitting the next counter value. -/
  | count
  /-- RATEM (R213): Firing giving MX tile rows their scales from a scale token. -/
  | ratem
  /-- SCSPLIT (R214): Firing splitting an MX tile into elements and scales. -/
  | scsplit
  /-- SCJOIN (R215): Firing joining a scale token with a tile. -/
  | scjoin
  /-- RDADD (R216): Firing reducing tokens by exact addition. -/
  | rdadd
  /-- RDMAX (R216): Firing reducing tokens by maximum. -/
  | rdmax
  /-- RDMIN (R216): Firing reducing tokens by minimum. -/
  | rdmin
  /-- FAN (R217): Firing replicating a token onto every used output. -/
  | fan
  /-- INGR (R73): Firing emitting tokens of complete messages popped from a stream buffer. -/
  | ingr
  /-- EGR (R303): Firing pushing a token into a stream buffer, discarding oversize messages. -/
  | egr
  /-- INGRQ (R71): Firing turning an ingress-queue entry into a stamped token. -/
  | ingrq
  /-- EGRQ (R72): Firing placing a token's header or element into the egress queue. -/
  | egrq
  /-- FLSET (R284): Firing setting a flag and forwarding the token once performed. -/
  | flset
  /-- FLCLR (R284): Firing clearing a flag and forwarding the token. -/
  | flclr
  /-- FLTST (R284): Firing emitting a flag's value. -/
  | fltst
  /-- FLWAIT (R284): Firing forwarding a token once the flag has held the awaited value. -/
  | flwait
  /-- FLGATE (R284): Firing routing a token by a flag's value. -/
  | flgate
  /-- ERROR_WINDOW_EXPIRE (R365): At the end of each window the error counts return to zero. -/
  | errorWindowExpire
  /-- STATIC_ENERGY_TICK (R382): Each whole ns adds SPW pJ to sq.energy while SEN is set and the task resident. -/
  | staticEnergyTick
  /-- EXTEST (R400): TAP instruction selecting the boundary-scan register for external test. -/
  | extest
  /-- IDCODE (R400): TAP instruction returning the 32-bit identification code. -/
  | idcode
  /-- SAMPLE_PRELOAD (R400): TAP instruction selecting boundary scan for sampling and preload. -/
  | samplePreload
  /-- SQHALT_STOP (R400): TAP command stopping the service sequencer between blocks. -/
  | sqhaltStop
  /-- SQHALT_RELEASE (R400): TAP command releasing the service sequencer. -/
  | sqhaltRelease
  /-- BYPASS (R400): TAP instruction selecting the one-bit bypass register. -/
  | bypass
  deriving DecidableEq, Repr

end Sys2Proof
end

