-- ==== Sys2Proof/WellFormed.lean ====
section
/-! DEFINITION. Well-formed instructions: the checks of R18 that one instruction word alone can pass or
fail (reserved fields and codes of R13-R17, the shift immediates, the site and parameter selectors, the
target fields that R16 marks "none"), and for the other rows the parties that exist (R2, R3, R290, R346). -/

namespace Sys2Proof

/-- The target value that means no target (R14). -/
def noTarget : Target := 0x1FF

/-- A site of one of the 96 regions (R2, R3). -/
def Site.wf (e : Site) : Bool := e.r < 96 && e.s < 96

/-- An input port of a site (R33). -/
def Port.wf (p : Port) : Bool := p.r < 96 && p.p < 384

/-- The fields of the instruction are ones the spec gives it; the party a step names exists. -/
def Instr.wf : Instr → Bool
  | .rdg _ => true
  | .wrg _ => true
  | .mov f => f.m == 0
  | .movi _ => true
  | .movhi _ => true
  | .null _ => true
  | .snul f => f.wd == 0 && f.imm == 0
  | .add f => f.m.toNat < 2
  | .sub f => f.m.toNat < 2
  | .mul f => f.m.toNat < 2
  | .mulh f => f.m.toNat < 2
  | .mulhu f => f.m.toNat < 2
  | .div f => f.m.toNat < 2
  | .divu f => f.m.toNat < 2
  | .rem f => f.m.toNat < 2
  | .remu f => f.m.toNat < 2
  | .and f => f.m.toNat < 2
  | .or f => f.m.toNat < 2
  | .xor f => f.m.toNat < 2
  | .shl f => f.m.toNat < 2
  | .shr f => f.m.toNat < 2
  | .sra f => f.m.toNat < 2
  | .rol f => f.m.toNat < 2
  | .min f => f.m.toNat < 2
  | .max f => f.m.toNat < 2
  | .minu f => f.m.toNat < 2
  | .maxu f => f.m.toNat < 2
  | .clz f => f.m.toNat < 2
  | .popc f => f.m.toNat < 2
  | .ext f => f.m.toNat < 6
  | .addi _ => true
  | .andi _ => true
  | .ori _ => true
  | .xori _ => true
  | .shli f => f.imm.toNat < 64
  | .shri f => f.imm.toNat < 64
  | .srai f => f.imm.toNat < 64
  | .muli _ => true
  | .teq f => f.m.toNat < 2
  | .tne f => f.m.toNat < 2
  | .tlt f => f.m.toNat < 2
  | .tltu f => f.m.toNat < 2
  | .tle f => f.m.toNat < 2
  | .tleu f => f.m.toNat < 2
  | .tgt f => f.m.toNat < 2
  | .tgtu f => f.m.toNat < 2
  | .tge f => f.m.toNat < 2
  | .tgeu f => f.m.toNat < 2
  | .teqi _ => true
  | .tnei _ => true
  | .tlti _ => true
  | .tgei _ => true
  | .fadd f => f.m.toNat < 2
  | .fsub f => f.m.toNat < 2
  | .fmul f => f.m.toNat < 2
  | .fdiv f => f.m.toNat < 2
  | .fma f => f.m.toNat < 2
  | .fmin f => f.m.toNat < 2
  | .fmax f => f.m.toNat < 2
  | .fcvt _ => true
  | .fteq f => f.m.toNat < 2
  | .ftlt f => f.m.toNat < 2
  | .ftle f => f.m.toNat < 2
  | .fsqrt f => f.m.toNat < 2
  | .ld _ => true
  | .lds _ => true
  | .st _ => true
  | .amoadd f => f.scope.toNat < 5
  | .amoswp f => f.scope.toNat < 5
  | .amocas f => f.scope.toNat < 5
  | .amomin f => f.scope.toNat < 5
  | .amomax f => f.scope.toNat < 5
  | .amoand f => f.scope.toNat < 5
  | .amoor f => f.scope.toNat < 5
  | .fence f => f.scope.toNat < 5
  | .br _ => true
  | .bri f => f.off == 0
  | .call _ => true
  | .calli f => f.off == 0
  | .ret f => f.off == 0
  | .jtab _ => true
  | .loop _ => true
  | .scall f => f.off.toNat < 4096
  | .trap f => f.off.toNat < 4096
  | .eret f => f.off == 0
  | .cfgl f => f.imm.toNat < 4
  | .cfga f => f.t1 == noTarget && f.imm.toNat < 4
  | .drain f => f.imm == 0
  | .tcnt f => f.t1 == noTarget && f.imm.toNat < 128 && f.imm.toNat % 16 < 12
  | .spush f => f.t1 == noTarget && f.imm.toNat < 4
  | .spop f => f.imm.toNat < 4
  | .space f => f.imm.toNat < 4
  | .inj f => f.t1 == noTarget && f.imm.toNat < 4
  | .cfgw f => f.t1 == noTarget && f.imm.toNat % 16 < 12 && f.imm.toNat / 128 % 8 < 5
  | .bar f => f.imm == 0
  | .bwait _ => true
  | .bph f => f.imm == 0
  | .flgs _ => true
  | .flgc _ => true
  | .flgt _ => true
  | .flgw _ => true
  | .tagw f => f.imm == 0
  | .tagf f => f.imm == 0
  | .tagc f => f.t1 == noTarget && f.imm == 0
  | .depd f => f.t1 == noTarget
  | .depr f => f.t1 == noTarget
  | .cpch f => f.t1 == noTarget && f.imm.toNat < 256
  | .cpst f => f.t1 == noTarget && f.imm.toNat < 256
  | .cpab f => f.t1 == noTarget && f.imm.toNat < 256
  | .sysr _ => true
  | .sysw f => f.t1 == noTarget
  | .halt f => f.t1 == noTarget && f.imm == 0
  | .waiti f => f.imm == 0
  | .blockFetch q => q < 97
  | .blockDecode q => q < 97
  | .blockResolve q => q < 97
  | .blockCommit q => q < 97
  | .blkhang q => q < 97
  | .runaheadBlockStart q => q < 97
  | .dbghalt q => q < 97
  | .preempt die task reason => die < 4 && task < 4096 && reason < 16
  | .preemptGraceExpire die task => die < 4 && task < 4096
  | .registerWrite q _ _ => q < 97
  | .sqStatusWrite q _ => q < 97
  | .rasdWrite q _ => q < 97
  | .dbgCtlWrite q _ => q < 96
  | .dbgHaltWrite q k _ => q < 96 && k < 16
  | .dbgStep q _ => q < 96
  | .hangThaw q _ => q < 96
  | .hangDiscard q _ => q < 96
  | .flogCtlWrite q _ => q < 97
  | .flogRdWrite q _ => q < 97
  | .hangDeclaration r => r < 96
  | .tokenVisible p => p.wf
  | .requestArrival p => p.wf
  | .strayControlDiscard p => p.wf
  | .tilePortWrite => true
  | .tileExchange => true
  | .controlTokenPassage => true
  | .sluicePark p => p.wf
  | .vadd => true
  | .vsub => true
  | .vmul => true
  | .vmin => true
  | .vmax => true
  | .vabs => true
  | .vneg => true
  | .vadds => true
  | .vsubs => true
  | .vand => true
  | .vor => true
  | .vxor => true
  | .vshl => true
  | .vshr => true
  | .vsra => true
  | .vcmp => true
  | .vcmpi => true
  | .vsel => true
  | .vaddi => true
  | .vcvt => true
  | .vscl => true
  | .vfma => true
  | .vexp2 => true
  | .vlog2 => true
  | .vrcp => true
  | .vrsq => true
  | .vtanh => true
  | .vsigm => true
  | .vrsum => true
  | .vrmax => true
  | .vtrn => true
  | .hmix => true
  | .vmask => true
  | .mma => true
  | .sysm => true
  | .aclr => true
  | .res => true
  | .resn => true
  | .acmp => true
  | .astr => true
  | .ald => true
  | .aadd => true
  | .tld => true
  | .txch => true
  | .temit => true
  | .bufw => true
  | .bufr => true
  | .bufrp => true
  | .bufrn => true
  | .scrw => true
  | .scrr => true
  | .agseq => true
  | .agld => true
  | .agst => true
  | .aggat => true
  | .agsct => true
  | .agatm => true
  | .agDescriptorFetch => true
  | .agMemoryResponse => true
  | .agPageFault => true
  | .steer => true
  | .steern => true
  | .sink => true
  | .merge => true
  | .mergea => true
  | .mergec => true
  | .carry => true
  | .inv => true
  | .repeatTok => true
  | .repeatp => true
  | .const => true
  | .count => true
  | .ratem => true
  | .scsplit => true
  | .scjoin => true
  | .rdadd => true
  | .rdmax => true
  | .rdmin => true
  | .fan => true
  | .ingr => true
  | .egr => true
  | .ingrq => true
  | .egrq => true
  | .flset => true
  | .flclr => true
  | .fltst => true
  | .flwait => true
  | .flgate => true
  | .remoteFrameReceive peer _ _ _ => peer < 64
  | .remoteRetransmit peer _ => peer < 64
  | .remotePeerTimeout peer => peer < 64
  | .contextArm _ => true
  | .drainComplete _ => true
  | .phaseEnd _ => true
  | .barrierArrival _ => true
  | .copyChainStart die ch => die < 4 && ch < 64
  | .copyRecordRead die ch => die < 4 && ch < 64
  | .copyWriteUnit die ch => die < 4 && ch < 64
  | .copyRecordComplete die ch => die < 4 && ch < 64
  | .headraceRecordRead die => die < 4
  | .headraceSectionComplete die => die < 4
  | .taskAllocate die task => die < 4 && task < 4096
  | .taskSelect die => die < 4
  | .taskLaunch die task => die < 4 && task < 4096
  | .taskEnd die task => die < 4 && task < 4096
  | .preemptDecision die => die < 4
  | .saveComplete die task => die < 4 && task < 4096
  | .taskResume die task => die < 4 && task < 4096
  | .restoreComplete die task => die < 4 && task < 4096
  | .taskFault die task => die < 4 && task < 4096
  | .taskResetByHost die task => die < 4 && task < 4096
  | .taskReleaseByHost die task => die < 4 && task < 4096
  | .stageWiden die task _ => die < 4 && task < 4096
  | .pagerResolve part => part < 8
  | .correctedError _ _ => true
  | .errorWindowExpire => true
  | .quiesce _ => true
  | .quiesceComplete die col => die < 4 && col < 6
  | .retain _ => true
  | .retainComplete die col => die < 4 && col < 6
  | .gate _ => true
  | .gateComplete die col => die < 4 && col < 6
  | .release _ => true
  | .groupSelectDie _ => true
  | .wake _ => true
  | .wakeComplete die col => die < 4 && col < 6
  | .pwrCapWrite _ => true
  | .pwrErrlogClear _ => true
  | .pwrVsetWrite _ => true
  | .voltageSlew r => r < 96
  | .pwrEvalWrite _ => true
  | .partitionLoad _ => true
  | .powerMeasure _ => true
  | .millpondHold r _ => r < 96
  | .millpondRelease r _ => r < 96
  | .regionIdleGate r => r < 96
  | .regionIdleWake r => r < 96
  | .staticEnergyTick => true
  | .hostMemoryWindow part _ _ _ => part < 8
  | .hostTaskPost v => !v.getLsbD 14
  | .hostArmPost v => v.getLsbD 14
  | .attestationRequest nonce => nonce.length == 64
  | .moduleReset _ => true
  | .extest => true
  | .idcode => true
  | .samplePreload => true
  | .regaccRead _ _ => true
  | .regaccWrite _ _ _ => true
  | .sqhaltStop => true
  | .sqhaltRelease => true
  | .bypass => true
  | .accessPerformed q _ _ => q < 97

end Sys2Proof
end

