-- ==== Sys2Proof/Decode.lean ====
section
/-! DEFINITION. Decoding and encoding of control-thread words (R12-R17) and of TAP scans (chapter 19,
Debug access). -/

namespace Sys2Proof

/-- Why a word is no instruction. -/
inductive DecodeError where
  /-- The opcode is not in the map of R16 (R18). -/
  | opcode
  /-- PR = 0b01 (R14, R18). -/
  | predicate
  /-- A reserved or zero field is set, a code or selector is reserved, or a field that must hold 0x1FF does not (R18). -/
  | field
  /-- Too few bytes for a word. -/
  | short
  deriving DecidableEq, Repr

/-- PR of a word (R14). -/
def prOf : BitVec 2 → Option Pr
  | 0 => some .always
  | 2 => some .onTrue
  | 3 => some .onFalse
  | _ => none

/-- PR as encoded (R14). -/
def Pr.bits : Pr → BitVec 2
  | .always => 0
  | .onTrue => 2
  | .onFalse => 3

/-- The format of an opcode and the instruction it makes (R13, R16). -/
inductive Form where
  | rd (c : RD → Instr)
  | wr (c : WR → Instr)
  | t2 (c : T2 → Instr)
  | tb (c : TB → Instr)
  | ti (c : TI → Instr)
  | tc (c : TC → Instr)
  | ls (c : LS → Instr)
  | st (c : ST → Instr)
  | am (c : AM → Instr)
  | fn (c : FN → Instr)
  | bx (c : BX → Instr)

/-- The opcode map of the control thread (R16). -/
def formOf : Nat → Option Form
  | 0x01 => some (.rd .rdg)
  | 0x02 => some (.wr .wrg)
  | 0x03 => some (.t2 .mov)
  | 0x04 => some (.ti .movi)
  | 0x05 => some (.ti .movhi)
  | 0x06 => some (.tb .null)
  | 0x07 => some (.st .snul)
  | 0x10 => some (.t2 .add)
  | 0x11 => some (.t2 .sub)
  | 0x12 => some (.t2 .mul)
  | 0x13 => some (.t2 .mulh)
  | 0x14 => some (.t2 .mulhu)
  | 0x15 => some (.t2 .div)
  | 0x16 => some (.t2 .divu)
  | 0x17 => some (.t2 .rem)
  | 0x18 => some (.t2 .remu)
  | 0x19 => some (.t2 .and)
  | 0x1A => some (.t2 .or)
  | 0x1B => some (.t2 .xor)
  | 0x1C => some (.t2 .shl)
  | 0x1D => some (.t2 .shr)
  | 0x1E => some (.t2 .sra)
  | 0x1F => some (.t2 .rol)
  | 0x20 => some (.t2 .min)
  | 0x21 => some (.t2 .max)
  | 0x22 => some (.t2 .minu)
  | 0x23 => some (.t2 .maxu)
  | 0x24 => some (.t2 .clz)
  | 0x25 => some (.t2 .popc)
  | 0x26 => some (.t2 .ext)
  | 0x30 => some (.ti .addi)
  | 0x31 => some (.ti .andi)
  | 0x32 => some (.ti .ori)
  | 0x33 => some (.ti .xori)
  | 0x34 => some (.ti .shli)
  | 0x35 => some (.ti .shri)
  | 0x36 => some (.ti .srai)
  | 0x37 => some (.ti .muli)
  | 0x40 => some (.t2 .teq)
  | 0x41 => some (.t2 .tne)
  | 0x42 => some (.t2 .tlt)
  | 0x43 => some (.t2 .tltu)
  | 0x44 => some (.t2 .tle)
  | 0x45 => some (.t2 .tleu)
  | 0x46 => some (.t2 .tgt)
  | 0x47 => some (.t2 .tgtu)
  | 0x48 => some (.t2 .tge)
  | 0x49 => some (.t2 .tgeu)
  | 0x4A => some (.ti .teqi)
  | 0x4B => some (.ti .tnei)
  | 0x4C => some (.ti .tlti)
  | 0x4D => some (.ti .tgei)
  | 0x50 => some (.t2 .fadd)
  | 0x51 => some (.t2 .fsub)
  | 0x52 => some (.t2 .fmul)
  | 0x53 => some (.t2 .fdiv)
  | 0x54 => some (.t2 .fma)
  | 0x55 => some (.t2 .fmin)
  | 0x56 => some (.t2 .fmax)
  | 0x57 => some (.t2 .fcvt)
  | 0x58 => some (.t2 .fteq)
  | 0x59 => some (.t2 .ftlt)
  | 0x5A => some (.t2 .ftle)
  | 0x5B => some (.t2 .fsqrt)
  | 0x60 => some (.ls .ld)
  | 0x61 => some (.ls .lds)
  | 0x62 => some (.st .st)
  | 0x63 => some (.am .amoadd)
  | 0x64 => some (.am .amoswp)
  | 0x65 => some (.am .amocas)
  | 0x66 => some (.am .amomin)
  | 0x67 => some (.am .amomax)
  | 0x68 => some (.am .amoand)
  | 0x69 => some (.am .amoor)
  | 0x6A => some (.fn .fence)
  | 0x70 => some (.bx .br)
  | 0x71 => some (.bx .bri)
  | 0x72 => some (.bx .call)
  | 0x73 => some (.bx .calli)
  | 0x74 => some (.bx .ret)
  | 0x75 => some (.bx .jtab)
  | 0x76 => some (.bx .loop)
  | 0x77 => some (.bx .scall)
  | 0x78 => some (.bx .trap)
  | 0x79 => some (.bx .eret)
  | 0x80 => some (.tc .cfgl)
  | 0x81 => some (.tc .cfga)
  | 0x82 => some (.tc .drain)
  | 0x83 => some (.tc .tcnt)
  | 0x84 => some (.tc .spush)
  | 0x85 => some (.tc .spop)
  | 0x86 => some (.tc .space)
  | 0x87 => some (.tc .inj)
  | 0x88 => some (.tc .cfgw)
  | 0x90 => some (.tc .bar)
  | 0x91 => some (.tb .bwait)
  | 0x92 => some (.tc .bph)
  | 0x93 => some (.tc .flgs)
  | 0x94 => some (.tc .flgc)
  | 0x95 => some (.tc .flgt)
  | 0x96 => some (.tc .flgw)
  | 0x97 => some (.tc .tagw)
  | 0x98 => some (.tc .tagf)
  | 0x99 => some (.tc .tagc)
  | 0x9A => some (.tc .depd)
  | 0x9B => some (.tc .depr)
  | 0xA0 => some (.tc .cpch)
  | 0xA1 => some (.tc .cpst)
  | 0xA2 => some (.tc .cpab)
  | 0xB0 => some (.ti .sysr)
  | 0xB1 => some (.tc .sysw)
  | 0xB2 => some (.tc .halt)
  | 0xB3 => some (.tc .waiti)
  | _ => none

/-- The bit at a position, as a flag. -/
def bitAt (w : BitVec 32) (n : Nat) : Bool := w.extractLsb' n 1 == 1

/-- Builds the instruction of a format from a word, where the fields the format fixes to zero are zero and PR
is not reserved (R13, R14). -/
def Form.build (w : BitVec 32) : Form → Except DecodeError Instr
  | .rd c => .ok (c ⟨w.extractLsb' 18 6, w.extractLsb' 9 9, w.extractLsb' 0 9⟩)
  | .wr c =>
    match prOf (w.extractLsb' 22 2) with
    | none => .error .predicate
    | some p => if w.extractLsb' 0 16 == 0 then .ok (c ⟨p, w.extractLsb' 16 6⟩) else .error .field
  | .t2 c =>
    match prOf (w.extractLsb' 21 2) with
    | none => .error .predicate
    | some p => .ok (c ⟨bitAt w 23, p, w.extractLsb' 12 9, w.extractLsb' 3 9, w.extractLsb' 0 3⟩)
  | .tb c =>
    match prOf (w.extractLsb' 21 2) with
    | none => .error .predicate
    | some p =>
      if bitAt w 23 || w.extractLsb' 0 3 != 0 then .error .field
      else .ok (c ⟨p, w.extractLsb' 12 9, w.extractLsb' 3 9⟩)
  | .ti c =>
    match prOf (w.extractLsb' 21 2) with
    | none => .error .predicate
    | some p => .ok (c ⟨bitAt w 23, p, w.extractLsb' 12 9, w.extractLsb' 0 12⟩)
  | .tc c =>
    match prOf (w.extractLsb' 21 2) with
    | none => .error .predicate
    | some p =>
      if bitAt w 23 then .error .field else .ok (c ⟨p, w.extractLsb' 12 9, w.extractLsb' 0 12⟩)
  | .ls c =>
    match prOf (w.extractLsb' 21 2) with
    | none => .error .predicate
    | some p =>
      .ok (c ⟨bitAt w 23, p, w.extractLsb' 16 5, w.extractLsb' 7 9, w.extractLsb' 5 2, w.extractLsb' 0 5⟩)
  | .st c =>
    match prOf (w.extractLsb' 21 2) with
    | none => .error .predicate
    | some p =>
      if bitAt w 23 then .error .field
      else .ok (c ⟨p, w.extractLsb' 16 5, w.extractLsb' 14 2, w.extractLsb' 0 14⟩)
  | .am c =>
    match prOf (w.extractLsb' 21 2) with
    | none => .error .predicate
    | some p =>
      if bitAt w 23 || bitAt w 0 then .error .field
      else .ok (c ⟨p, w.extractLsb' 16 5, w.extractLsb' 7 9, bitAt w 6, w.extractLsb' 3 3, w.extractLsb' 1 2⟩)
  | .fn c => .ok (c ⟨w.extractLsb' 19 5, w.extractLsb' 16 3, w.extractLsb' 8 8, w.extractLsb' 0 8⟩)
  | .bx c =>
    match prOf (w.extractLsb' 21 2) with
    | none => .error .predicate
    | some p =>
      if bitAt w 23 then .error .field else .ok (c ⟨p, w.extractLsb' 18 3, w.extractLsb' 0 18⟩)

/-- The instruction a control-thread word stands for, or the reason it is none (R13-R18). Log entry 6 (DEDUCED). -/
def decode (w : BitVec 32) : Except DecodeError Instr :=
  match formOf (w.extractLsb' 24 8).toNat with
  | none => .error .opcode
  | some f =>
    match f.build w with
    | .error e => .error e
    | .ok i => if i.wf then .ok i else .error .field

/-- Four bytes as the little-endian word of R12. -/
def wordOfBytes (b0 b1 b2 b3 : Byte) : BitVec 32 := b3 ++ b2 ++ b1 ++ b0

/-- Decoding from the bytes at an instruction's address: the instruction and the bytes after it. -/
def decodeBytes : List Byte → Except DecodeError (Instr × List Byte)
  | b0 :: b1 :: b2 :: b3 :: rest =>
    match decode (wordOfBytes b0 b1 b2 b3) with
    | .error e => .error e
    | .ok i => .ok (i, rest)
  | _ => .error .short

/-- The step a TAP scan asks for: the instruction code in [7:0] and the data register above it.  A code that
is not listed selects BYPASS; a REGACC whose [75:64] is neither 0 nor 1 is neither a read nor a write
(chapter 19, Debug access). Log entry 88 (DEDUCED). -/
def decodeTap (scan : BitVec 104) : Except DecodeError Instr :=
  match (scan.extractLsb' 0 8).toNat with
  | 0x00 => .ok .extest
  | 0x01 => .ok .idcode
  | 0x02 => .ok .samplePreload
  | 0x20 =>
    match (scan.extractLsb' 72 12).toNat with
    | 0 => .ok (.regaccRead (scan.extractLsb' 96 8) (scan.extractLsb' 84 12))
    | 1 => .ok (.regaccWrite (scan.extractLsb' 96 8) (scan.extractLsb' 84 12) (scan.extractLsb' 8 64))
    | _ => .error .field
  | 0x21 => if scan.extractLsb' 8 1 == 1 then .ok .sqhaltStop else .ok .sqhaltRelease
  | _ => .ok .bypass

/-- The instruction the decoder reads from bits numbered as spec/opcode_table.json numbers them: a
control-thread word of 32 bits, or a TAP code of 8 bits whose data register holds zeros. -/
def decodeTableWord (nbits w : Nat) : Option Instr :=
  let r := if nbits == 32 then decode (BitVec.ofNat 32 w)
           else if nbits == 8 then decodeTap (BitVec.ofNat 104 (w % 256)) else .error .short
  match r with
  | .ok i => some i
  | .error _ => none

/-- The word of each format (R13). -/
def encRD (op : BitVec 8) (f : RD) : BitVec 32 := op ++ f.g ++ f.t1 ++ f.t2
def encWR (op : BitVec 8) (f : WR) : BitVec 32 := op ++ f.pr.bits ++ f.g ++ (0 : BitVec 16)
def encT2 (op : BitVec 8) (f : T2) : BitVec 32 := op ++ BitVec.ofBool f.a ++ f.pr.bits ++ f.t1 ++ f.t2 ++ f.m
def encTB (op : BitVec 8) (f : TB) : BitVec 32 :=
  op ++ (0 : BitVec 1) ++ f.pr.bits ++ f.t1 ++ f.t2 ++ (0 : BitVec 3)
def encTI (op : BitVec 8) (f : TI) : BitVec 32 := op ++ BitVec.ofBool f.a ++ f.pr.bits ++ f.t1 ++ f.imm
def encTC (op : BitVec 8) (f : TC) : BitVec 32 := op ++ (0 : BitVec 1) ++ f.pr.bits ++ f.t1 ++ f.imm
def encLS (op : BitVec 8) (f : LS) : BitVec 32 :=
  op ++ BitVec.ofBool f.a ++ f.pr.bits ++ f.lsid ++ f.t1 ++ f.wd ++ f.imm
def encST (op : BitVec 8) (f : ST) : BitVec 32 :=
  op ++ (0 : BitVec 1) ++ f.pr.bits ++ f.lsid ++ f.wd ++ f.imm
def encAM (op : BitVec 8) (f : AM) : BitVec 32 :=
  op ++ (0 : BitVec 1) ++ f.pr.bits ++ f.lsid ++ f.t1 ++ BitVec.ofBool f.w ++ f.scope ++ f.ord ++ (0 : BitVec 1)
def encFN (op : BitVec 8) (f : FN) : BitVec 32 := op ++ f.lsid ++ f.scope ++ f.pred ++ f.succ
def encBX (op : BitVec 8) (f : BX) : BitVec 32 := op ++ (0 : BitVec 1) ++ f.pr.bits ++ f.x ++ f.off

/-- The word of a control-thread instruction (R13, R16); none for the rows that have no word. -/
def encode : Instr → Option (BitVec 32)
  | .rdg f => some (encRD 0x01 f)
  | .wrg f => some (encWR 0x02 f)
  | .mov f => some (encT2 0x03 f)
  | .movi f => some (encTI 0x04 f)
  | .movhi f => some (encTI 0x05 f)
  | .null f => some (encTB 0x06 f)
  | .snul f => some (encST 0x07 f)
  | .add f => some (encT2 0x10 f)
  | .sub f => some (encT2 0x11 f)
  | .mul f => some (encT2 0x12 f)
  | .mulh f => some (encT2 0x13 f)
  | .mulhu f => some (encT2 0x14 f)
  | .div f => some (encT2 0x15 f)
  | .divu f => some (encT2 0x16 f)
  | .rem f => some (encT2 0x17 f)
  | .remu f => some (encT2 0x18 f)
  | .and f => some (encT2 0x19 f)
  | .or f => some (encT2 0x1A f)
  | .xor f => some (encT2 0x1B f)
  | .shl f => some (encT2 0x1C f)
  | .shr f => some (encT2 0x1D f)
  | .sra f => some (encT2 0x1E f)
  | .rol f => some (encT2 0x1F f)
  | .min f => some (encT2 0x20 f)
  | .max f => some (encT2 0x21 f)
  | .minu f => some (encT2 0x22 f)
  | .maxu f => some (encT2 0x23 f)
  | .clz f => some (encT2 0x24 f)
  | .popc f => some (encT2 0x25 f)
  | .ext f => some (encT2 0x26 f)
  | .addi f => some (encTI 0x30 f)
  | .andi f => some (encTI 0x31 f)
  | .ori f => some (encTI 0x32 f)
  | .xori f => some (encTI 0x33 f)
  | .shli f => some (encTI 0x34 f)
  | .shri f => some (encTI 0x35 f)
  | .srai f => some (encTI 0x36 f)
  | .muli f => some (encTI 0x37 f)
  | .teq f => some (encT2 0x40 f)
  | .tne f => some (encT2 0x41 f)
  | .tlt f => some (encT2 0x42 f)
  | .tltu f => some (encT2 0x43 f)
  | .tle f => some (encT2 0x44 f)
  | .tleu f => some (encT2 0x45 f)
  | .tgt f => some (encT2 0x46 f)
  | .tgtu f => some (encT2 0x47 f)
  | .tge f => some (encT2 0x48 f)
  | .tgeu f => some (encT2 0x49 f)
  | .teqi f => some (encTI 0x4A f)
  | .tnei f => some (encTI 0x4B f)
  | .tlti f => some (encTI 0x4C f)
  | .tgei f => some (encTI 0x4D f)
  | .fadd f => some (encT2 0x50 f)
  | .fsub f => some (encT2 0x51 f)
  | .fmul f => some (encT2 0x52 f)
  | .fdiv f => some (encT2 0x53 f)
  | .fma f => some (encT2 0x54 f)
  | .fmin f => some (encT2 0x55 f)
  | .fmax f => some (encT2 0x56 f)
  | .fcvt f => some (encT2 0x57 f)
  | .fteq f => some (encT2 0x58 f)
  | .ftlt f => some (encT2 0x59 f)
  | .ftle f => some (encT2 0x5A f)
  | .fsqrt f => some (encT2 0x5B f)
  | .ld f => some (encLS 0x60 f)
  | .lds f => some (encLS 0x61 f)
  | .st f => some (encST 0x62 f)
  | .amoadd f => some (encAM 0x63 f)
  | .amoswp f => some (encAM 0x64 f)
  | .amocas f => some (encAM 0x65 f)
  | .amomin f => some (encAM 0x66 f)
  | .amomax f => some (encAM 0x67 f)
  | .amoand f => some (encAM 0x68 f)
  | .amoor f => some (encAM 0x69 f)
  | .fence f => some (encFN 0x6A f)
  | .br f => some (encBX 0x70 f)
  | .bri f => some (encBX 0x71 f)
  | .call f => some (encBX 0x72 f)
  | .calli f => some (encBX 0x73 f)
  | .ret f => some (encBX 0x74 f)
  | .jtab f => some (encBX 0x75 f)
  | .loop f => some (encBX 0x76 f)
  | .scall f => some (encBX 0x77 f)
  | .trap f => some (encBX 0x78 f)
  | .eret f => some (encBX 0x79 f)
  | .cfgl f => some (encTC 0x80 f)
  | .cfga f => some (encTC 0x81 f)
  | .drain f => some (encTC 0x82 f)
  | .tcnt f => some (encTC 0x83 f)
  | .spush f => some (encTC 0x84 f)
  | .spop f => some (encTC 0x85 f)
  | .space f => some (encTC 0x86 f)
  | .inj f => some (encTC 0x87 f)
  | .cfgw f => some (encTC 0x88 f)
  | .bar f => some (encTC 0x90 f)
  | .bwait f => some (encTB 0x91 f)
  | .bph f => some (encTC 0x92 f)
  | .flgs f => some (encTC 0x93 f)
  | .flgc f => some (encTC 0x94 f)
  | .flgt f => some (encTC 0x95 f)
  | .flgw f => some (encTC 0x96 f)
  | .tagw f => some (encTC 0x97 f)
  | .tagf f => some (encTC 0x98 f)
  | .tagc f => some (encTC 0x99 f)
  | .depd f => some (encTC 0x9A f)
  | .depr f => some (encTC 0x9B f)
  | .cpch f => some (encTC 0xA0 f)
  | .cpst f => some (encTC 0xA1 f)
  | .cpab f => some (encTC 0xA2 f)
  | .sysr f => some (encTI 0xB0 f)
  | .sysw f => some (encTC 0xB1 f)
  | .halt f => some (encTC 0xB2 f)
  | .waiti f => some (encTC 0xB3 f)
  | _ => none

/-- The scan of a TAP instruction: its code in [7:0] and its data register above (chapter 19). -/
def encodeTap : Instr → Option (BitVec 104)
  | .extest => some 0x00
  | .idcode => some 0x01
  | .samplePreload => some 0x02
  | .regaccRead t id => some (t ++ id ++ (0 : BitVec 12) ++ (0 : BitVec 64) ++ (0x20 : BitVec 8))
  | .regaccWrite t id v => some (t ++ id ++ (1 : BitVec 12) ++ v ++ (0x20 : BitVec 8))
  | .sqhaltStop => some 0x121
  | .sqhaltRelease => some 0x021
  | .bypass => some 0xFF
  | _ => none

end Sys2Proof
end

