-- ==== Sys2Proof/Config.lean ====
section
/-! DEFINITION. What one module fixes for itself, and the values the specification leaves open.  A free value
is an opaque constant: nothing in the model or in a proof knows what it is (log entry 5). -/

namespace Sys2Proof.Config

/-- The payload elements of a token whose elements no rule states (R23, R73, R75, R207): draw, index.
Log entries 5 (DESIGN CHOICE), 32 (DESIGN CHOICE). -/
opaque freeElem : Nat → Nat → Nat

/-- The share of a lane's value held in its C vector (R262): draw, lane. Log entry 31 (DESIGN CHOICE). -/
opaque laneSplit : Nat → Nat → Int

/-- Words of a save image whose layout no rule states, words 3 to 6 of a site record (R360): draw.
Log entries 5 (DESIGN CHOICE), 71 (DEDUCED). -/
opaque freeWord : Nat → Word

/-- The fused security version counter (R400). -/
opaque fusedSvn : Nat

/-- The security version, the payload length and the policy word in the 64-byte header of a firmware image (R400),
whose places no rule gives. Log entry 86 (DESIGN CHOICE). -/
opaque headerSvn : List Byte → Nat
/-- The payload length of a firmware header (R400). Log entry 86 (DESIGN CHOICE). -/
opaque headerLength : List Byte → Nat
/-- The policy word of a firmware header (R400). Log entry 86 (DESIGN CHOICE). -/
opaque headerPolicy : List Byte → Nat

/-- The measurement register that a stage's digest is extended into (R400), modulo 8. Log entry 86 (DESIGN CHOICE). -/
opaque measIndex : Nat → Nat

/-- The physical address at which a stage's payload is placed, and the address of its first block (R400), which no
rule gives. Log entry 86 (DESIGN CHOICE). -/
opaque firmwareBase : Nat → Nat
/-- The address of a stage's first block (R400). Log entry 86 (DESIGN CHOICE). -/
opaque firmwareEntry : Nat → Word

/-- The vendor key that the ROM is given, and the fused SHA3-512 hash of the vendor key (R400).
Log entry 86 (DESIGN CHOICE). -/
opaque vendorKey : List Byte
/-- The fused SHA3-512 hash of the vendor key (R400). Log entry 86 (DESIGN CHOICE). -/
opaque fusedKeyHash : List Byte

/-- The seed that the device takes from its entropy for the identity key pair (R400). Log entry 86 (DESIGN CHOICE). -/
opaque identitySeed : BitVec 256

/-- The random bytes of a signature that the device makes (R400): draw. Log entry 86 (DESIGN CHOICE). -/
opaque signRandom : Nat → BitVec 256

/-- The bytes that the identity key signs (R400): nonce, measurement registers, fused SVN and part code, in an encoding
that no rule gives. Log entry 86 (DESIGN CHOICE). -/
opaque reportMessage : List Byte → List (List Byte) → Nat → Nat → List Byte

/-- The reason a failed boot stage reports over the Tabnen link (R400), whose coding no rule gives.
Log entry 86 (DESIGN CHOICE). -/
opaque bootReason : Nat → Word

/-- The bits that frame a message of so many bits on a SerDes link (R395-R399), which no rule gives: link, bits.
Log entry 99 (DESIGN CHOICE). -/
opaque linkOverhead : Nat → Nat → Nat

/-- The Ethernet port among the permitted ones that carries a frame (R399): draw. Log entry 89 (DESIGN CHOICE). -/
opaque portChoice : Nat → Nat

/-- Frames of a stream that may await a peer's answer at once beside the first (R399). Log entry 89 (DESIGN CHOICE). -/
opaque remoteWindow : Nat

/-- The pins a boundary scan captures (Debug access, chapter 19): draw. Log entry 88 (DEDUCED). -/
opaque boundaryPins : Nat → Word

/-- Static power in mW of a region from its calibrated figure (R381, R388, R395), at a voltage code between the columns
of R388's table, and where the table's ratio gives no whole number: calibrated figure, code.
Log entry 78 (DESIGN CHOICE). -/
opaque staticPower : Nat → Nat → Nat

/-- The power in mW that the rails of a partition's regions draw at a measure (R393): draw, partition.
Log entry 79 (DEDUCED). -/
opaque partPower : Nat → Nat → Nat

/-- The power in mW that the rails of the module draw at a measure (R393): draw. Log entry 79 (DEDUCED). -/
opaque modulePower : Nat → Nat

/-- The granules that an HBM4 stack reads for the block fetches and table walks of an access, which caches may serve (R153,
R307, R395): time, address, stack, granules counted so far. Log entry 60 (DEDUCED). -/
opaque cacheReads : Nat → Nat → Nat → Nat → Nat

/-- The granules of the pages on an HBM4 pseudo-channel (R366), whose interleaving no rule gives.
Log entry 72 (DEDUCED). -/
opaque affectedPages : Nat → List Nat

end Sys2Proof.Config
end

