-- ==== Sys2Proof/Machine/State.lean ====
section
/-! DEFINITION. The state of the module, as plain data, and the state after reset.

A sequencer is named 0 to 95 for the region sequencers and 96 for the service sequencer.  A site is named by
region * 96 + y * 12 + x, a port of a site by site * 4 + index, a task by die * 4096 + number, a flag likewise, a
copy channel by die * 64 + engine * 16 + channel, a region group by die * 6 + column. -/

namespace Sys2Proof.Machine

/-- Why a run of the model ends.  The specification's own errors are traps, task faults and status codes,
never these. -/
inductive Fault where
  /-- The plan names a party that the module does not have (raised by step; safe: hardware has no such step). -/
  | noSuchParty
  deriving DecidableEq, Repr

/-- Why an instruction has no meaning in the model. -/
inductive Refusal where
  /-- The instruction is not modelled yet (raised by exec; safe). -/
  | notModelled (mnemonic : String)
  deriving DecidableEq, Repr

/-! ## Tokens -/

/-- Special state of an accumulator lane (R250). -/
inductive Spec where
  | fin
  | posInf
  | negInf
  | nan
  deriving DecidableEq, Repr

/-- One accumulator lane (R250): v is S + C, and c is the part held in C (R262). -/
structure Lane where
  v : Int
  c : Int
  sticky : Bool
  spec : Spec
  deriving DecidableEq, Repr

/-- The payload of an image token (R260, R261).  bad: the payload as read from memory holds a reserved lane
encoding; fromMem: it was read from memory and has not passed ALD (R203, R270). -/
structure Image where
  b : Int
  reb : Nat
  chk : Word
  lanes : List Lane
  bad : Bool
  fromMem : Bool
  deriving DecidableEq, Repr

/-- What a token carries after its header (R21, R22, R260). -/
inductive Body where
  | none
  | elems (codes scales : List Nat)
  | image (i : Image)
  deriving DecidableEq, Repr

/-- A token: header (R20) and payload. -/
structure Token where
  hdr : Word
  body : Body
  deriving DecidableEq, Repr

/-- A token on an arc: whether it is visible at the consumer (R90) and which halt points released it (R111): those of
the consumer's region in [15:0], those of a producer in another region in [31:16]. -/
structure Flying where
  tok : Token
  vis : Bool
  rel : BitVec 32
  deriving DecidableEq, Repr

/-- An arc (R86): producer output, outgoing lane (8 + i for local input i), consumer input, capacity, hops, die
crossings; the regions between its producer's and its consumer's in which its hops lie; whether its output is
demand-driven, the tokens on it and in the release register, its request count and the requests on their way (R94); the
tokens that were parked at its input and wait for a slot of it (R88, R360). Log entry 44 (DESIGN CHOICE). -/
structure Arc where
  src : Nat
  lane : Nat
  dst : Nat
  cap : Nat
  hops : Nat
  cross : List Nat
  via : List Nat
  demand : Bool
  toks : List Flying
  relReg : Option Token
  req : Nat
  reqFly : Nat
  back : List Token
  deriving DecidableEq, Repr

/-! ## Elements of an armed context -/

/-- The fields of a site word (R25). -/
structure SiteCfg where
  kind : Nat
  op : Nat
  mode : Nat
  ofmt : Nat
  ifmt : List Nat
  isel : List Nat
  oslot : List Nat
  p : List (BitVec 32)
  deriving DecidableEq, Repr

/-- An AG descriptor (R222). -/
structure Desc where
  base : Word
  n0 : Nat
  n1 : Nat
  n2 : Nat
  s0 : Word
  s1 : Word
  s2 : Word
  rstride : Nat
  soff : Int
  rows : Nat
  cols : Nat
  fmt : Nat
  lrn : Bool
  deriving DecidableEq, Repr

/-- The descriptor an AG element holds (R222, R223). -/
inductive DescState where
  | fetching
  | bad
  | ok (d : Desc)
  deriving DecidableEq, Repr

/-- A walk in progress (R223): its offset, its next tile, and whether it is a walk of one empty tile. -/
structure Walk where
  off : Word
  i : Nat
  j : Nat
  k : Nat
  empty : Bool
  deriving DecidableEq, Repr

/-- A write an element has issued and that is not yet performed (R225): its runs of bytes by virtual address, and
the header to log if it fails. -/
structure ElWrite where
  runs : List (Word × List Byte)
  hdr : Word
  deriving DecidableEq, Repr

/-- How far a control token has come in an element (R357). -/
inductive Passage where
  | open
  | half        -- CARRY has emitted and awaits the control token on i2
  | passed
  deriving DecidableEq, Repr

/-- An element: its configuration and its state.  Each field is used by the kinds whose entries name it. -/
structure Elem where
  cfg : SiteCfg
  /-- LOOP state of CARRY and INV; a group in progress of MMA, AADD, reduce; replaying of BUFRP and BUFRN;
  emission of held copies of REPEAT. -/
  busy : Bool
  /-- chainage counter (R71, R102, R223), or n of MERGEC (R68) -/
  chn : Nat
  ep : Bool
  /-- kept copy of INV, first token of a reduction, count token's header -/
  kept : Option Token
  /-- held tokens of REPEAT, entries of BUFR, BUFRP and BUFRN -/
  held : List Token
  /-- CNT (R201), count of REPEAT, of TXCH, of CONST and COUNT, full bits of BUFW, the flag a FLWAIT awaits -/
  cnt : Nat
  /-- copy number, position in a scale token, pass number, index of the next entry -/
  pos : Nat
  /-- write pointer of BUFW, entry to read next -/
  ptr : Nat
  expired : Bool
  ta : Option Token
  tl : Option Token
  acc : Option Image
  rows : Nat
  flag : Bool
  desc : DescState
  walk : Option Walk
  /-- a fetched tile waiting to be emitted (R225) -/
  tile : Option Token
  wq : List ElWrite
  /-- writes and reads performed since arming -/
  wdone : Nat
  rdone : Nat
  /-- the address of a page fault that stalls it (R225), the partition and the number of the queue entry that stands for
  the fault once it is written (R361), and whether its flag wait has passed (R284) -/
  stall : Option Word
  fault : Option (Nat × Nat)
  waited : Option Bool
  park : List (Nat × Token)
  passage : Passage
  /-- a token with LS has been consumed since arming (R355) -/
  lsSeen : Bool
  /-- firings of MERGEA since each input was served (R67) -/
  starve : List Nat
  deriving DecidableEq, Repr

/-- What ends a context's life on the fabric. -/
inductive CtxMode where
  | run
  | drain
  | save
  deriving DecidableEq, Repr

/-- An armed context (R57): its slot, its regions, its task, arcs and elements. -/
structure Ctx where
  slot : Nat
  regions : List Nat
  task : Option Nat
  arcs : List Arc
  elems : Tab Elem
  mode : CtxMode
  ended : Bool
  /-- copy channels whose record in progress a drain awaits (R316) -/
  copies : List Nat
  deriving DecidableEq, Repr

/-- A context on its way to being armed (R57): the region it is armed from, the slot, the regions. -/
structure Arming where
  issuer : Nat
  slot : Nat
  regions : List Nat
  task : Option Nat
  deriving DecidableEq, Repr

/-! ## Blocks and sequencers -/

/-- A value in an operand slot (R45, R49).  A slot keeps it after it has been consumed or discarded (R19). -/
inductive Val where
  | word (w : Word)
  | null
  deriving DecidableEq, Repr

/-- The read-modify-write operations (R274). -/
inductive AmoOp where
  | add
  | swp
  | cas
  | min
  | max
  | and
  | or
  deriving DecidableEq, Repr

/-- What a fired store, SNUL, atomic or FENCE does at commit (R135, R136, R274, R277). -/
inductive MemEff where
  | store (va pa : Word) (bytes : List Byte)
  | none
  | amo (op : AmoOp) (va pa : Word) (n : Nat) (r x : Word) (regs : List Nat) (ord : BitVec 2)
  | fence (scope : BitVec 3) (pred succ : BitVec 8)
  deriving DecidableEq, Repr

/-- A memory effect with its position and its instruction. -/
structure MemOp where
  lsid : Nat
  ix : Nat
  eff : MemEff
  deriving DecidableEq, Repr

/-- A load that has fired (R132, R133): where its value goes, and whether it has been delivered. -/
structure LoadRec where
  lsid : Nat
  ix : Nat
  va : Word
  pa : Word
  n : Nat
  signed : Bool
  t1 : Target
  done : Bool
  value : Word
  /-- a table read of a JTAB (R141) -/
  table : Bool
  deriving DecidableEq, Repr

/-- What a fired instruction does at commit besides memory and registers (R158). -/
inductive Eff where
  | spush (k : Nat) (v : Word)
  | inj (k : Nat) (h : Word)
  | cfgl (regions : List (Nat × Nat))
  /-- a CFGL that has trapped, with the slots its records land on (R288) -/
  | landed (slots : List (Nat × Nat))
  | cfga (slot : Nat)
  | drain
  | tcnt (site : Nat) (n : Nat)
  | cfgw (slot site p : Nat) (v : BitVec 32)
  | bar (h : Word) (regs : List Nat)
  | flag (f : Nat) (set : Bool) (regs : List Nat)
  | tagf (tag : Nat)
  | tagc (mask : Word)
  | depd (task : Nat) (n : Nat)
  | depr (task : Nat) (n : Nat)
  | cpch (ch : Nat) (head : Word)
  | cpst (ch : Nat)
  | cpab (ch : Nat)
  | sysw (id : Nat) (v : Word)
  | halt
  | waited (latch : BitVec 12)
  deriving DecidableEq, Repr

/-- The wait of a waiting instruction (R156, R272). -/
inductive Wait where
  | spop (k j : Nat)
  | waiti
  | bwait (h : Word) (r : BitVec 16)
  | flgw (f : Nat) (want : Bool) (passed : Bool)
  | tagw (mask : Word)
  deriving DecidableEq, Repr

/-- A fired instruction that is still waiting, and its targets. -/
structure Waiter where
  ix : Nat
  wait : Wait
  targets : List Target
  deriving DecidableEq, Repr

/-- How a fired exit leaves the block (R137). -/
inductive ExitKind where
  | go
  | call
  | ret
  | loop
  | scall (n : Nat)
  | trap (n : Nat)
  | eret
  deriving DecidableEq, Repr

/-- A fired exit: its number, instruction, kind and target. -/
structure Exit where
  x : Nat
  ix : Nat
  kind : ExitKind
  target : Word
  /-- LOOP with OFF18 zero or negative (R142) -/
  back : Bool
  deriving DecidableEq, Repr

/-- A trap condition (R156): instruction, cause, value. -/
structure TrapCond where
  ix : Nat
  cause : BitVec 8
  tval : Word
  deriving DecidableEq, Repr

/-- A decoded copy of a block (R155): its address, header and words, and the lines of physical memory that hold them with
the number of writes that had reached each. -/
structure Copy where
  addr : Word
  hdr : BitVec 128
  words : List (BitVec 32)
  lines : List (Nat × Nat)
  deriving DecidableEq, Repr

/-- A block in progress. -/
structure Blk where
  addr : Word
  /-- the header of the copy it started from, and the copy's lines -/
  hdr : BitVec 128
  lines : List (Nat × Nat)
  wmask : Word
  smask : BitVec 32
  nexits : Nat
  lc : Bool
  slice : Bool
  words : List (BitVec 32)
  /-- the time at which its timeout ends (R161) -/
  deadline : Nat
  /-- by instruction * 4 + slot -/
  slots : Tab Val
  /-- the instructions that have received a predicate, in order of arrival (R80) -/
  arrived : List Nat
  fired : List Nat
  waits : List Waiter
  traps : List TrapCond
  regs : Tab Val
  mem : List MemOp
  loads : List LoadRec
  effs : List (Nat × Eff)
  exits : List Exit
  /-- events by energy class (R382) -/
  events : Tab Nat
  deriving DecidableEq, Repr

/-- What an element had issued when a commit began (R277): the numbers of its writes and of its reads that will have been
performed once these are. -/
structure Issued where
  ctx : Nat
  elem : Nat
  writes : Nat
  reads : Nat
  deriving DecidableEq, Repr

/-- What a sequencer is doing between and around blocks. -/
inductive Cond where
  /-- never started, or reset -/
  | idle
  | fetch (a : Word)
  | decode (k : Copy)
  | run
  /-- the commit of the oldest block has begun and a FENCE, the first of the effects left, is not complete (R277) -/
  | commit (rest : List MemOp) (began : List Issued)
  /-- held between blocks, the next block at a (R58, R281) -/
  | held (a : Word)
  | halted (a : Word)
  /-- stopped by R163 -/
  | stopped
  /-- stopped for a save, to resume at a (R343) -/
  | parked (a : Word)
  deriving DecidableEq, Repr

/-- A sequencer: its registers and its state. -/
structure Seq where
  g : Tab Word
  ras : List Word
  tm : Bool
  dbl : Bool
  dcause : BitVec 8
  raen : Bool
  lben : Bool
  esat : Bool
  cause : BitVec 8
  epc : Word
  tval : Word
  scratch : Word
  tvec : Word
  btime : BitVec 32
  energy : BitVec 48
  enOn : Bool
  senOn : Bool
  enw : Tab (BitVec 16)
  hen : Bool
  htrap : Bool
  lasthit : BitVec 4
  heldPrev : BitVec 16
  halts : Tab (BitVec 32)
  hangEn : Bool
  hangTrap : Bool
  hangNotify : Bool
  frozen : Bool
  drainw : Bool
  hangMap : Word
  hangTime : BitVec 32
  flogBase : Word
  flogSize : BitVec 4
  flogW : BitVec 32
  flogDrop : BitVec 16
  flogR : BitVec 32
  latch : BitVec 12
  tres : BitVec 64
  cond : Cond
  asyncHang : Option Word
  asyncPreempt : Option Word
  asyncDbg : List Word
  /-- the block in progress, then younger run-ahead blocks (R170) -/
  blocks : List Blk
  /-- header address and target of the exit last committed (R170) -/
  predict : List (Word × Word)
  /-- the captured body (R167), and the committed blocks, most recent start first (R168) -/
  lbuf : List Copy
  recent : List Copy
  /-- a result on its way from a barrier owner (R281): registers -/
  awaits : List Nat
  /-- a DRAIN holds the next block (R58) -/
  waitDrain : Bool
  /-- an uncorrectable error of a committed atomic, taken before the next block (R402) -/
  eccu : Option Word
  deriving DecidableEq, Repr

/-! ## Regions -/

/-- A loaded context slot of a region (R28, R56): its words, the region whose CFGL loaded it, the address of its
image, whether it is still marked empty. -/
structure CtxSlot where
  sites : Tab (BitVec 256)
  switches : Tab (BitVec 64)
  mxmode : Word
  pred : Word
  loader : Nat
  image : Word
  /-- which record of the image it is -/
  record : Nat
  marked : Bool
  deriving DecidableEq, Repr

/-- A named barrier (R279). -/
structure Barrier where
  gen : BitVec 16
  arr : Nat
  n : Nat
  deriving DecidableEq, Repr

/-- A region. -/
structure Region where
  slots : Tab CtxSlot
  ctx : Nat
  pred : Word
  mxmode : Word
  armed : Option Nat
  ing : Tab (List (Bool × Word))
  egr : Tab (List Word)
  tags : BitVec 64
  tagsPending : BitVec 64
  bars : Tab Barrier
  vcur : Nat
  vceil : Nat
  vheld : Option Nat
  slewing : Option Nat
  gated : Bool
  idleSince : Option Nat
  idleHist : List Nat
  millpond : Option Nat
  lastMove : Nat
  /-- the last thaw, from which a hang counts anew (R119) -/
  thawed : Nat
  /-- taken out of the scheduling pool by a lasting fault (R366), now or once its task ends -/
  lost : Bool
  deriving DecidableEq, Repr

/-- A stream buffer (R302, R303): declared base and capacity, ring offsets, the bytes of each stored token, whether
the running message has been given up, the task that owns it, and the elements that hold its two roles. -/
structure SBuf where
  base : Nat
  cap : Nat
  head : Nat
  occ : Nat
  toks : List Token
  /-- complete messages among toks, counted in tokens -/
  ready : Nat
  /-- tokens of the oldest message that have been emitted, and tokens emitted from the buffer at all -/
  popped : Nat
  taken : Nat
  skipping : Bool
  owner : Option Nat
  egr : Option Nat
  ingr : Option Nat
  deriving DecidableEq, Repr

/-! ## Engines and tasks -/

inductive ChanMode where
  | idle
  | run
  | stop
  deriving DecidableEq, Repr

/-- Where a channel stands in its record (R326, R335). -/
inductive ChanPhase where
  /-- the record at rec is to be read -/
  | read
  /-- writing unit n: row * 2^18 + piece -/
  | units (n : Nat)
  /-- every unit is written and the first n completion actions are performed; after three the final write is due (R337) -/
  | acts (n : Nat)
  /-- the transfer has ended with a code of failure and a failing address, and its final write is due -/
  | final (code : BitVec 8) (fail : Word)
  deriving DecidableEq, Repr

/-- A copy channel (R290): queued heads with the sequencer and the task that queued each, and those of the chain in
progress. -/
structure Chan where
  mode : ChanMode
  queue : List (Word × Nat × Option Nat)
  recAt : Word
  issuer : Nat
  task : Option Nat
  /-- the record as read (R329), then its stencil table -/
  data : List Word
  phase : ChanPhase
  /-- the blocks of the row that have been converted to an MX format: element bytes and scale (R331, R335) -/
  row : List (List Byte × Nat)
  /-- the queue entry that stands for the page fault it stopped on (R362) -/
  fault : Option (Nat × Nat)
  abort : Bool
  deriving DecidableEq, Repr

inductive TaskState where
  | free
  | wait
  | ready
  | launch
  | run
  | ending
  | saving
  | saved
  | resuming
  | done
  | faulted
  deriving DecidableEq, Repr

/-- A stage of a running pipeline (R353); one without regions waits for them. -/
structure Stage where
  regions : List Nat
  /-- it has a control thread on its anchor, its first region -/
  thread : Bool
  /-- never reassigned -/
  lock : Bool
  /-- the first block of that thread -/
  entry : Word
  /-- the images of its mappings at unroll 1, 2 and 4; 0 for none -/
  imgs : List Word
  /-- handle of its input buffer -/
  inq : Nat
  unroll : Nat
  highSince : Option Nat
  lowSince : Option Nat
  /-- the time from which it may be changed again -/
  changed : Nat
  ended : Bool
  /-- the unroll it is to run at once its drain is complete; 0 when it is not being changed -/
  next : Nat
  /-- the regions held for that beside its own, and the task and stage that the regions it gives up go to (R354) -/
  extra : List Nat
  gift : Option (Nat × Nat)
  deriving DecidableEq, Repr

/-- What a save keeps beside the image in memory (R360): the contexts and queues. -/
structure Saved where
  regions : List Nat
  ctxs : List Ctx
  /-- the region sequencers that run the task's control threads, by region -/
  seqs : Tab Seq
  /-- its live stream buffers -/
  bufs : Tab SBuf
  /-- rg.mxmode of its regions -/
  mxs : Tab Word
  /-- where the task's chain stands, and whether the record there awaits completion (R360, HSEQ) -/
  chain : Option Word
  chainWaits : Bool
  /-- the channels whose record in progress, as the save began, writes an MN of its regions, and has not ended (R360) -/
  copies : List Nat
  deriving DecidableEq, Repr

/-- A task of a die (R346, R347). -/
structure Task where
  state : TaskState
  counter : BitVec 16
  /-- ready time or saved time -/
  since : Nat
  /-- order of dispatch -/
  order : Nat
  regions : List Nat
  anchor : Nat
  /-- the record as read at allocation, and again at dispatch -/
  record : List Word
  /-- where IMAGE is placed: its anchor, and the regions of its records -/
  imageAt : Nat
  imageOn : List Nat
  stages : List Stage
  saved : Option Saved
  /-- a grace of R358 ends at this time; its reason -/
  grace : Option Nat
  cause : BitVec 8
  src : Nat
  freg : Nat
  toFault : Bool
  /-- a pre-emption waits to be carried out: its reason (R358) -/
  preempt : Option Nat
  chainDone : Bool
  deriving DecidableEq, Repr

/-- A die's graph sequencer (R227). -/
structure Headrace where
  task : Option Nat
  recAt : Word
  /-- the record as read, or nothing while it is to be read -/
  data : List Word
  /-- its image is loaded and on its way to being armed -/
  loaded : Bool
  /-- its counts are given, and its completion is awaited -/
  waiting : Bool
  /-- the writes issued in its regions by the last expiry: context, element, number performed once they are (R227, R228) -/
  goals : List (Nat × Nat × Nat)
  /-- chains to be taken next: task, record; bit 0 of the record is set where its counts have been given (R360) -/
  queue : List (Nat × Word)
  deriving DecidableEq, Repr

inductive GroupState where
  | pool
  | quiescing
  | quiet
  | retaining
  | retained
  | gated
  | waking
  deriving DecidableEq, Repr

/-- An entry of a fault queue that the scheduler has written and not cleared (R361): its number, its task, and the page:
an address and the bits that a page maps. -/
structure OpenFault where
  entry : Nat
  task : Nat
  va : Nat
  bits : Nat
  deriving DecidableEq, Repr

/-- What waits for a page (R361, R362). -/
inductive Stalled where
  | elem (ctx site : Nat)
  | chan (k : Nat)
  | nothing
  deriving DecidableEq, Repr

/-- A fault held until a slot of its partition's queue is free (R361, R366): the fields of its entry, and what waits. -/
structure FaultRec where
  part : Nat
  task : Nat
  ty : Nat
  va : Nat
  region : Nat
  pa : Word
  time : Nat
  who : Stalled
  deriving DecidableEq, Repr

/-- A partition record in force (R391). -/
structure Part where
  root : Word
  rmask : Nat
  floor : Nat
  chan : Word
  fqBase : Word
  fqn : Nat
  pflag : Nat
  ptask : Nat
  host : Bool
  pen : Bool
  valid : Bool
  fqCount : Nat
  opened : List OpenFault
  deriving DecidableEq, Repr

/-- The registers of the service sequencer alone (R365, R368, R387), and what stands behind them. -/
structure Service where
  wexp : Nat
  thr : Nat
  grpreq : Word
  grpack : Word
  retsave : Word
  wakeArea : Word
  stateDie : Nat
  cap : Nat
  errlog : Word
  partBase : Word
  vsetRegion : Nat
  coll : Word
  esel : Word
  peer : Word
  tskBase : Tab Word
  /-- measured power above CAP since, below 95 % since, steps taken, time of the last step (R393) -/
  samples : List Nat
  below : Option Nat
  steps : List (Nat × Nat × List Nat)
  lastStep : Nat
  nextMeasure : Nat
  deriving DecidableEq, Repr

/-- The record of a collective (R394): last arrivals by die, previous completion, die last changed at. -/
structure Collective where
  last : Tab Nat
  prev : Nat
  /-- slack by die, a fraction -/
  slack : Tab (Int × Nat)
  gens : Nat
  changed : Tab Nat
  deriving DecidableEq, Repr

/-- An interrupt message to the host (R397). -/
structure Irq where
  code : Nat
  part : Nat
  what : Nat
  value : Word
  deriving DecidableEq, Repr

/-- What the link answers to a host request (R396, R400). -/
inductive Reply where
  | data (b : List Byte)
  | ok
  | error (a : Word)
  | bootFailed (stage : Nat) (reason : Word)
  /-- a measurement report: nonce, M0-M7, fused SVN, part code, signature -/
  | report (nonce : List Byte) (meas : List (List Byte)) (svn part : Nat) (sig : List Byte)
  deriving DecidableEq, Repr

/-- A frame to another module (R399). -/
structure Frame where
  seqno : Nat
  handle : BitVec 32
  words : List Word
  deriving DecidableEq, Repr

/-- The traffic of one buffer with one peer (R399): frames not yet answered, the next number, the frames taken in order
and how many tokens of the one under way. -/
structure Stream where
  sent : List Frame
  next : Nat
  got : Nat
  taken : Nat
  deriving DecidableEq, Repr

/-- The traffic with one peer (R399): a stream for each buffer, by handle, every frame put on a port, whether the peer has
fallen silent, and since when an answer is awaited. -/
structure Peer where
  streams : Tab Stream
  wire : List Frame
  silent : Bool
  since : Nat
  deriving DecidableEq, Repr

/-- Boot and attestation (R400). -/
structure Boot where
  stage : Nat
  failed : Bool
  debug : Bool
  host : Bool
  meas : List (List Byte)
  /-- the identity key pair: public key and private key, empty before the first boot -/
  keys : List Byte × List Byte
  deriving DecidableEq, Repr

/-- The test access port (chapter 19, Debug access): instruction register, captured data, a scan to carry out, and
whether SQHALT holds the service sequencer. -/
structure Tap where
  ir : BitVec 8
  dr : BitVec 96
  scan : Option (BitVec 104)
  halt : Bool
  deriving DecidableEq, Repr

/-- An arrival on its way to a barrier's owner (R281): handle, sequencer, registers for the result, and whether no earlier
arrival of its block is on its way (R271). -/
structure Arrival where
  h : Word
  q : Nat
  regs : List Nat
  first : Bool
  deriving DecidableEq, Repr

/-! ## The whole -/

/-- What the environment or the free interleaving (R90) chooses to happen next. -/
inductive Move where
  /-- instruction ix of block blk (0 the oldest) of sequencer q fires -/
  | thread (q blk ix : Nat)
  /-- a step of the element at a site of a region; choice is MERGEA's input -/
  | fire (r s choice : Nat) (i : Instr)
  /-- a step of another party -/
  | event (i : Instr)
  /-- the host reads a register's mirror in the command window (R396) -/
  | mirrorRead (id : Nat)
  /-- firmware sends the host a message: partition, task or region, value (R397) -/
  | message (part what : Nat) (v : Word)
  deriving DecidableEq, Repr

/-- The state of the module. -/
structure State where
  mem : List Host.Cell
  poison : Tab Bool
  /-- writes that have reached each 64-byte line (R155) -/
  written : Tab Nat
  seqs : Tab Seq
  regions : Tab Region
  ctxs : Tab Ctx
  nextCtx : Nat
  armings : List Arming
  sbufs : Tab SBuf
  flags : Tab Bool
  arrivals : List Arrival
  chans : Tab Chan
  /-- gated regions that an event is to wake (R390) -/
  roused : List Nat
  /-- the channel each copy engine served last, by die * 4 + engine (R341) -/
  served : Tab Nat
  tasks : Tab Task
  races : Tab Headrace
  groups : Tab GroupState
  parts : Tab Part
  svc : Service
  coll : Collective
  energy : Tab Nat
  energySat : Tab Bool
  /-- corrected errors of the window, by structure: kind * 2^20 + index, and the number of that window (R365) -/
  errors : Tab Nat
  errorWindow : Nat
  lasting : List Nat
  /-- faults that wait for a slot of a fault queue, oldest first (R361, R366) -/
  pageFaults : List FaultRec
  irqs : List Irq
  replies : List Reply
  peers : Tab Peer
  boot : Boot
  tap : Tap
  now : Nat
  /-- the model's own fields (log entries 1 and 5) -/
  plan : List Move
  turn : Nat
  cur : Nat
  curBlk : Nat
  curIx : Nat
  site : Site
  choice : Nat
  free : Nat
  deriving DecidableEq, Repr

/-- A sequencer at reset (R173, R174, R175). Log entry 3 (DESIGN CHOICE). -/
def Seq.initial : Seq where
  g := []
  ras := []
  tm := false
  dbl := false
  dcause := 0
  raen := true
  lben := true
  esat := false
  cause := 0
  epc := 0
  tval := 0
  scratch := 0
  tvec := 0
  btime := 0x10000
  energy := 0
  enOn := false
  senOn := false
  enw := []
  hen := false
  htrap := false
  lasthit := 0
  heldPrev := 0
  halts := []
  hangEn := true
  hangTrap := true
  hangNotify := true
  frozen := false
  drainw := false
  hangMap := 0
  hangTime := 0xF4240
  flogBase := 0
  flogSize := 0
  flogW := 0
  flogDrop := 0
  flogR := 0
  latch := 0
  tres := 0
  cond := .idle
  asyncHang := none
  asyncPreempt := none
  asyncDbg := []
  blocks := []
  predict := []
  lbuf := []
  recent := []
  awaits := []
  waitDrain := false
  eccu := none

/-- A region at reset (R175, R279, R388). Log entry 3 (DESIGN CHOICE). -/
def Region.initial : Region where
  slots := []
  ctx := 0
  pred := 0
  mxmode := 0
  armed := none
  ing := []
  egr := []
  tags := 0
  tagsPending := 0
  bars := []
  vcur := 8
  vceil := 8
  vheld := none
  slewing := none
  gated := false
  idleSince := some 0
  idleHist := []
  millpond := none
  lastMove := 0
  thawed := 0
  lost := false

/-- A channel at reset: IDLE, nothing queued (R290). -/
def Chan.initial : Chan where
  mode := .idle
  queue := []
  recAt := 0
  issuer := 0
  task := none
  data := []
  phase := .read
  row := []
  fault := none
  abort := false

/-- A task that is not allocated (R347). -/
def Task.initial : Task where
  state := .free
  counter := 0
  since := 0
  order := 0
  regions := []
  anchor := 0
  record := []
  imageAt := 0
  imageOn := []
  stages := []
  saved := none
  grace := none
  cause := 0
  src := 0
  freg := 0
  toFault := false
  preempt := none
  chainDone := false

/-- A graph sequencer with no chain (R227). -/
def Headrace.initial : Headrace where
  task := none
  recAt := 0
  data := []
  loaded := false
  waiting := false
  goals := []
  queue := []

/-- A partition that does not exist: VALID = 0 (R305, R391). Log entry 81 (DEDUCED). -/
def Part.initial : Part where
  root := 0
  rmask := 0
  floor := 0
  chan := 0
  fqBase := 0
  fqn := 16
  pflag := 0
  ptask := 0
  host := false
  pen := false
  valid := false
  fqCount := 0
  opened := []

/-- The service registers at reset (R365, R368, R378, R387). Log entry 3 (DESIGN CHOICE). -/
def Service.initial : Service where
  wexp := 0x1A
  thr := 4
  grpreq := 0
  grpack := 0
  retsave := 0
  wakeArea := 0
  stateDie := 0
  cap := 0xA28
  errlog := 0
  partBase := 0
  vsetRegion := 0
  coll := 0
  esel := 0
  peer := 0
  tskBase := []
  samples := []
  below := none
  steps := []
  lastStep := 0
  nextMeasure := 1000

def Collective.initial : Collective where
  last := []
  prev := 0
  slack := []
  gens := 0
  changed := []

def Peer.initial : Peer where
  streams := []
  wire := []
  silent := false
  since := 0

/-- A buffer with which nothing has passed. -/
def Stream.initial : Stream where
  sent := []
  next := 0
  got := 0
  taken := 0

/-- Measurement registers start from zero at reset (R400). -/
def Boot.initial : Boot where
  stage := 0
  failed := false
  debug := false
  host := false
  meas := List.replicate 8 (List.replicate 64 0)
  keys := ([], [])

/-- The test access port after reset (chapter 19, Debug access). Log entry 3 (DESIGN CHOICE). -/
def Tap.initial : Tap where
  ir := 0xFF
  dr := 0
  scan := none
  halt := false

/-- The module right after reset: every table lists nothing, so that every register, flag, barrier, channel and
task reads as its reset value. Log entry 3 (DESIGN CHOICE). -/
def State.reset : State where
  mem := []
  poison := []
  written := []
  seqs := []
  regions := []
  ctxs := []
  nextCtx := 0
  armings := []
  sbufs := []
  flags := []
  arrivals := []
  chans := []
  roused := []
  served := []
  tasks := []
  races := []
  groups := []
  parts := []
  svc := Service.initial
  coll := Collective.initial
  energy := []
  energySat := []
  errors := []
  errorWindow := 0
  lasting := []
  pageFaults := []
  irqs := []
  replies := []
  peers := []
  boot := Boot.initial
  tap := Tap.initial
  now := 0
  plan := []
  turn := 0
  cur := 0
  curBlk := 0
  curIx := 0
  site := ⟨0, 0⟩
  choice := 0
  free := 0

end Sys2Proof.Machine
end

