-- ==== Sys2Proof/Machine/Tab.lean ====
section
/-! DEFINITION. Reading and writing sparse tables (keys strictly rising). -/

namespace Sys2Proof

/-- The entry of a key. -/
def Tab.find? {α : Type} : Tab α → Nat → Option α
  | [], _ => none
  | (k, v) :: t, a => if k = a then some v else Tab.find? t a

/-- The entry of a key, or what an unlisted key reads as. -/
def Tab.getD {α : Type} (t : Tab α) (a : Nat) (d : α) : α := (Tab.find? t a).getD d

/-- The table with the entry of a key set. -/
def Tab.put {α : Type} : Tab α → Nat → α → Tab α
  | [], a, v => [(a, v)]
  | (k, w) :: t, a, v =>
    if k = a then (a, v) :: t else if a < k then (a, v) :: (k, w) :: t else (k, w) :: Tab.put t a v

/-- The table without the entry of a key. -/
def Tab.del {α : Type} (t : Tab α) (a : Nat) : Tab α := t.filter fun e => e.1 != a

/-- Whether a key has an entry. -/
def Tab.has {α : Type} (t : Tab α) (a : Nat) : Bool := (Tab.find? t a).isSome

/-- The table with the entry of a key set, or removed where it equals what an unlisted key reads as. -/
def Tab.set {α : Type} [BEq α] (t : Tab α) (d : α) (a : Nat) (v : α) : Tab α :=
  if v == d then Tab.del t a else Tab.put t a v

/-- Keys strictly rising. -/
def Tab.sorted {α : Type} : Tab α → Bool
  | [] => true
  | [_] => true
  | (a, _) :: (b, v) :: t => a < b && Tab.sorted ((b, v) :: t)

end Sys2Proof
end

