-- ==== Sys2Proof/Machine/Ops.lean ====
section
/-! DEFINITION. The named operations over registers, memory, translation, the fault log and the energy counters,
and taking a trap and returning from one (R163, R165). -/

namespace Sys2Proof.Machine

open Host (Outcome)

/-! ## Bits -/

/-- Bits [hi:lo] of a number. -/
def field (w hi lo : Nat) : Nat := w / 2 ^ lo % 2 ^ (hi + 1 - lo)

/-- Bits [lo + n - 1 : lo] of a 64-bit word, as a number. -/
def bitsOf (w : Word) (lo n : Nat) : Nat := (w.extractLsb' lo n).toNat

/-- A number as a word. -/
def wd (n : Nat) : Word := BitVec.ofNat 64 n

/-- An integer as a word, modulo 2^64. -/
def wdi (n : Int) : Word := BitVec.ofInt 64 n

/-- The n-bit two's complement reading of a number. -/
def signedOf (n v : Nat) : Int := if v % 2 ^ n < 2 ^ (n - 1) then (v % 2 ^ n : Nat) else (v % 2 ^ n : Nat) - (2 ^ n : Nat)

/-- The n-bit pattern of an integer. -/
def patOf (n : Nat) (v : Int) : Nat := (v % (2 ^ n : Nat)).toNat

/-- The lesser of two numbers, and a number saturated. -/
def satTo (lim v : Nat) : Nat := if v ≤ lim then v else lim

/-- Bytes of a number, least significant first (R4). -/
def bytesOf : Nat → Nat → List Byte
  | 0, _ => []
  | n + 1, v => BitVec.ofNat 8 v :: bytesOf n (v / 256)

/-- The number that bytes hold, least significant first (R4). -/
def numOf : List Byte → Nat
  | [] => 0
  | b :: t => b.toNat + 256 * numOf t

/-- A list cut into pieces of n. -/
def chunksAux {α : Type} (n : Nat) : Nat → List α → List (List α)
  | 0, _ => []
  | _ + 1, [] => []
  | f + 1, l => l.take n :: chunksAux n f (l.drop n)

def chunks {α : Type} (n : Nat) (l : List α) : List (List α) := chunksAux n (l.length + 1) l

/-- Words as bytes and bytes as words (R4). -/
def wordsToBytes (ws : List Word) : List Byte := ws.flatMap fun w => bytesOf 8 w.toNat

def bytesToWords (bs : List Byte) : List Word := (chunks 8 bs).map fun c => wd (numOf c)

/-- The position of the first element that meets a test. -/
def findIdx {α : Type} (p : α → Bool) : List α → Option Nat
  | [] => none
  | a :: t => if p a then some 0 else (findIdx p t).map (· + 1)

/-! ## The parties of a state -/

def State.seq (s : State) (q : Nat) : Seq := s.seqs.getD q .initial
def State.setSeq (s : State) (q : Nat) (x : Seq) : State := { s with seqs := s.seqs.put q x }
def State.updSeq (s : State) (q : Nat) (f : Seq → Seq) : State := s.setSeq q (f (s.seq q))

def State.region (s : State) (r : Nat) : Region := s.regions.getD r .initial
def State.setRegion (s : State) (r : Nat) (x : Region) : State := { s with regions := s.regions.put r x }
def State.updRegion (s : State) (r : Nat) (f : Region → Region) : State := s.setRegion r (f (s.region r))

def State.chan (s : State) (c : Nat) : Chan := s.chans.getD c .initial
def State.setChan (s : State) (c : Nat) (x : Chan) : State := { s with chans := s.chans.put c x }
def State.updChan (s : State) (c : Nat) (f : Chan → Chan) : State := s.setChan c (f (s.chan c))

def State.task (s : State) (t : Nat) : Task := s.tasks.getD t .initial
def State.setTask (s : State) (t : Nat) (x : Task) : State := { s with tasks := s.tasks.put t x }
def State.updTask (s : State) (t : Nat) (f : Task → Task) : State := s.setTask t (f (s.task t))

def State.race (s : State) (d : Nat) : Headrace := s.races.getD d .initial
def State.setRace (s : State) (d : Nat) (x : Headrace) : State := { s with races := s.races.put d x }

def State.group (s : State) (g : Nat) : GroupState := s.groups.getD g .pool
def State.setGroup (s : State) (g : Nat) (x : GroupState) : State := { s with groups := s.groups.put g x }

def State.part (s : State) (p : Nat) : Part := s.parts.getD p .initial
def State.setPart (s : State) (p : Nat) (x : Part) : State := { s with parts := s.parts.put p x }

def State.peer (s : State) (p : Nat) : Peer := s.peers.getD p .initial
def State.setPeer (s : State) (p : Nat) (x : Peer) : State := { s with peers := s.peers.put p x }

def State.updCtx (s : State) (c : Nat) (f : Ctx → Ctx) : State :=
  match s.ctxs.find? c with
  | none => s
  | some x => { s with ctxs := s.ctxs.put c (f x) }

/-- The sequencer that is no region's (R180). -/
def service : Nat := 96

/-- The die and the local number of a region (R2). -/
def dieOf (r : Nat) : Nat := r / 24

/-- The group of a region: die * 6 + column (R369). -/
def groupOf (r : Nat) : Nat := r / 24 * 6 + r % 24 % 6

/-- The regions of a group (R369). -/
def groupRegions (g : Nat) : List Nat := [0, 6, 12, 18].map (· + g / 6 * 24 + g % 6)

/-- Register gN (R47). -/
def Seq.reg (x : Seq) (n : Nat) : Word := x.g.getD n 0

/-- gN takes a value (R48). -/
def Seq.setReg (x : Seq) (n : Nat) (v : Word) : Seq := { x with g := x.g.set 0 n v }

/-- The next free value of Config, and the state that has drawn it. Log entry 5 (DESIGN CHOICE). -/
def State.draw (s : State) : State := { s with free := s.free + 1 }

/-- The partition that holds a region (R391). -/
def State.partOf (s : State) (r : Nat) : Option Nat :=
  (List.range 8).find? fun p => (s.part p).valid && (s.part p).rmask.testBit r

/-- The task whose regions include a region, while it holds them. -/
def State.taskOf (s : State) (r : Nat) : Option Nat :=
  (List.find? (fun kt : Nat × Task => kt.2.regions.contains r) s.tasks).map (·.1)

/-- The resident task whose anchor is a region. -/
def State.anchorTask (s : State) (r : Nat) : Option Nat :=
  (List.find? (fun kt : Nat × Task => kt.2.regions.contains r && kt.2.anchor == r) s.tasks).map (·.1)

/-! ## Device memory (R4, R298, R299, R340) -/

/-- What a byte of memory that nothing has written reads as. Log entry 2 (DESIGN CHOICE). -/
def blankByte : Byte := 0

/-- The byte at a physical address. Log entry 2 (DESIGN CHOICE). -/
def Memory.byte (m : List Host.Cell) (a : Nat) : Byte := Tab.getD m a blankByte

/-- Memory with one byte written, in canonical form. -/
def Memory.putByte (m : List Host.Cell) (a : Nat) (b : Byte) : List Host.Cell := Tab.set m blankByte a b

/-- The bytes from an address on. -/
def Memory.bytes (m : List Host.Cell) (a : Nat) : Nat → List Byte
  | 0 => []
  | n + 1 => Memory.byte m a :: Memory.bytes m (a + 1) n

/-- Memory with bytes written from an address on. -/
def Memory.putBytes (m : List Host.Cell) (a : Nat) : List Byte → List Host.Cell
  | [] => m
  | b :: t => Memory.putBytes (Memory.putByte m a b) (a + 1) t

/-- The canonical form: addresses strictly rising, nothing listed at its blank value. -/
def Memory.wf (m : List Host.Cell) : Bool := Tab.sorted m && m.all fun c => c.2 != blankByte

/-- The physical address map (R298). -/
def inMap (a : Nat) : Bool := a < 0x6000000000 || (0x8000000000 ≤ a && a < 0x8018000000)

def inHbm (a : Nat) : Bool := a < 0x6000000000

/-- The window address of a byte of an MN (R298). -/
def mnAddr (r mn off : Nat) : Nat := 0x8000000000 + r * 0x400000 + mn * 0x20000 + off

/-- The MN index of a site, 8 * (x - 1) / 3 + y (R291). -/
def mnOfSite (site : Nat) : Nat := 8 * ((site % 12 - 1) / 3) + site / 12

/-- The HBM4 stack of an address (R298). -/
def stackOf (a : Nat) : Nat := 2 * (a / 0x1800000000) + a / 0x80000 % 2

/-- Whether any granule of a run of bytes holds the poison mark (R340). -/
def State.poisoned (s : State) (a n : Nat) : Bool :=
  (List.range ((a + n + 63) / 64 - a / 64)).any fun i => s.poison.getD (a / 64 + i) false

/-- The granules that a run of bytes covers whole. -/
def wholeGranules (a n : Nat) : List Nat :=
  (List.range ((a + n) / 64 - (a + 63) / 64)).map (· + (a + 63) / 64)

/-- The 64-byte lines that a run of bytes touches. -/
def linesMet (a n : Nat) : List Nat := (List.range ((a + n + 63) / 64 - a / 64)).map (· + a / 64)

/-- An amount in 1/9000 pJ enters an energy counter, which saturates (R395). Log entry 25 (DEDUCED). -/
def State.addEnergy (s : State) (kind ix amount : Nat) : State :=
  let k := kind * 128 + ix
  let lim := (2 ^ 48 - 1) * 9000
  let v := s.energy.getD k 0 + amount
  { s with
    energy := s.energy.set 0 k (min v lim)
    energySat := if v ≤ lim then s.energySat else s.energySat.put k true }

/-- An event that wakes a gated region comes (R390). -/
def State.rouse (s : State) (r : Nat) : State :=
  if (s.region r).gated && !s.roused.contains r then { s with roused := s.roused ++ [r] } else s

/-- The counter of an HBM4 stack after the granules that a fetch, a load or the walk of an access reads where no cache
serves it (R395). -/
def State.cachedCount (s : State) (a k : Nat) : Nat :=
  s.energy.getD (128 + k) 0 + Config.cacheReads s.now a k (s.energy.getD (128 + k) 0) * 800 * 9000

/-- The granules that some HBM4 stacks read behind a cache are counted (R395). Log entry 60 (DEDUCED). -/
def State.countBehind (s : State) (ks : List Nat) (a : Nat) : State :=
  let lim := (2 ^ 48 - 1) * 9000
  { s with
    energy := ks.foldl (fun t k => t.set 0 (128 + k) (min (s.cachedCount a k) lim)) s.energy
    energySat := ks.foldl (fun t k => if s.cachedCount a k ≤ lim then t else t.put (128 + k) true) s.energySat }

/-- The granules that the walk of a translated access reads are counted (R305, R307, R395): of any stack; and those that the
scheduler reads of its records, as often as it looks at them. Log entry 60 (DEDUCED). -/
def State.countWalk (s : State) (a : Nat) : State := s.countBehind (List.range 8) a

/-- The granules of HBM4 that an access of n bytes reads or writes are counted, 800 pJ each (R395); one to a memory node
wakes its region (R390). Log entry 60 (DEDUCED). -/
def State.countHbm (s : State) (a n : Nat) : State :=
  if n = 0 then s
  else if inHbm a then s.addEnergy 1 (stackOf a) (((a + n + 63) / 64 - a / 64) * 800 * 9000)
  else s.rouse ((a - 0x8000000000) / 0x400000)

/-- The accesses of a sequencer, of a region or of the service sequencer, are translated or physical (R180, R305): a walk
is counted for the former. -/
def State.countSeqWalk (s : State) (q a : Nat) : State := if q = service then s else s.countWalk a

/-- What a read through a cache of the control thread reads is counted (R133, R153, R395): of the address's own stack where
the cache does not hold it, and of its walk. Log entry 60 (DEDUCED). -/
def State.countCached (s : State) (q va pa : Nat) : State :=
  let s := s.countSeqWalk q va
  if inHbm pa then s.countBehind [stackOf pa] pa else s.countHbm pa 1

/-- Bits sent or received on a SerDes link are counted, 10 pJ each: link 0 is Tabnen, 1 to 24 the Ethernet ports (R395).
Log entry 99 (DESIGN CHOICE). -/
def State.countLink (s : State) (link bits : Nat) : State :=
  s.addEnergy 4 link ((bits + Config.linkOverhead link bits) * 10 * 9000)

/-- A read of n bytes. -/
def State.load (s : State) (a n : Nat) : List Byte := Memory.bytes s.mem a n

/-- One access writes bytes from an address on: it reaches their lines (R155), and clears the poison mark of the granules
it covers whole (R340). -/
def State.store (s : State) (a : Nat) (bs : List Byte) : State :=
  { s with
    mem := Memory.putBytes s.mem a bs
    written := (linesMet a bs.length).foldl (fun w l => w.set 0 l (w.getD l 0 + 1)) s.written
    poison := (wholeGranules a bs.length).foldl (fun p g => p.del g) s.poison }

/-- A granule is written with the poison mark (R339): the write reaches its line (R155, R169) and counts (R395).
Log entry 63 (DEDUCED). -/
def State.markPoison (s : State) (g : Nat) : State :=
  { s with
    poison := s.poison.put g true
    written := s.written.set 0 g (s.written.getD g 0 + 1) }.countHbm (64 * g) 64

/-! ## Coherence of decoded copies (R155, R169) -/

/-- No write has reached the lines of a decoded copy since it was read (R155). -/
def State.fresh (s : State) (lines : List (Nat × Nat)) : Bool := lines.all fun l => s.written.getD l.1 0 == l.2

/-- Lines with the writes that have reached them so far. -/
def State.stamps (s : State) (lines : List Nat) : List (Nat × Nat) := lines.map fun l => (l, s.written.getD l 0)

/-- The bytes of a block: header and words (R12). -/
def Blk.size (b : Blk) : Nat := 16 + 4 * b.words.length

/-! ## Translation (R305-R308) -/

/-- How an access fails (R308). -/
inductive AccErr where
  | unmapped
  | violation
  | ecc
  deriving DecidableEq, Repr

/-- What an access wants of its page (R306). -/
inductive Perm where
  | read
  | write
  | both
  | fetch
  deriving DecidableEq, Repr

/-- The permission bits of a leaf entry serve an access. -/
def Perm.ok (p : Perm) (e : Nat) : Bool :=
  match p with
  | .read => e.testBit 3
  | .write => e.testBit 4
  | .both => e.testBit 3 && e.testBit 4
  | .fetch => e.testBit 5

/-- A table entry at a physical address, or how reading it fails (R308). -/
def State.entry (s : State) (a : Nat) : Except AccErr Nat :=
  if !(inMap a && inMap (a + 7)) then .error .violation
  else if s.poisoned a 8 then .error .ecc
  else .ok (numOf (s.load a 8))

/-- One level of the walk (R305, R306): the next table, or the output address and permissions of a leaf. -/
inductive Step where
  | table (a : Nat)
  | leaf (base e : Nat)

/-- An entry of level lv is read (R306). -/
def readEntry (lv e : Nat) : Except AccErr Step :=
  if !e.testBit 0 then .error .unmapped
  else if field e 63 52 != 0 || field e 11 6 != 0 || e.testBit 2 then .error .violation
  else if lv = 3 then
    if !e.testBit 1 || field e 18 12 != 0 then .error .violation else .ok (.leaf (field e 51 19 * 2 ^ 19) e)
  else if e.testBit 1 then
    if field e 13 12 != 0 || field e 5 3 != 0 then .error .violation else .ok (.table (field e 51 14 * 2 ^ 14))
  else if lv = 1 then .error .violation
  else if field e 29 12 != 0 then .error .violation
  else .ok (.leaf (field e 51 30 * 2 ^ 30) e)

/-- The walk of the translation tables from a level-1 table (R305): physical address, the leaf entry, and the
bits the leaf maps. -/
def State.walkTables (s : State) (root va : Nat) : Except AccErr (Nat × Nat × Nat) :=
  match s.entry (root + 8 * field va 51 41) with
  | .error e => .error e
  | .ok e1 =>
    match readEntry 1 e1 with
    | .error e => .error e
    | .ok (.leaf _ _) => .error .violation
    | .ok (.table t2) =>
      match s.entry (t2 + 8 * field va 40 30) with
      | .error e => .error e
      | .ok e2 =>
        match readEntry 2 e2 with
        | .error e => .error e
        | .ok (.leaf b l) => .ok (b + field va 29 0, l, 30)
        | .ok (.table t3) =>
          match s.entry (t3 + 8 * field va 29 19) with
          | .error e => .error e
          | .ok e3 =>
            match readEntry 3 e3 with
            | .error e => .error e
            | .ok (.table _) => .error .violation
            | .ok (.leaf b l) => .ok (b + field va 18 0, l, 19)

/-- An access through a partition (R305, R306, R308): the physical address. -/
def State.translate (s : State) (part : Option Nat) (perm : Perm) (va : Nat) : Except AccErr Nat :=
  match part with
  | none => .error .violation
  | some p =>
    if !(s.part p).valid || va ≥ 2 ^ 52 then .error .violation
    else
      match s.walkTables (s.part p).root.toNat va with
      | .error e => .error e
      | .ok (pa, l, _) =>
        if !perm.ok l then .error .violation else if !inMap pa then .error .violation else .ok pa

/-- An access by a sequencer: through its region's partition, or physical on the service sequencer (R180). -/
def State.seqTranslate (s : State) (q : Nat) (perm : Perm) (va : Nat) : Except AccErr Nat :=
  if q = service then if inMap va then .ok va else .error .violation
  else s.translate (s.partOf q) perm va

/-! ## MN windows seen from outside (R299, R372) -/

/-- What a window access meets. -/
inductive Window where
  | plain
  /-- on the BUFW element at a site key of a context: its entries e to e' -/
  | bufw (ctx site e e' : Nat)
  | violation
  deriving DecidableEq, Repr

/-- The size of an MN element's allocation (R218, R219). -/
def SiteCfg.allocSize (c : SiteCfg) : Nat :=
  let p1 := (c.p.getD 1 0).toNat
  let p2 := (c.p.getD 2 0).toNat
  if c.op ≤ 4 then p1 * p2
  else if c.op ≤ 6 then 2 ^ ((p1 - 1).log2 + 1)
  else p1

/-- Two runs of bytes meet. -/
def overlaps (a n b m : Nat) : Bool := a < b + m && b < a + n && n != 0 && m != 0

/-- What an access of n bytes at offset off of MN mn of region r meets (R299). -/
def State.window (s : State) (r mn off n : Nat) (write : Bool) : Window :=
  if s.group (groupOf r) != .pool then .violation
  else if s.sbufs.any fun kb =>
      field kb.1 30 24 = r && field kb.1 23 19 = mn && overlaps off n kb.2.base kb.2.cap then .violation
  else
    let site := (mn % 8) * 12 + 3 * (mn / 8) + 1
    match (s.region r).armed with
    | none => .plain
    | some c =>
      match (s.ctxs.find? c).bind fun x => x.elems.find? (r * 96 + site) with
      | none => .plain
      | some el =>
        let b := (el.cfg.p.getD 0 0).toNat
        if el.cfg.kind != 1 || !overlaps off n b el.cfg.allocSize then .plain
        else if el.cfg.op = 5 || el.cfg.op = 6 then .plain
        else if el.cfg.op = 1 && !write then
          let e := (el.cfg.p.getD 1 0).toNat
          .bufw c (r * 96 + site) ((off - b) / e) (satTo ((el.cfg.p.getD 2 0).toNat - 1) ((off + n - 1 - b) / e))
        else .violation

/-- A physical access of n bytes, which lies in one MN where it lies in a window. -/
def State.windowAt (s : State) (pa n : Nat) (write : Bool) : Window :=
  if inHbm pa then .plain
  else
    let o := pa - 0x8000000000
    s.window (o / 0x400000) (o / 0x20000 % 32) (o % 0x20000) n write

/-- Whether entry e of a BUFW element is full (R218): its full bits are the bits of cnt. -/
def Elem.entryFull (el : Elem) (e : Nat) : Bool := el.cnt.testBit e

/-! ## The fault log (R177, R178) -/

/-- The translation of a log's ring: its region's partition, or physical for the service sequencer (R177). -/
def State.logRun (s : State) (q va : Nat) : Except AccErr Nat := s.seqTranslate q .write va

/-- An event enters the log of sequencer q (R177, R178): the region where it arose, or 0x7F, and NOSITE where site is
none. -/
def State.logAs (s : State) (q region : Nat) (site : Option Nat) (code : Nat) (hdr addr aux : Word) : State :=
  let x := s.seq q
  let k := x.flogW.toNat
  let n := 2 ^ ((if x.flogSize.toNat > 12 then 12 else x.flogSize.toNat) + 4)
  let drop := s.updSeq q fun x => { x with flogDrop := if x.flogDrop = 0xFFFF then 0xFFFF else x.flogDrop + 1 }
  if x.flogBase = 0 || ¬ (x.flogW - x.flogR).toNat < n then drop
  else
    match s.logRun q (x.flogBase.toNat + 32 * (k % n)) with
    | .error _ => drop
    | .ok pa =>
      if s.windowAt pa 32 true != .plain then drop
      else
        let w0 := field hdr.toNat 63 32 * 2 ^ 32 + (if q = service then 0 else (s.region q).ctx) * 2 ^ 24 +
          region * 2 ^ 16 + (if site.isNone then 1 else 0) * 2 ^ 15 +
          site.getD 0 * 2 ^ 8 + code
        (((s.store pa (wordsToBytes [wd w0, addr, aux, wd s.now])).countSeqWalk q pa).countHbm pa 32).updSeq q fun x =>
          { x with flogW := x.flogW + 1 }

/-- An event that arises in the region of a sequencer, or in none for the service sequencer, enters its log. -/
def State.log (s : State) (q : Nat) (site : Option Nat) (code : Nat) (hdr addr aux : Word) : State :=
  s.logAs q (if q = service then 0x7F else q) site code hdr addr aux

/-! ## Flags and tags (R283, R286, R145) -/

/-- The value of a flag. -/
def State.flag (s : State) (f : Nat) : Bool := s.flags.getD f false

/-- A waiting FLGW or FLWAIT that awaits the value a flag takes has seen it (R283, R284). Log entry 53 (DEDUCED). -/
def Wait.see (f : Nat) (v : Bool) : Wait → Wait
  | .flgw g want passed => .flgw g want (passed || (g == f && want == v))
  | w => w

/-- The waits of a block see the value a flag takes (R283). Log entry 53 (DEDUCED). -/
def Blk.seeFlag (f : Nat) (v : Bool) (b : Blk) : Blk :=
  { b with waits := b.waits.map fun w => { w with wait := w.wait.see f v } }

/-- The flag an element's parameter or token names is kept in `cnt` while it waits (R284). -/
def Elem.seeFlag (die f : Nat) (v : Bool) (el : Elem) : Elem :=
  if el.cfg.kind = 11 && el.cfg.op = 4 && el.waited == some false && die * 4096 + el.cnt = f &&
      (el.cfg.mode / 4 % 2 == 0) == v then { el with waited := some true } else el

/-- A flag is set or cleared, and every wait for that value passes (R283, R284). -/
def State.setFlag (s : State) (f : Nat) (v : Bool) : State :=
  { s with
    flags := s.flags.set false f v
    seqs := s.seqs.map fun kq => (kq.1, { kq.2 with blocks := kq.2.blocks.map (Blk.seeFlag f v) })
    ctxs := s.ctxs.map fun kc =>
      (kc.1, { kc.2 with elems := kc.2.elems.map fun ke => (ke.1, ke.2.seeFlag (ke.1 / 96 / 24) f v) }) }

/-- A bit set after a WAITI of the block has delivered it is not among those that the block's commit clears (R145).
Log entry 51 (DEDUCED). -/
def Blk.relatch (bits : BitVec 12) (b : Blk) : Blk :=
  { b with effs := b.effs.map fun e => match e.2 with
      | .waited m => (e.1, .waited (m &&& ~~~ bits))
      | _ => e }

/-- Bits of the WAITI latch are set (R145). Log entry 51 (DEDUCED). -/
def Seq.setLatch (x : Seq) (bits : BitVec 12) : Seq :=
  { x with latch := x.latch ||| bits, blocks := x.blocks.map (Blk.relatch bits) }

/-- Bits of the WAITI latch of a region are set (R145), which wakes it (R390). -/
def State.latch (s : State) (r : Nat) (bits : BitVec 12) : State := (s.updSeq r fun x => x.setLatch bits).rouse r

/-- A tag of a region is set (R286); while its group is gated or waking it is held pending (R374). -/
def State.setTag (s : State) (r tag : Nat) : State :=
  let m : BitVec 64 := 1 <<< tag
  match s.group (groupOf r) with
  | .gated | .waking => s.updRegion r fun x => { x with tagsPending := x.tagsPending ||| m }
  | _ =>
    let old := (s.region r).tags
    let s := (s.updRegion r fun x => { x with tags := x.tags ||| m }).rouse r
    if old &&& m = 0 then s.latch r 0x100 else s

/-! ## The energy counter of a sequencer (R382, R383) -/

/-- An addition to sq.energy, which saturates and sets ESAT (R383). -/
def Seq.addEnergy (x : Seq) (n : Nat) : Seq :=
  if x.energy.toNat + n ≤ 2 ^ 48 - 1 then { x with energy := BitVec.ofNat 48 (x.energy.toNat + n) }
  else { x with energy := BitVec.ofNat 48 (2 ^ 48 - 1), esat := true }

/-- The energy of events by class (R382). -/
def Seq.eventEnergy (x : Seq) (ev : Tab Nat) : Nat :=
  (ev.map fun kn => kn.2 * (x.enw.getD kn.1 0).toNat).sum

/-- A block's events are added in one addition while EN = 1 (R382). -/
def Seq.countEvents (x : Seq) (ev : Tab Nat) : Seq := if x.enOn then x.addEnergy (x.eventEnergy ev) else x

/-- The reads among a block's events (R172). -/
def Blk.reads (b : Blk) : Tab Nat := b.events.filter fun kn => kn.1 = 3

/-- The blocks from the n-th on are discarded; of a run-ahead block its reads alone are counted (R172, R382). -/
def Seq.dropAhead (x : Seq) (n : Nat) : Seq :=
  { (x.blocks.drop n).foldl (fun y b => y.countEvents b.reads) x with blocks := x.blocks.take n }

/-! ## Traps (R162-R165) -/

/-- The cause codes (R162). -/
def causeILLINS : BitVec 8 := 0x01
def causeBLKHANG : BitVec 8 := 0x02
def causeCALLDEPTH : BitVec 8 := 0x03
def causeRETEMPTY : BitVec 8 := 0x04
def causePFAULT : BitVec 8 := 0x05
def causeACCESS : BitVec 8 := 0x06
def causeALIGN : BitVec 8 := 0x07
def causeECCU : BitVec 8 := 0x09
def causeSCALL : BitVec 8 := 0x0A
def causeTRAPI : BitVec 8 := 0x0B
def causePREEMPT : BitVec 8 := 0x0C
def causeCFGREJECT : BitVec 8 := 0x0D
def causeHANG : BitVec 8 := 0x0E
def causeDBGHALT : BitVec 8 := 0x0F

/-- The trap cause of a failed access (R308). -/
def AccErr.cause : AccErr → BitVec 8
  | .unmapped => causePFAULT
  | .violation => causeACCESS
  | .ecc => causeECCU

/-- Taking a trap (R163): with TM set it is a double trap, which stops the sequencer and leaves sq.cause, sq.epc and
sq.tval; otherwise they are written, TM is set, the loop buffer is released, run-ahead blocks are discarded, and
the handler block is next, or the sequencer stops where sq.tvec is zero.  Either way it counts one event of class 6
(R382). -/
def Seq.enterTrap (x : Seq) (cause : BitVec 8) (epc tval : Word) : Seq :=
  let x := x.dropAhead 0
  let x := if x.enOn then x.addEnergy (x.enw.getD 6 0).toNat else x
  if x.tm then { x with dbl := true, dcause := cause, cond := .stopped }
  else
    let x := { x with
      cause := cause
      epc := epc &&& ~~~ 0xF
      tval := tval
      tm := true
      lbuf := []
      recent := [] }
    if x.tvec &&& ~~~ 0xF = 0 then { x with cond := .stopped }
    else { x with cond := .fetch (x.tvec &&& ~~~ 0xF) }

/-- The return from the trap state at the commit of a block that leaves by ERET (R165). -/
def Seq.leaveTrap (x : Seq) : Seq := { x with tm := false }

/-- The block in progress is abandoned with no effect but its events (R134, R159, R382). -/
def Seq.abandon (x : Seq) : Seq :=
  match x.blocks with
  | [] => x
  | b :: younger => { x.countEvents b.events with blocks := younger }.dropAhead 0

/-- A commit has begun and waits in a FENCE (R277). -/
def Seq.committing (x : Seq) : Bool :=
  match x.cond with
  | .commit _ _ => true
  | _ => false

/-- sq.epc of an asynchronous trap: the block in progress, or the next block (R115, R159); none while a commit is under
way, which nothing interrupts (R158). -/
def Seq.resumeAt (x : Seq) : Option Word :=
  match x.cond with
  | .run => (x.blocks.head?).map (·.addr)
  | .fetch a | .held a => some a
  | .decode k => some k.addr
  | _ => none

end Sys2Proof.Machine
end

