-- ==== Sys2Proof/Machine/NumFmt.lean ====
section
/-! DEFINITION. Number formats, exact values and the one rounding of every path (R24, R237-R249). -/

namespace Sys2Proof.Machine

/-- The exact value of an element: NaN, an infinity, or (-1)^neg * m * 2^e, a zero keeping its sign (R238). -/
inductive ExactVal where
  | nan
  | inf (neg : Bool)
  | fin (neg : Bool) (m : Nat) (e : Int)
  deriving DecidableEq, Repr

/-- Rounding modes (R243); SR carries its draw (R245). -/
inductive Round where
  | rne
  | rtz
  | rdn
  | rup
  | sr (u : Nat)
  deriving DecidableEq, Repr

/-- The mode of a two-bit rounding field (R76, R291). -/
def Round.of2 (c : Nat) : Round :=
  match c % 4 with
  | 0 => .rne
  | 1 => .rtz
  | 2 => .rdn
  | _ => .rup

/-- Special codes of a floating format (R238, R240): IEEE infinities and NaNs, a NaN only, or none. -/
inductive Special where
  | ieee
  | nanOnly
  | none
  deriving DecidableEq, Repr

/-- The layout of a floating format (R238, R240). -/
structure FloatFmt where
  eb : Nat
  mb : Nat
  bias : Nat
  sp : Special
  deriving DecidableEq, Repr

/-- Format codes (R24). -/
def fmtF16 : Nat := 0x09
def fmtBF16 : Nat := 0x0A
def fmtF32 : Nat := 0x0B
def fmtF64 : Nat := 0x0C
def fmtCSIMG : Nat := 0x18
def fmtNRIMG : Nat := 0x19
def fmtANY : Nat := 0x1F

/-- Integer codes, IEEE codes, MX codes and image codes (R24). -/
def isInt (f : Nat) : Bool := 0x01 ≤ f && f ≤ 0x08
def isIeee (f : Nat) : Bool := 0x09 ≤ f && f ≤ 0x0C
def isMx (f : Nat) : Bool := 0x10 ≤ f && f ≤ 0x15
def isImg (f : Nat) : Bool := f = 0x18 || f = 0x19
def isListed (f : Nat) : Bool := f ≤ 0x0C || isMx f || isImg f || f = 0x1F
/-- The I formats are signed (R237). -/
def isSigned (f : Nat) : Bool := 0x01 ≤ f && f ≤ 0x04

/-- Element bits (R24). -/
def fmtBits (f : Nat) : Nat :=
  match f with
  | 0x01 | 0x05 => 8
  | 0x02 | 0x06 => 16
  | 0x03 | 0x07 => 32
  | 0x04 | 0x08 => 64
  | 0x09 | 0x0A => 16
  | 0x0B => 32
  | 0x0C => 64
  | 0x10 | 0x11 | 0x15 => 8
  | 0x12 | 0x13 => 6
  | 0x14 => 4
  | _ => 0

/-- The layouts of the floating formats (R238, R240). -/
def floatFmt (f : Nat) : FloatFmt :=
  match f with
  | 0x09 => ⟨5, 10, 15, .ieee⟩
  | 0x0A => ⟨8, 7, 127, .ieee⟩
  | 0x0B => ⟨8, 23, 127, .ieee⟩
  | 0x0C => ⟨11, 52, 1023, .ieee⟩
  | 0x10 => ⟨4, 3, 7, .nanOnly⟩
  | 0x11 => ⟨5, 2, 15, .ieee⟩
  | 0x12 => ⟨3, 2, 3, .none⟩
  | 0x13 => ⟨2, 3, 1, .none⟩
  | _ => ⟨2, 1, 1, .none⟩

/-- The exponent of the largest normal binade of an MX element format (R240). -/
def emax (f : Nat) : Int :=
  match f with
  | 0x10 => 8
  | 0x11 => 15
  | 0x12 => 4
  | 0x13 => 2
  | 0x14 => 2
  | _ => 0

/-- The exponent of the least subnormal (R238, R240). -/
def FloatFmt.emin (f : FloatFmt) : Int := 1 - f.bias - f.mb

/-- The code of the largest finite magnitude. -/
def FloatFmt.maxCode (f : FloatFmt) : Nat :=
  match f.sp with
  | .ieee => (2 ^ f.eb - 1) * 2 ^ f.mb - 1
  | .nanOnly => 2 ^ (f.eb + f.mb) - 2
  | .none => 2 ^ (f.eb + f.mb) - 1

/-- The canonical NaN code (R238, R243). -/
def FloatFmt.nanCode (f : FloatFmt) : Nat :=
  match f.sp with
  | .ieee => (2 ^ f.eb - 1) * 2 ^ f.mb + 2 ^ (f.mb - 1)
  | .nanOnly => 2 ^ (f.eb + f.mb) - 1
  | .none => 0

/-- The exact value of a floating code (R238, R240). -/
def FloatFmt.value (f : FloatFmt) (code : Nat) : ExactVal :=
  let neg := code / 2 ^ (f.eb + f.mb) % 2 == 1
  let mag := code % 2 ^ (f.eb + f.mb)
  let ex := mag / 2 ^ f.mb
  let fr := mag % 2 ^ f.mb
  if f.sp = .ieee && ex = 2 ^ f.eb - 1 then if fr = 0 then .inf neg else .nan
  else if f.sp = .nanOnly && mag = 2 ^ (f.eb + f.mb) - 1 then .nan
  else if ex = 0 then .fin neg fr f.emin
  else .fin neg (2 ^ f.mb + fr) (f.emin + (ex - 1 : Nat))

/-- The exact value of an element of any integer, IEEE or MX format, before any scale (R237-R240). -/
def valueOf (fmt code : Nat) : ExactVal :=
  if isInt fmt then
    let v : Int := if isSigned fmt then signedOf (fmtBits fmt) code else (code % 2 ^ fmtBits fmt : Nat)
    .fin (v < 0) v.natAbs 0
  else if fmt = 0x15 then
    let v := signedOf 8 code
    .fin (v < 0) v.natAbs (-6)
  else (floatFmt fmt).value code

/-- The value of an element with its row scale (R242). -/
def scaledValue (fmt code scale : Nat) : ExactVal :=
  if scale = 0xFF then .nan
  else
    match valueOf fmt code with
    | .fin n m e => .fin n m (e + scale - 127)
    | v => v

/-- m * 2^e in units of 2^q, rounded (R243, R245). -/
def roundUnits (r : Round) (neg : Bool) (m : Nat) (e q : Int) : Nat :=
  if q ≤ e then m * 2 ^ (e - q).toNat
  else
    let d := (q - e).toNat
    let n := m / 2 ^ d
    let rem := m % 2 ^ d
    let up := match r with
      | .rne => decide (2 * rem > 2 ^ d) || (2 * rem == 2 ^ d && n % 2 == 1)
      | .rtz => false
      | .rdn => neg && rem != 0
      | .rup => !neg && rem != 0
      | .sr u =>
        if rem = 0 then false
        else if neg then !decide (u * 2 ^ d < (2 ^ d - rem) * 2 ^ 16) else decide (u * 2 ^ d < rem * 2 ^ 16)
    if up then n + 1 else n

/-- A finite value rounded to a floating format: its magnitude code, overflow by mode (R243). -/
def FloatFmt.roundMag (f : FloatFmt) (r : Round) (neg : Bool) (m : Nat) (e : Int) : Nat :=
  if m = 0 then 0
  else
    let lead := e + m.log2
    let q := max (lead - f.mb) f.emin
    let code (r : Round) (neg : Bool) := (q - f.emin).toNat * 2 ^ f.mb + roundUnits r neg m e q
    if code .rup false ≤ f.maxCode then code r neg
    else
      match f.sp with
      | .ieee =>
        let inf := (2 ^ f.eb - 1) * 2 ^ f.mb
        match r with
        | .rtz => f.maxCode
        | .rdn => if neg then inf else f.maxCode
        | .rup => if neg then f.maxCode else inf
        | _ => if code .rne neg ≤ f.maxCode then f.maxCode else inf
      | _ => f.maxCode

/-- The sign bit of a floating code. -/
def FloatFmt.sign (f : FloatFmt) (neg : Bool) : Nat := if neg then 2 ^ (f.eb + f.mb) else 0

/-- A value rounded to an integer and saturated to the range of the format (R237). -/
def roundInt (fmt : Nat) (r : Round) : ExactVal → Nat
  | .nan => 0
  | .inf neg =>
    let w := fmtBits fmt
    if isSigned fmt then (if neg then 2 ^ (w - 1) else 2 ^ (w - 1) - 1) else (if neg then 0 else 2 ^ w - 1)
  | .fin neg m e =>
    let w := fmtBits fmt
    let n := roundUnits r neg m e 0
    if isSigned fmt then
      if neg then (if n ≥ 2 ^ (w - 1) then 2 ^ (w - 1) else (2 ^ w - n) % 2 ^ w)
      else (if n ≥ 2 ^ (w - 1) then 2 ^ (w - 1) - 1 else n)
    else if neg then 0
    else (if n ≥ 2 ^ w then 2 ^ w - 1 else n)

/-- A value rounded once to an element code of an integer, IEEE or MX format (R243); of an MX format it has been
divided by the scale, and a NaN that the format cannot hold is the business of the row (R246). -/
def roundTo (fmt : Nat) (r : Round) (v : ExactVal) : Nat :=
  if isInt fmt then roundInt fmt r v
  else if fmt = 0x15 then
    match v with
    | .nan => 0
    | .inf neg => if neg then 0x81 else 0x7F
    | .fin neg m e =>
      let n := satTo 127 (roundUnits r neg m e (-6))
      if neg then (256 - n) % 256 else n
  else
    let f := floatFmt fmt
    match v with
    | .nan => f.nanCode
    | .inf neg =>
      f.sign neg + (if f.sp = .ieee then (2 ^ f.eb - 1) * 2 ^ f.mb else f.maxCode)
    | .fin neg m e => f.sign neg + f.roundMag r neg m e

/-- Whether a format has a NaN code (R243). -/
def hasNan (fmt : Nat) : Bool := isIeee fmt || fmt = 0x10 || fmt = 0x11

/-- The exponent floor(log2 |v|) of a finite non-zero value. -/
def ExactVal.lead : ExactVal → Option Int
  | .fin _ m e => if m = 0 then none else some (e + m.log2)
  | _ => none

/-- The greater of two optional exponents. -/
def maxLead (a b : Option Int) : Option Int :=
  match a, b with
  | some x, some y => some (max x y)
  | some x, none => some x
  | none, y => y

/-- The value divided by 2^k. -/
def ExactVal.shift (k : Int) : ExactVal → ExactVal
  | .fin n m e => .fin n m (e - k)
  | v => v

/-- The scale exponent of a row (R246), from the values whose magnitudes choose it. -/
def scaleExp (fmt : Nat) (vs : List ExactVal) : Int :=
  match vs.foldl (fun a v => maxLead a v.lead) none with
  | none => 0
  | some l => max (min (l - emax fmt) 127) (-127)

/-- A row of values converted to an MX format (R246): its element codes and its scale.  The first list chooses the
scale, the second is rounded; they differ only by the sticky amount of R259. -/
def mxRow (fmt : Nat) (choose vs : List ExactVal) (r : Nat → Round) : List Nat × Nat :=
  if !hasNan fmt && vs.any (· == .nan) then (vs.map fun _ => 0, 0xFF)
  else
    let e := scaleExp fmt choose
    (vs.zipIdx.map fun vj => roundTo fmt (r vj.2) (vj.1.shift e), (e + 127).toNat)

/-! ## Exact arithmetic on values -/

/-- The signed integer of a finite value in units of 2^q, q not above its exponent. -/
def unitsAt (neg : Bool) (m : Nat) (e q : Int) : Int :=
  let n : Int := m * 2 ^ (e - q).toNat
  if neg then -n else n

/-- A value from an integer in units of 2^q; an exact zero is +0. -/
def ofUnits (v q : Int) : ExactVal := .fin (v < 0) v.natAbs q

def ExactVal.neg : ExactVal → ExactVal
  | .nan => .nan
  | .inf s => .inf !s
  | .fin s m e => .fin (!s) m e

/-- The exact sum; an exact zero takes the sign of R76 and R127, -0 under RDN where the signs differ. -/
def ExactVal.add (r : Round) : ExactVal → ExactVal → ExactVal
  | .nan, _ => .nan
  | _, .nan => .nan
  | .inf a, .inf b => if a == b then .inf a else .nan
  | .inf a, _ => .inf a
  | _, .inf b => .inf b
  | .fin a m e, .fin b n f =>
    let q := min e f
    let v := unitsAt a m e q + unitsAt b n f q
    if v = 0 then
      if m = 0 && n = 0 && a == b then .fin a 0 q else .fin (r == .rdn) 0 q
    else ofUnits v q

/-- The exact product (R127). -/
def ExactVal.mul : ExactVal → ExactVal → ExactVal
  | .nan, _ => .nan
  | _, .nan => .nan
  | .inf a, .inf b => .inf (a != b)
  | .inf a, .fin b n _ => if n = 0 then .nan else .inf (a != b)
  | .fin a m _, .inf b => if m = 0 then .nan else .inf (a != b)
  | .fin a m e, .fin b n f => .fin (a != b) (m * n) (e + f)

/-- The quotient (R127), to 2^-200 of its leading bit and with a last bit that marks a remainder. -/
def ExactVal.div : ExactVal → ExactVal → ExactVal
  | .nan, _ => .nan
  | _, .nan => .nan
  | .inf _, .inf _ => .nan
  | .inf a, .fin b _ _ => .inf (a != b)
  | .fin a _ _, .inf b => .fin (a != b) 0 0
  | .fin a m e, .fin b n f =>
    if n = 0 then if m = 0 then .nan else .inf (a != b)
    else
      let k := 200 + n.log2
      let t := m * 2 ^ k
      .fin (a != b) (2 * (t / n) + (if t % n = 0 then 0 else 1)) (e - f - k - 1)

/-- The integer square root of a number below 4^k: the bits from k - 1 down are tried on r. -/
def isqrtAux (n : Nat) : Nat → Nat → Nat
  | 0, r => r
  | k + 1, r => isqrtAux n k (if (r + 2 ^ k) * (r + 2 ^ k) ≤ n then r + 2 ^ k else r)

def isqrt (n : Nat) : Nat := isqrtAux n (n.log2 / 2 + 1) 0

/-- The square root (R127), with a last bit that marks a remainder. -/
def ExactVal.sqrt : ExactVal → ExactVal
  | .nan => .nan
  | .inf false => .inf false
  | .inf true => .nan
  | .fin s m e =>
    if m = 0 then .fin s 0 e
    else if s then .nan
    else
      let (m, e) := if e % 2 = 0 then (m, e) else (2 * m, e - 1)
      let t := m * 2 ^ 260
      let r := isqrt t
      .fin false (2 * r + (if r * r = t then 0 else 1)) (e / 2 - 131)

/-- The order of two values that are no NaN. -/
def ExactVal.le (a b : ExactVal) : Bool :=
  match a, b with
  | .inf true, _ => true
  | _, .inf false => true
  | .inf false, _ => false
  | _, .inf true => false
  | .fin a m e, .fin b n f => decide (unitsAt a m e (min e f) ≤ unitsAt b n f (min e f))
  | _, _ => false

def ExactVal.isNan : ExactVal → Bool
  | .nan => true
  | _ => false

/-- Exact comparisons, false on a NaN (R129). -/
def ExactVal.leq (a b : ExactVal) : Bool := !a.isNan && !b.isNan && a.le b
def ExactVal.eqv (a b : ExactVal) : Bool := a.leq b && b.leq a
def ExactVal.lt (a b : ExactVal) : Bool := a.leq b && !b.leq a

/-- The six conditions of R31 on exact values: a NaN makes NE true and every other condition false (R78). -/
def condNum (c : Nat) (a b : ExactVal) : Bool :=
  match c with
  | 0 => a.eqv b
  | 1 => !a.eqv b
  | 2 => a.lt b
  | 3 => a.leq b
  | 4 => b.lt a
  | _ => b.leq a

/-- -0 is below +0 (R128). -/
def ExactVal.negSign : ExactVal → Bool
  | .nan => false
  | .inf s => s
  | .fin s _ _ => s

/-- The lesser or greater of two codes, bit for bit (R128). -/
def pickCode (fmt : Nat) (greater : Bool) (a b : Nat) : Nat :=
  let x := valueOf fmt a
  let y := valueOf fmt b
  if x.isNan then if y.isNan then (floatFmt fmt).nanCode else b
  else if y.isNan then a
  else
    let below := x.lt y || (x.eqv y && x.negSign && !y.negSign)
    if below == greater then b else a

end Sys2Proof.Machine
end

