-- ==== Sys2Proof/Machine/Token.lean ====
section
/-! DEFINITION. Tokens: header fields (R20), sizes (R21, R22, R260), and their bytes in memory (R21, R263, R303). -/

namespace Sys2Proof.Machine

/-! ## Header fields (R20) -/

def hFmt (h : Word) : Nat := bitsOf h 0 5
def hRows (h : Word) : Nat := bitsOf h 5 5 + 1
def hCols (h : Word) : Nat := bitsOf h 10 5 + 1
def hLr (h : Word) : Bool := h.getLsbD 15
def hLs (h : Word) : Bool := h.getLsbD 16
def hBub (h : Word) : Bool := h.getLsbD 17
def hKind (h : Word) : Nat := bitsOf h 18 2
def hCtl (h : Word) : Nat := bitsOf h 20 4
def hPsn (h : Word) : Bool := h.getLsbD 24
def hEp (h : Word) : Bool := h.getLsbD 25
def hScl (h : Word) : Bool := h.getLsbD 26
def hChn (h : Word) : Nat := bitsOf h 32 24
def hSrc (h : Word) : Nat := bitsOf h 56 8

/-- Bits [lo + n - 1 : lo] of a word take a number. -/
def putBits (w : Word) (lo n v : Nat) : Word :=
  (w &&& ~~~ (wd (2 ^ n - 1) <<< lo)) ||| (wd (v % 2 ^ n) <<< lo)

/-- One bit of a word takes a truth value. -/
def putBit (w : Word) (i : Nat) (b : Bool) : Word := putBits w i 1 (if b then 1 else 0)

def hSetLr (h : Word) (b : Bool) : Word := putBit h 15 b
def hSetLs (h : Word) (b : Bool) : Word := putBit h 16 b
def hSetBub (h : Word) (b : Bool) : Word := putBit h 17 b
def hSetPsn (h : Word) (b : Bool) : Word := putBit h 24 b
def hSetEp (h : Word) (b : Bool) : Word := putBit h 25 b
def hSetChn (h : Word) (c : Nat) : Word := putBits h 32 24 c
def hSetSrc (h : Word) (c : Nat) : Word := putBits h 56 8 c

/-- The format of a token, with the scale bit that goes with it (R20). -/
def hSetFmt (h : Word) (f : Nat) : Word := putBit (putBits h 0 5 f) 26 (isMx f)

def hSetShape (h : Word) (rows cols : Nat) : Word := putBits (putBits h 5 5 (rows - 1)) 10 5 (cols - 1)

/-- A data header without structure bits. -/
def hData (fmt rows cols chn src : Nat) (ep : Bool) : Word :=
  hSetEp (hSetSrc (hSetChn (hSetShape (hSetFmt 0 fmt) rows cols) chn) src) ep

/-- A control header (R20, R106). -/
def hControl (ctl chn src : Nat) (ep : Bool) : Word :=
  hSetEp (hSetSrc (hSetChn (putBits (putBits 0 18 2 1) 20 4 ctl) chn) src) ep

/-- What a token is to an element: data, or one of the control tokens (R20, R23). -/
inductive TokKind where
  | data
  | xch
  | weir
  | sluice
  | req
  deriving DecidableEq, Repr

def kindOfHdr (h : Word) : TokKind :=
  if hKind h = 1 then
    match hCtl h with
    | 1 => .xch
    | 2 => .weir
    | 3 => .sluice
    | 4 => .req
    | _ => .data
  else .data

/-- KIND or CTL holds a value that no token of the fabric has (R23). Log entry 43 (DEDUCED). -/
def reservedKind (h : Word) : Bool := (hKind h = 0 && hCtl h != 0) || hKind h ≥ 2 || (hKind h = 1 && (hCtl h = 0 || hCtl h > 4))

def Token.fmt (t : Token) : Nat := hFmt t.hdr
def Token.rows (t : Token) : Nat := hRows t.hdr
def Token.cols (t : Token) : Nat := hCols t.hdr
def Token.bub (t : Token) : Bool := hBub t.hdr
def Token.lr (t : Token) : Bool := hLr t.hdr
def Token.ls (t : Token) : Bool := hLs t.hdr
def Token.psn (t : Token) : Bool := hPsn t.hdr
def Token.ends (t : Token) : Bool := t.lr || t.ls
def Token.kind (t : Token) : TokKind := kindOfHdr t.hdr
def Token.isData (t : Token) : Bool := t.kind == .data
def Token.closed (t : Token) : Bool := t.kind == .weir || t.kind == .sluice
def Token.withHdr (t : Token) (h : Word) : Token := { t with hdr := h }
def Token.poison (t : Token) : Token := { t with hdr := hSetPsn t.hdr true }

/-- A token of elements. -/
def elemTok (h : Word) (codes : List Nat) : Token := ⟨h, .elems codes []⟩
def mxTok (h : Word) (codes scales : List Nat) : Token := ⟨h, .elems codes scales⟩
def bubble (h : Word) : Token := ⟨hSetBub h true, .none⟩
def ctlTok (h : Word) : Token := ⟨h, .none⟩

/-- Element codes and row scales of a token. -/
def Token.codes (t : Token) : List Nat :=
  match t.body with
  | .elems c _ => c
  | _ => []

def Token.scales (t : Token) : List Nat :=
  match t.body with
  | .elems _ s => s
  | _ => []

/-! ## Packing (R21) -/

/-- Codes of w bits packed least significant first. -/
def packNat (w : Nat) : List Nat → Nat
  | [] => 0
  | c :: t => c % 2 ^ w + 2 ^ w * packNat w t

/-- n codes of w bits read from a number. -/
def unpackNat (w : Nat) : Nat → Nat → List Nat
  | 0, _ => []
  | n + 1, v => v % 2 ^ w :: unpackNat w n (v / 2 ^ w)

/-- Bytes of n elements of w bits. -/
def packBytes (w : Nat) (cs : List Nat) : List Byte := bytesOf ((cs.length * w + 7) / 8) (packNat w cs)

def ceilDiv (a b : Nat) : Nat := (a + b - 1) / b

/-- Beats of a token after its header (R21, R22, R260). -/
def payloadBeats (h : Word) : Nat :=
  if kindOfHdr h != .data || hBub h then 0
  else
    let n := hRows h * hCols h
    let f := hFmt h
    if f = fmtCSIMG then ceilDiv (224 * n) 512 + ceilDiv (4 * n) 512 + 1
    else if f = fmtNRIMG then ceilDiv (112 * n) 512 + ceilDiv (4 * n) 512 + 1
    else
      let p := ceilDiv (n * fmtBits f) 512
      if isMx f && hRows h > 2 * p then p + 1 else p

def Token.beats (t : Token) : Nat := payloadBeats t.hdr

/-! ## Images in memory (R260, R261, R263) -/

/-- The nibble of a lane (R260). -/
def Lane.nibble (l : Lane) : Nat :=
  (if l.sticky then 1 else 0) + 2 * (match l.spec with | .fin => 0 | .posInf => 1 | .negInf => 2 | .nan => 3)

/-- A number of bits padded with zeros to whole beats, as bytes. -/
def beatsOf (bits v : Nat) : List Byte := bytesOf (64 * ceilDiv bits 512) v

/-- Word 0 of the trailer (R261). -/
def Image.trailer0 (i : Image) : Nat :=
  patOf 12 i.b + (if i.lanes.any (·.sticky) then 2 ^ 12 else 0) + satTo 255 i.reb * 2 ^ 16

/-- The payload of an image in bytes (R260, R263). -/
def Image.bytes (i : Image) (fmt : Nat) : List Byte :=
  let n := i.lanes.length
  let w := if fmt = fmtCSIMG then 224 else 112
  let lane (l : Lane) : Nat :=
    if fmt = fmtCSIMG then patOf 112 (l.v - l.c) + 2 ^ 112 * patOf 112 l.c else patOf 112 l.v
  beatsOf (w * n) (packNat w (i.lanes.map lane)) ++ beatsOf (4 * n) (packNat 4 (i.lanes.map Lane.nibble)) ++
    bytesOf 8 i.trailer0 ++ bytesOf 8 i.chk.toNat ++ bytesOf 48 0

/-- A lane from its vectors and its nibble. -/
def laneOf (s c : Int) (nib : Nat) : Lane :=
  { v := s + c
    c := c
    sticky := nib % 2 == 1
    spec := match nib / 2 % 4 with
      | 0 => .fin
      | 1 => .posInf
      | 2 => .negInf
      | _ => .nan }

/-- An image from its payload bytes, marked bad where the payload holds a reserved lane encoding (R261). -/
def imageOf (fmt n : Nat) (bs : List Byte) : Image :=
  let w := if fmt = fmtCSIMG then 224 else 112
  let d := 64 * ceilDiv (w * n) 512
  let e := 64 * ceilDiv (4 * n) 512
  let lv := numOf (bs.take d)
  let sv := numOf ((bs.drop d).take e)
  let tr := bytesToWords (bs.drop (d + e))
  let nibs := unpackNat 4 n sv
  let vecs := unpackNat w n lv
  let raw := vecs.map fun v => (signedOf 112 v, if fmt = fmtCSIMG then signedOf 112 (v / 2 ^ 112) else 0)
  let lanes := (raw.zip nibs).map fun x => laneOf x.1.1 x.1.2 x.2
  let t0 := (tr.getD 0 0).toNat
  let b := signedOf 12 t0
  { b := b
    reb := field t0 23 16
    chk := tr.getD 1 0
    lanes := lanes
    bad :=
      nibs.any (· ≥ 8) || (raw.zip lanes).any (fun x => x.2.spec != .fin && (x.1.1 != 0 || x.1.2 != 0 || x.2.sticky)) ||
        lv ≥ 2 ^ (w * n) || sv ≥ 2 ^ (4 * n) ||
        lanes.any (fun l => l.spec == .fin && l.v.natAbs ≥ 2 ^ 110) ||
        (t0 / 2 ^ 12 % 2 == 1) != lanes.any (·.sticky) || field t0 15 13 != 0 || t0 ≥ 2 ^ 24 ||
        (tr.drop 2).any (· != 0)
    fromMem := true }

/-- The check word of an image (R208): its payload words, the check word left out, each rotated by its place. -/
def Image.check (i : Image) (fmt : Nat) : Word :=
  let ws := bytesToWords (Image.bytes { i with chk := 0 } fmt)
  ws.zipIdx.foldl (fun a wk => a ^^^ wk.1.rotateLeft (wk.2 % 64)) 0

/-! ## Tokens in memory (R218, R303) -/

/-- Payload bytes of a token, without scales. -/
def payloadBytes (h : Word) : Nat :=
  if kindOfHdr h != .data || hBub h then 0
  else
    let n := hRows h * hCols h
    if isImg (hFmt h) then 64 * payloadBeats h else (n * fmtBits (hFmt h) + 7) / 8

/-- Scale bytes of a token. -/
def scaleBytes (h : Word) : Nat :=
  if kindOfHdr h == .data && !hBub h && isMx (hFmt h) then hRows h else 0

/-- The payload and scales of a token as bytes. -/
def Token.payload (t : Token) : List Byte :=
  match t.body with
  | .none => []
  | .elems cs _ => packBytes (fmtBits t.fmt) cs
  | .image i => i.bytes t.fmt

def Token.scaleList (t : Token) : List Byte := t.scales.map (BitVec.ofNat 8)

/-- A body of a header's shape read from payload and scale bytes. -/
def bodyOf (h : Word) (bs sc : List Byte) : Body :=
  if kindOfHdr h != .data || hBub h then .none
  else
    let n := hRows h * hCols h
    if isImg (hFmt h) then .image (imageOf (hFmt h) n bs)
    else .elems (unpackNat (fmtBits (hFmt h)) n (numOf bs)) (sc.map BitVec.toNat)

/-- The space of a token in a stream buffer (R303). -/
def ringSize (h : Word) : Nat := 8 + 8 * ceilDiv (payloadBytes h) 8 + 8 * ceilDiv (scaleBytes h) 8

/-- Bytes padded with zeros to a length. -/
def padTo (n : Nat) (bs : List Byte) : List Byte := bs ++ List.replicate (n - bs.length) 0

/-- A token as it stands in a stream buffer (R303). -/
def Token.ringBytes (t : Token) : List Byte :=
  bytesOf 8 t.hdr.toNat ++ padTo (8 * ceilDiv (payloadBytes t.hdr) 8) t.payload ++
    padTo (8 * ceilDiv (scaleBytes t.hdr) 8) t.scaleList

/-! ## Values of tokens -/

/-- Codes that no rule states (R23, R75): free values of a draw. Log entry 32 (DESIGN CHOICE). -/
def freeCodes (d n w : Nat) : List Nat := (List.range n).map fun i => Config.freeElem d i % 2 ^ w

/-- Element (0,0) read unsigned; a bubble has none. -/
def Token.first (t : Token) : Option Nat := if t.bub then none else t.codes.head?

/-- The exact value of an element at row r, column c of a token. -/
def Token.value (t : Token) (r c : Nat) : ExactVal :=
  let code := t.codes.getD (r * t.cols + c) 0
  if isMx t.fmt then scaledValue t.fmt code (t.scales.getD r 0x7F) else valueOf t.fmt code

/-- Every element of a row. -/
def Token.rowValues (t : Token) (r : Nat) : List ExactVal := (List.range t.cols).map fun c => t.value r c

end Sys2Proof.Machine
end

