-- ==== Sys2Proof/Machine/Lanes.lean ====
section
/-! DEFINITION. Accumulator lanes: contributions, rebases, additions and resolving (R250-R264, R401). -/

namespace Sys2Proof.Machine

/-- A lane that holds zero. -/
def Lane.zero : Lane := ⟨0, 0, false, .fin⟩

/-- A lane in a special state (R250). -/
def Lane.special (s : Spec) : Lane := ⟨0, 0, false, s⟩

/-- A zero image of n lanes (R204, R256). -/
def Image.zero (n : Nat) (b : Int) : Image :=
  { b := b
    reb := 0
    chk := 0
    lanes := List.replicate n Lane.zero
    bad := false
    fromMem := false }

/-- Special states combine (R254). -/
def Spec.join : Spec → Spec → Spec
  | .fin, s => s
  | s, .fin => s
  | .posInf, .posInf => .posInf
  | .negInf, .negInf => .negInf
  | _, _ => .nan

/-- The special state a contribution brings (R254). -/
def ExactVal.spec : ExactVal → Spec
  | .nan => .nan
  | .inf false => .posInf
  | .inf true => .negInf
  | .fin _ _ _ => .fin

/-- floor(p / u) for a unit of 2^q, and whether anything was dropped (R252). -/
def floorUnits (neg : Bool) (m : Nat) (e q : Int) : Int × Bool :=
  if q ≤ e then (unitsAt neg m e q, false)
  else
    let d := (2 : Int) ^ (q - e).toNat
    let v : Int := if neg then -(m : Int) else m
    (v / d, v % d != 0)

/-- A contribution entered into a lane at base exponent b (R252, R254). -/
def Lane.enter (b : Int) (l : Lane) (p : ExactVal) : Lane :=
  match p with
  | .fin n m e =>
    if l.spec != .fin then l
    else
      let (v, r) := floorUnits n m e (b - 56)
      { l with v := l.v + v, sticky := l.sticky || r }
  | p => .special (l.spec.join p.spec)

/-- A lane rebased by d (R253). -/
def Lane.rebase (d : Nat) (l : Lane) : Lane :=
  if l.spec != .fin then l
  else ⟨l.v / 2 ^ d, 0, l.sticky || l.v % 2 ^ d != 0, .fin⟩

/-- A finite lane is within its bound (R251). -/
def Lane.inBound (l : Lane) : Bool := l.spec != .fin || l.v.natAbs < 2 ^ 110

/-- A finite contribution is within its bound at b (R251). -/
def ExactVal.inBound (b : Int) (p : ExactVal) : Bool :=
  match p.lead with
  | some x => decide (x < b + 49)
  | none => true

/-- The lanes with a step's contributions entered at a rebase of d. -/
def entered (b : Int) (lanes : List Lane) (ps : List (List ExactVal)) (d : Nat) : List Lane :=
  (lanes.zip ps).map fun lp => lp.2.foldl (Lane.enter (b + d)) (lp.1.rebase d)

/-- The least d from d0 on whose bounds hold (R253). Log entry 27 (DEDUCED). -/
def findRebase (ok : Nat → Bool) : Nat → Nat → Nat
  | 0, d => d
  | f + 1, d => if ok d then d else findRebase ok f (d + 1)

/-- A step's contributions enter an image (R253, R401): one list a lane. Log entry 27 (DEDUCED). -/
def Image.enter (i : Image) (ps : List (List ExactVal)) : Image :=
  let all := ps.flatten
  let ok (d : Nat) := all.all (ExactVal.inBound (i.b + d)) && (entered i.b i.lanes ps d).all Lane.inBound
  if ok 0 then { i with lanes := entered i.b i.lanes ps 0 }
  else
    let need := match all.foldl (fun a v => maxLead a v.lead) none with
      | some x => (x - 48 - i.b).toNat
      | none => 1
    let d := findRebase ok 200 (max 1 need)
    if i.b + d ≤ 2047 then { i with b := i.b + d, reb := satTo 255 (i.reb + 1), lanes := entered i.b i.lanes ps d }
    else
      let d := (2047 - i.b).toNat
      let clip (p : ExactVal) : ExactVal := if p.inBound 2047 then p else match p with
        | .fin n _ _ => .inf n
        | p => p
      let lanes := (entered i.b i.lanes (ps.map fun l => l.map clip) d).map fun l =>
        if l.inBound then l else .special (if l.v < 0 then .negInf else .posInf)
      { i with b := 2047, reb := if d = 0 then i.reb else satTo 255 (i.reb + 1), lanes := lanes }

/-- An image aligned to a higher base exponent (R255). Log entry 27 (DEDUCED). -/
def Image.alignTo (i : Image) (b : Int) : Image :=
  if i.b < b then
    { i with b := b, reb := satTo 255 (i.reb + 1), lanes := i.lanes.map (Lane.rebase (b - i.b).toNat) }
  else i

/-- The sum of two lanes at one base exponent (R255). -/
def Lane.plus (a b : Lane) : Lane :=
  if a.spec == .fin && b.spec == .fin then ⟨a.v + b.v, 0, a.sticky || b.sticky, .fin⟩
  else .special (a.spec.join b.spec)

/-- The sum of two images of one shape (R255, R401). Log entry 27 (DEDUCED). -/
def Image.plus (x y : Image) : Image :=
  let b := max x.b y.b
  let x := x.alignTo b
  let y := y.alignTo b
  let ls := (x.lanes.zip y.lanes).map fun p => p.1.plus p.2
  let r : Image := { b := b, reb := satTo 255 (x.reb + y.reb), chk := 0, lanes := ls, bad := false, fromMem := false }
  if ls.all Lane.inBound then r
  else
    let d := findRebase (fun d => (ls.map (Lane.rebase d)).all Lane.inBound) 4 1
    if b + d ≤ 2047 then { r with b := b + d, reb := satTo 255 (r.reb + 1), lanes := ls.map (Lane.rebase d) }
    else { r with lanes := ls.map fun l => if l.inBound then l else .special (if l.v < 0 then .negInf else .posInf) }

/-- The split of a lane between S and C, a free value within the vectors' range (R262). Log entry 31 (DESIGN CHOICE). -/
def Lane.split (d k : Nat) (l : Lane) : Lane :=
  if l.spec != .fin then { l with c := 0 }
  else
    let lo := max (-(2 ^ 111 : Int)) (l.v - (2 ^ 111 - 1))
    let hi := min ((2 ^ 111 : Int) - 1) (l.v + 2 ^ 111)
    { l with c := lo + (Config.laneSplit d k - lo) % (hi - lo + 1) }

/-- An image as a CSIMG producer emits it: the split is free, and it carries no check word (R261, R262).
Log entry 31 (DESIGN CHOICE). -/
def Image.made (i : Image) (d : Nat) : Image :=
  { i with
    chk := 0
    bad := false
    fromMem := false
    lanes := i.lanes.zipIdx.map fun lk => lk.1.split d lk.2 }

/-- The canonical form (R206). -/
def Image.canonical (i : Image) : Image := { i with chk := 0, lanes := i.lanes.map fun l => { l with c := 0 } }

/-- The exact value of a lane (R250). -/
def Image.value (i : Image) (l : Lane) : ExactVal :=
  match l.spec with
  | .fin => ofUnits l.v (i.b - 56)
  | .posInf => .inf false
  | .negInf => .inf true
  | .nan => .nan

/-- The value a resolve rounds (R259): V, or V plus an amount below every spacing where sticky is set and the mode
is not SR. -/
def Image.rounded (i : Image) (sr : Bool) (l : Lane) : ExactVal :=
  match l.spec with
  | .fin => if l.sticky && !sr then ofUnits (l.v * 2 ^ 4300 + 1) (i.b - 56 - 4300) else ofUnits l.v (i.b - 56)
  | _ => i.value l

/-- The image of a tile (R264). Log entry 28 (DEDUCED). -/
def imageOfTile (vs : List ExactVal) : Image :=
  let b : Int := match vs.foldl (fun a v => maxLead a v.lead) none with
    | some x => max (-2048) (min 2047 (x - 48))
    | none => 0
  { Image.zero vs.length b with lanes := vs.map fun v => Lane.enter b Lane.zero v }

end Sys2Proof.Machine
end

