-- ==== Sys2Proof/Machine/Fabric.lean ====
section
/-! DEFINITION. Arcs, debug halts and the one way an element of an armed context fires (R86-R95, R108-R112). -/

namespace Sys2Proof.Machine

open Host (Outcome)

/-! ## Halt points (R108-R111) -/

/-- Halt point k of a region (R109). -/
def State.halt (s : State) (r k : Nat) : BitVec 32 := (s.seq r).halts.getD k 0xF000

/-- A halt point of a region names an arc, enabled or not (R109). -/
def haltNames (h : BitVec 32) (r : Nat) (a : Arc) : Bool :=
  let w := h.toNat
  let p := (r * 96 + w % 128) * 4 + field w 8 7
  w % 128 < 96 &&
    if h.getLsbD 9 then a.src == p && (field w 15 12 == 15 || field w 15 12 == a.lane) else a.dst == p

/-- An enabled halt point of a region covers an arc (R109). -/
def haltCovers (h : BitVec 32) (r : Nat) (a : Arc) : Bool := h.getLsbD 31 && haltNames h r a

/-- The enabled halt points of a region that cover an arc. -/
def State.haltsOn (s : State) (r : Nat) (a : Arc) : List Nat :=
  if (s.seq r).hen then (List.range 16).filter fun k => haltCovers (s.halt r k) r a else []

/-- The halt points in force on an arc, by their release bits. Log entry 26 (DEDUCED). -/
def State.holds (s : State) (a : Arc) : List Nat :=
  let rc := a.dst / 384
  let rp := a.src / 384
  s.haltsOn rc a ++ (if rp = rc then [] else (s.haltsOn rp a).map (· + 16))

/-- The visible head of an arc (R90, R110, R111). -/
def Arc.head (a : Arc) (holds : List Nat) : Option Token :=
  match a.relReg with
  | some t => some t
  | none =>
    match holds, a.toks with
    | [], f :: _ => if f.vis then some f.tok else none
    | _, _ => none

/-- A token on an arc that no halt point withholds is visible once it has arrived, and no release of it stands any more
(R110). -/
def Flying.seen (f : Flying) : Flying := if f.vis then { f with rel := 0 } else f

/-- A token that every covering halt point has released enters the release register (R111); where none covers the arc,
its tokens are visible (R110). Log entry 26 (DEDUCED). -/
def Arc.settle (a : Arc) (holds : List Nat) : Arc :=
  match holds, a.relReg, a.toks with
  | [], _, _ => { a with toks := a.toks.map Flying.seen }
  | _ :: _, none, f :: rest =>
    if f.vis && holds.all (fun k => f.rel.getLsbD k) then { a with relReg := some f.tok, toks := rest } else a
  | _, _, _ => a

/-- The tokens of an arc that the halt point with a release bit withholds. -/
def Arc.withheld (a : Arc) (bit : Nat) : List Token := (a.toks.filter fun f => !f.rel.getLsbD bit).map (·.tok)

/-- The release bit of halt point k of a region on an arc. -/
def relBit (r k : Nat) (a : Arc) : Nat := if a.dst / 384 = r then k else 16 + k

/-- The arcs of the context armed in a region. -/
def State.arcsOf (s : State) (r : Nat) : List Arc :=
  match (s.region r).armed.bind fun c => s.ctxs.find? c with
  | some c => c.arcs
  | none => []

/-- The tokens halt point k of a region withholds, oldest of each arc first. -/
def State.heldBy (s : State) (r k : Nat) : List Token :=
  (s.arcsOf r).flatMap fun a => if haltCovers (s.halt r k) r a then a.withheld (relBit r k a) else []

/-- HELD of a region (R108). -/
def State.heldMask (s : State) (r : Nat) : BitVec 16 :=
  if (s.seq r).hen then
    (List.range 16).foldl (fun m k => if (s.heldBy r k).isEmpty then m else m ||| (1 <<< k)) 0
  else 0

/-- HELD bits that rise set LASTHIT and the latch, and ask for DBGHALT (R108, R112, R145).
Log entries 26 (DEDUCED), 122 (DESIGN CHOICE). -/
def State.refreshHeld (s : State) (r : Nat) : State :=
  let held := s.heldMask r
  let x := s.seq r
  let rise := held &&& ~~~ x.heldPrev
  let x := { x with heldPrev := held }
  match (List.range 16).find? (fun k => rise.getLsbD k) with
  | none => if held = (s.seq r).heldPrev then s else s.setSeq r x
  | some k =>
    let chn := match s.heldBy r k with
      | t :: _ => hChn t.hdr
      | [] => 0
    s.setSeq r { x.setLatch 0x800 with
      lasthit := BitVec.ofNat 4 k
      asyncDbg := if x.htrap then x.asyncDbg ++ [wd (k + 256 * chn)] else x.asyncDbg }

/-- The arcs of a context settle under the halt points in force, and HELD follows. -/
def State.refreshHalts (s : State) (c : Nat) : State :=
  match s.ctxs.find? c with
  | none => s
  | some x =>
    if (x.regions.any fun r => (s.seq r).hen || (s.seq r).heldPrev != 0) ||
        x.arcs.any fun a => a.toks.any fun f => f.rel != 0 then
      let s := { s with ctxs := s.ctxs.put c { x with arcs := x.arcs.map fun a => a.settle (s.holds a) } }
      x.regions.foldl State.refreshHeld s
    else s

/-! ## Receipt (R23, R270) -/

/-- The data input of a flow element (R270). -/
def flowInput (c : SiteCfg) (i : Nat) : Bool :=
  match c.kind, c.op with
  | 3, _ => i = 0
  | 4, 1 => i = 1 || i = 2
  | 4, _ => true
  | 5, 1 => i = 0 || i = 2
  | 5, _ => i = 0
  | 6, 1 => i = 0
  | 6, 2 => i = 0
  | 9, _ => i = 0
  | 0, 0x51 => i = 0
  | _, _ => false

/-- An input that takes images (R203, R270). -/
def imageInput (c : SiteCfg) (i : Nat) : Bool :=
  match c.kind, c.op with
  | 0, 0x40 => i = 2
  | 0, 0x41 => i = 1
  | 0, 0x43 | 0, 0x44 | 0, 0x45 | 0, 0x46 | 0, 0x47 => i = 0
  | 0, 0x48 => i ≤ 1
  | 8, 1 => true
  | 1, 1 | 1, 5 | 2, 3 | 10, 2 => i = 0
  | _, _ => false

/-- A token that its consumer poisons on receipt (R23, R24, R270).  A data token whose FMT is NONE or ANY is one.
Log entry 103 (DESIGN CHOICE). -/
def malformed (c : SiteCfg) (i : Nat) (t : Token) : Bool :=
  let f := t.fmt
  let want := c.ifmt.getD i 0
  reservedKind t.hdr || !isListed f || hScl t.hdr != isMx f ||
    (isMx f && t.cols != 32) ||
    t.isData &&
      (f = 0 || f = fmtANY ||
        (want != fmtANY && f != want && !(isImg f && isImg want)) ||
        (!flowInput c i && isImg f &&
          (!imageInput c i || match t.body with
            | .image im => im.fromMem && !(c.kind = 0 && c.op = 0x47)
            | _ => false)))

/-- A token as its consumer takes it. Log entry 43 (DEDUCED). -/
def received (c : SiteCfg) (i : Nat) (t : Token) : Token := if malformed c i t then t.poison else t

/-! ## Firings -/

/-- The key of a site, and of a port of it. -/
def siteKey (r site : Nat) : Nat := r * 96 + site

/-- An input is used when its ISEL names a source (R26). -/
def SiteCfg.uses (c : SiteCfg) (i : Nat) : Bool := c.isel.getD i 15 != 15

/-- The used inputs, and the outputs with slots. -/
def SiteCfg.inputs (c : SiteCfg) : List Nat := (List.range 4).filter c.uses
def SiteCfg.outputs (c : SiteCfg) : List Nat := (List.range 4).filter fun o => c.oslot.getD o 0 != 0

/-- An element with no used input is an ingress element (R357). -/
def SiteCfg.ingress (c : SiteCfg) : Bool := c.inputs.isEmpty && !c.outputs.isEmpty

def SiteCfg.par (c : SiteCfg) (i : Nat) : Nat := (c.p.getD i 0).toNat
def SiteCfg.modeBit (c : SiteCfg) (i : Nat) : Bool := c.mode.testBit (i - 12)

/-- A fault-log entry of a firing: code, the header of the token concerned, ADDR and AUX (R178). -/
structure LogRec where
  code : Nat
  hdr : Word
  addr : Word
  aux : Word

/-- A firing (R90): what it consumes and emits, the element after it, what it logs, its energy in tenths of a pJ at
0.75 V, and what it does outside the fabric. -/
structure Firing where
  consume : List Nat
  emits : List (Nat × Token)
  el : Elem
  logs : List LogRec
  tenths : Nat
  post : State → State

/-- A firing that only moves tokens. -/
def Firing.of (consume : List Nat) (emits : List (Nat × Token)) (el : Elem) (tenths : Nat) : Firing :=
  ⟨consume, emits, el, [], tenths, id⟩

def Firing.logging (f : Firing) (ls : List LogRec) : Firing := { f with logs := f.logs ++ ls }

/-- An entry for a token poisoned by an element's own check (R178, code 0x02). -/
def Elem.ownCheck (el : Elem) (t : Token) : LogRec := ⟨0x02, t.hdr, t.hdr, wd (el.cfg.op + 256 * el.cfg.kind)⟩

/-- A firing that emits one token on one output, logged where the element poisons it itself. -/
def Elem.emit1 (el : Elem) (consume : List Nat) (o : Nat) (t : Token) (own : Bool) (tenths : Nat) : Firing :=
  if own then (Firing.of consume [(o, t.poison)] el tenths).logging [el.ownCheck t.poison]
  else Firing.of consume [(o, t)] el tenths

/-- An arc has no slot for a further token (R87, R88): none is free, or tokens that were parked at its input wait for one
(R360). -/
def Arc.full (a : Arc) : Bool := a.cap ≤ a.toks.length || !a.back.isEmpty

/-- An output may take a token: each of its arcs has a free slot, and a demand output its requests (R87, R94). -/
def Ctx.room (c : Ctx) (key o : Nat) (needReq : Bool) : Bool :=
  c.arcs.all fun a => a.src != key * 4 + o || (!a.full && (!a.demand || !needReq || a.req != 0))

/-- The visible head of an input (R90). -/
def State.headOf (s : State) (c : Ctx) (key i : Nat) : Option Token :=
  match List.find? (fun a : Arc => a.dst == key * 4 + i) c.arcs with
  | none => none
  | some a => a.head (s.holds a)

/-- A free slot of an arc goes to the next of the tokens that were parked at its input (R88, R360).
Log entry 71 (DEDUCED). -/
def Arc.refill (a : Arc) : Arc :=
  match a.back with
  | t :: rest => if a.toks.length < a.cap then { a with toks := a.toks ++ [⟨t, true, 0⟩], back := rest } else a
  | [] => a

/-- The requests on their way once a consumer has taken a token: one more on a demand arc, but for a WEIR or SLUICE, which
used none, and where the slot goes to a parked token, which has used its own (R94, R357). Log entry 71 (DEDUCED). -/
def Arc.requests (a : Arc) (t : Token) : Nat := if a.demand && !t.closed && a.back.isEmpty then a.reqFly + 1 else a.reqFly

/-- The token an arc loses when its consumer takes its head (R88, R94). -/
def Arc.consume (a : Arc) : Arc :=
  match a.relReg, a.toks with
  | some t, _ => { a with relReg := none, reqFly := a.requests t }.refill
  | none, f :: rest => { a with toks := rest, reqFly := a.requests f.tok }.refill
  | none, [] => a

/-- A token appended to an arc; an emission on a demand arc uses one request, but for WEIR and SLUICE (R94, R357). -/
def Arc.append (a : Arc) (t : Token) : Arc :=
  { a with toks := a.toks ++ [⟨t, false, 0⟩], req := if a.demand && !t.closed then a.req - 1 else a.req }

/-- The energy a region counts for a firing: tenths of a pJ scaled by (V / 0.75)^2 (R395). Log entry 25 (DEDUCED). -/
def State.countFiring (s : State) (r tenths : Nat) : State :=
  let v := (s.region r).vcur
  s.addEnergy 0 r (tenths * (22 + v) * (22 + v))

/-- A movement in a region (R114). -/
def State.moved (s : State) (r : Nat) : State := s.updRegion r fun x => { x with lastMove := s.now }

/-- The elements of a region may fire: it is not frozen and its power is on (R115, R390). Log entry 57 (DEDUCED). -/
def State.canMove (s : State) (r : Nat) : Bool := !(s.seq r).frozen && !(s.region r).gated && s.group (groupOf r) != .gated

/-- The context and the element armed at a site. -/
def State.elemAt (s : State) (r site : Nat) : Option (Nat × Ctx × Elem) :=
  match (s.region r).armed with
  | none => none
  | some c =>
    match s.ctxs.find? c with
    | none => none
    | some x =>
      match x.elems.find? (siteKey r site) with
      | none => none
      | some el => some (c, x, el)

/-! ## The classes of FENCE (R276, R277) -/

/-- A flow, repeat, rate-match or TXCH element. -/
def SiteCfg.carries (c : SiteCfg) : Bool :=
  c.kind = 3 || c.kind = 4 || c.kind = 5 || c.kind = 7 || (c.kind = 6 && c.op ≤ 2) || (c.kind = 0 && c.op = 0x51)

/-- From an element on, along arcs taken by `next` and through carrying elements only, one that meets a test is reached. -/
def Ctx.reaches (c : Ctx) (next : Nat → List Nat) (p : SiteCfg → Bool) : Nat → List Nat → Bool
  | 0, _ => false
  | f + 1, keys =>
    let step := (keys.flatMap next).eraseDups
    let cfgs := step.filterMap fun k => (c.elems.find? k).map fun el => (k, el.cfg)
    cfgs.any (fun x => p x.2) || (!step.isEmpty && c.reaches next p f ((cfgs.filter fun x => x.2.carries).map (·.1)))

/-- The element reads or writes memory or its node: every address generator reads its descriptor (R222). -/
def SiteCfg.readsMem (c : SiteCfg) : Bool :=
  c.kind = 2 || (c.kind = 1 && (c.op = 2 || c.op = 3 || c.op = 4 || c.op = 6))
def SiteCfg.writesMem (c : SiteCfg) : Bool :=
  (c.kind = 2 && (c.op = 3 || c.op = 5 || c.op = 6)) || (c.kind = 1 && c.op ≤ 5)

/-- Its reads are of class MR: it is an AGLD, an AGGAT or a memory node, and its output reaches an MMA or SYSM (R276).
Log entry 45 (DEDUCED). -/
def Ctx.readClass (c : Ctx) (key : Nat) (cfg : SiteCfg) : Nat :=
  if (cfg.kind = 1 || cfg.op = 2 || cfg.op = 4) &&
      c.reaches (fun k => (c.arcs.filter fun a => a.src / 4 == k).map (·.dst / 4))
        (fun x => x.kind = 0 && (x.op = 0x40 || x.op = 0x41)) (c.elems.length + 1) [key] then 6 else 2

/-- Its writes are of class MW: it is fed from MMA, SYSM, RES, RESN or ASTR (R276). Log entry 45 (DEDUCED). -/
def Ctx.writeClass (c : Ctx) (key : Nat) (cfg : SiteCfg) : Nat :=
  if !(cfg.kind = 2 && cfg.op = 6) &&
      c.reaches (fun k => (c.arcs.filter fun a => a.dst / 4 == k).map (·.src / 4))
        (fun x => x.kind = 0 && (x.op = 0x40 || x.op = 0x41 || x.op = 0x43 || x.op = 0x44 || x.op = 0x46))
        (c.elems.length + 1) [key] then 7 else 3

/-- The successor mask of the FENCE that sequencer q waits in (R277). -/
def Seq.fenceHolds (x : Seq) : BitVec 8 :=
  match x.cond with
  | .commit (⟨_, _, .fence _ _ succ⟩ :: _) _ => succ
  | _ => 0

/-- The reads that an element has issued and that are not performed: its descriptor's, or the one it is stalled on (R222,
R225). Log entry 45 (DEDUCED). -/
def Elem.readsDue (el : Elem) : Nat :=
  if el.cfg.kind = 2 && (el.desc == .fetching || (el.stall.isSome && el.wq.isEmpty)) then 1 else 0

/-- The writes of that kind: those in its queue, and that of an AGATM which is stalled on its read (R225, R289).
Log entry 45 (DEDUCED). -/
def Elem.writesDue (el : Elem) : Nat :=
  el.wq.length + if el.cfg.kind = 2 && el.cfg.op = 6 && el.desc != .fetching && el.stall.isSome then 1 else 0

/-- The next read, or write, of an element had been issued when the commit began that waits in a FENCE of sequencer q.
Log entry 45 (DEDUCED). -/
def Seq.issuedBefore (x : Seq) (cid key : Nat) (el : Elem) (write : Bool) : Bool :=
  match x.cond with
  | .commit _ began => began.any fun i => i.ctx == cid && i.elem == key &&
      if write then el.wdone + el.wq.length < i.writes else el.rdone < i.reads
  | _ => false

/-- The FENCEs under way in the regions of a context keep an element from issuing reads, or writes (R277). -/
def State.fenced (s : State) (cid : Nat) (c : Ctx) (key : Nat) (el : Elem) (write : Bool) : Bool :=
  c.regions.any fun r =>
    let x := s.seq r
    x.fenceHolds != 0 && x.fenceHolds.getLsbD (if write then c.writeClass key el.cfg else c.readClass key el.cfg) &&
      !x.issuedBefore cid key el write

/-- A firing of an element issues accesses that a FENCE holds: the firing of a memory node or of a writing AG.  Reads of
an AG are held where they are made. -/
def State.fireFenced (s : State) (cid : Nat) (c : Ctx) (key : Nat) (el : Elem) : Bool :=
  (el.cfg.writesMem && s.fenced cid c key el true) ||
    (el.cfg.readsMem && (el.cfg.kind = 1 || el.cfg.op = 6) && s.fenced cid c key el false)

/-- The events of one firing enter the log of its region. -/
def State.logAll (s : State) (r site : Nat) (ls : List LogRec) : State :=
  ls.foldl (fun s l => s.log r (some site) l.code l.hdr l.addr l.aux) s

/-- The chainage distance of R68. -/
def chnDist (a n : Nat) : Nat := (a + 2 ^ 24 - n % 2 ^ 24) % 2 ^ 24

/-- The key of a header in an order of tokens (R104): its distance from a reference chainage, then its SRCID. -/
def chnKey (n : Nat) (h : Word) : Nat := chnDist (hChn h) n * 256 + hSrc h

/-- An entry takes its place in an ordered list, after those of the same key. -/
def LogRec.insert (n : Nat) (l : LogRec) : List LogRec → List LogRec
  | [] => [l]
  | m :: t => if chnKey n l.hdr < chnKey n m.hdr then l :: m :: t else m :: LogRec.insert n l t

/-- The entries of one firing in the order of R104: chainage distance, SRCID, and the order of inputs, in which they are
given.  The reference is the element's own chainage counter. Log entry 91 (DESIGN CHOICE). -/
def orderLogs (n : Nat) (ls : List LogRec) : List LogRec := ls.foldl (fun acc l => l.insert n acc) []

/-- Consumed heads that were poisoned on receipt are logged (R23), by ascending input (R104). -/
def State.receiptLogs (s : State) (c : Ctx) (el : Elem) (key : Nat) (ins : List Nat) : List LogRec :=
  ((List.range 4).filter ins.contains).flatMap fun i =>
    match s.headOf c key i with
    | some t => if malformed el.cfg i t then [⟨0x01, t.hdr, t.hdr, 0⟩] else []
    | none => []

/-- An MMA or SYSM, which keeps a tile counter (R201). -/
def SiteCfg.counts (c : SiteCfg) : Bool := c.kind = 0 && (c.op = 0x40 || c.op = 0x41)

/-- The regions that RMASK of a section record names (R227). -/
def sectionRegions (d : List Word) : List Nat :=
  (List.range 96).filter fun r => if r < 64 then (d.getD 2 0).getLsbD r else (d.getD 3 0).getLsbD (r - 64)

/-- The writes that the elements of some regions have issued: context, element, and the number performed once they all
are. -/
def State.issuedIn (s : State) (rs : List Nat) : List (Nat × Nat × Nat) :=
  s.ctxs.flatMap fun kc => (kc.2.elems.filter fun ke => rs.contains (ke.1 / 96)).map fun ke =>
    (kc.1, ke.1, ke.2.wdone + ke.2.wq.length)

/-- A counted element of a region has expired: a section that counts it waits for what its regions have issued by now
(R227, R228). -/
def State.noteExpiry (s : State) (r : Nat) : State :=
  { s with races := s.races.map fun kh =>
      (kh.1, if (kh.2.loaded || kh.2.waiting) && (sectionRegions kh.2.data).contains r then
        { kh.2 with goals := s.issuedIn (sectionRegions kh.2.data) }
      else kh.2) }

/-- Every token is gone from a context's arcs. -/
def Ctx.empty (c : Ctx) : Bool := c.arcs.all fun a => a.toks.isEmpty && a.relReg.isNone && a.back.isEmpty

/-- An element has ports. -/
def Elem.hasPorts (el : Elem) : Bool := !el.cfg.inputs.isEmpty || !el.cfg.outputs.isEmpty

/-- The two conditions of phase end. Log entry 69 (DEDUCED). -/
def Ctx.phaseOver (c : Ctx) : Bool :=
  let ends := c.elems.filter fun ke => ke.2.cfg.outputs.isEmpty && ke.2.hasPorts
  !ends.isEmpty && ends.all (fun ke => ke.2.lsSeen) && c.empty

/-- A firing takes place (R90); a phase that has ended has begun anew where it leaves a token (R355).
Log entry 69 (DEDUCED). -/
def State.applyFiring (s : State) (r site cid : Nat) (c : Ctx) (el : Elem) (f : Firing) : State :=
  let key := siteKey r site
  let logs := s.receiptLogs c el key f.consume
  let ls := (f.consume.any fun i => (s.headOf c key i).any fun t => t.isData && t.ls) ||
    (el.cfg.ingress && f.emits.any fun ot => ot.2.isData && ot.2.ls)
  let arcs := c.arcs.map fun a => if f.consume.any (fun i => a.dst == key * 4 + i) then a.consume else a
  let arcs := f.emits.foldl (fun as ot => as.map fun a => if a.src == key * 4 + ot.1 then a.append ot.2 else a) arcs
  let el' := { f.el with lsSeen := f.el.lsSeen || ls }
  let c := { c with arcs := arcs, elems := c.elems.put key el' }
  let s := { s with ctxs := s.ctxs.put cid { c with ended := c.ended && c.phaseOver } }
  let s := (s.countFiring r f.tenths).moved r
  let s := ((f.post s).logAll r site (orderLogs el.chn (logs ++ f.logs))).refreshHalts cid
  if f.el.expired && !el.expired && el.cfg.counts then s.noteExpiry r else s

/-- An ingress element of a draining or saved context fires no more; an INGRQ first empties the entries that stand
ahead of the WEIR, which its cnt counts (R59, R342, R357). -/
def Elem.closing (el : Elem) : CtxMode → Bool
  | .run => false
  | .save => true
  | .drain => !(el.cfg.kind = 10 && el.cfg.op = 3 && el.cnt > 0)

/-- The element at the site in focus, of a kind and an opcode, takes the first of the firings its entry gives that is
enabled (R90).  Where none is, it waits, and nothing changes. -/
def State.fireElem (s : State) (kind op : Nat) (g : Elem → (Nat → Option Token) → List Firing) :
    Outcome State Fault Refusal :=
  let r := s.site.r
  match s.elemAt r s.site.s with
  | none => .next s
  | some (cid, c, el) =>
    let key := siteKey r s.site.s
    if el.cfg.kind != kind || el.cfg.op != op || !s.canMove r || el.passage != .open || s.fireFenced cid c key el ||
        (el.cfg.ingress && ((s.region r).millpond.isSome || el.closing c.mode)) then .next s
    else
      let fs := g el fun i => (s.headOf c key i).map (received el.cfg i)
      match List.find? (fun f : Firing => f.emits.all fun ot => c.room key ot.1 (!ot.2.closed)) fs with
      | none => .next s
      | some f => .next (s.applyFiring r s.site.s cid c el f)

/-- The data token at the head of an input. -/
def dataHead (h : Nat → Option Token) (i : Nat) : Option Token :=
  match h i with
  | some t => if t.isData then some t else none
  | none => none

/-! ## Passage of tokens (R89, R90, R94, R95) -/

/-- The index of the arc that ends at a port. -/
def Ctx.arcTo (c : Ctx) (dst : Nat) : Option Arc := List.find? (fun a : Arc => a.dst == dst) c.arcs

/-- One arc takes another's place. -/
def Ctx.setArc (c : Ctx) (a : Arc) : Ctx := { c with arcs := c.arcs.map fun b => if b.dst == a.dst then a else b }

/-- The oldest token on its way arrives. -/
def arriveFirst : List Flying → List Flying
  | [] => []
  | f :: t => if f.vis then f :: arriveFirst t else { f with vis := true } :: t

/-- A hop of an arc lies in a frozen region (R115). Log entry 44 (DESIGN CHOICE). -/
def State.arcFrozen (s : State) (a : Arc) : Bool :=
  (a.src / 384 :: a.dst / 384 :: a.via).any fun r => (s.seq r).frozen

/-- TOKEN_VISIBLE (R89, R90): the oldest token on its way along an arc becomes visible at its consumer; each hop counts
0.6 pJ a beat, each die boundary 0.35 pJ a byte (R395), and is a movement in every region that the arc passes (R114);
none moves while one of them is frozen (R115). Log entries 25 (DEDUCED), 44 (DESIGN CHOICE). -/
def execTokenVisible (p : Port) (s : State) : Outcome State Fault Refusal :=
  match (s.region p.r).armed with
  | none => .next s
  | some cid =>
    match s.ctxs.find? cid with
    | none => .next s
    | some c =>
      match c.arcTo (p.r * 384 + p.p) with
      | none => .next s
      | some a =>
        match List.find? (fun f : Flying => !f.vis) a.toks with
        | none => .next s
        | some f =>
          if s.arcFrozen a then .next s
          else
            let beats := f.tok.beats + 1
            let s := { s with ctxs := s.ctxs.put cid (c.setArc { a with toks := arriveFirst a.toks }) }
            let s := (a.src / 384 :: p.r :: a.via).foldl State.moved (s.addEnergy 0 p.r (6 * beats * a.hops * 900))
            let s := a.cross.foldl (fun s b => s.addEnergy 3 b (beats * 64 * 3150)) s
            .next (s.refreshHalts cid)

/-- REQUEST_ARRIVAL (R94): a request reaches the producer of a demand arc.  It is no movement of R114.
Log entry 58 (DEDUCED). -/
def execRequestArrival (p : Port) (s : State) : Outcome State Fault Refusal :=
  match (s.region p.r).armed with
  | none => .next s
  | some cid =>
    match s.ctxs.find? cid with
    | none => .next s
    | some c =>
      match c.arcTo (p.r * 384 + p.p) with
      | none => .next s
      | some a =>
        if a.reqFly = 0 || s.arcFrozen a || !s.canMove p.r then .next s
        else .next { s with ctxs := s.ctxs.put cid (c.setArc { a with req := a.req + 1, reqFly := a.reqFly - 1 }) }

/-- An input names a treatment of XCH (R95). Log entry 21 (DEDUCED). -/
def takesXch (c : SiteCfg) (i : Nat) : Bool :=
  match c.kind, c.op with
  | 0, 0x40 | 0, 0x50 | 0, 0x52 => i ≤ 1
  | 0, 0x41 => i = 0 || i = 2
  | 0, 0x51 => i = 0
  | 6, 1 | 6, 2 | 7, 1 | 9, 2 => i = 0
  | 2, 2 => i = 0 && c.modeBit 13
  | 10, 2 | 1, 2 | 1, 3 | 1, 4 => i = 0
  | _, _ => false

/-- An input that names a treatment of REQ: FAN replicates it (R95, R217). Log entry 42 (DEDUCED). -/
def takesReq (c : SiteCfg) : Bool := c.kind = 9

/-- STRAY_CONTROL_DISCARD (R62, R95): an XCH or REQ at an input with no treatment for it is consumed and logged.
Log entry 21 (DEDUCED). -/
def execStrayControlDiscard (p : Port) (s : State) : Outcome State Fault Refusal :=
  match s.elemAt p.r (p.p / 4) with
  | none => .next s
  | some (cid, c, el) =>
    match s.headOf c (siteKey p.r (p.p / 4)) (p.p % 4) with
    | none => .next s
    | some t =>
      let stray := match t.kind with
        | .xch => !takesXch el.cfg (p.p % 4)
        | .req => !takesReq el.cfg
        | _ => false
      if !stray || !s.canMove p.r then .next s
      else
        .next (s.applyFiring p.r (p.p / 4) cid c el
          ((Firing.of [p.p % 4] [] el 0).logging [⟨0x03, t.hdr, t.hdr, 0⟩]))

end Sys2Proof.Machine
end

