-- ==== Sys2Proof/Machine/Access.lean ====
section
/-! DEFINITION. Accesses to runs of device memory by elements and engines (R299, R305-R308, R340). -/

namespace Sys2Proof.Machine

open Host (Outcome)

/-- Why a run of bytes cannot be accessed now: an entry awaited, or a failure at an address. -/
inductive RunErr where
  | wait
  | fail (e : AccErr) (va : Nat)
  deriving DecidableEq, Repr

/-- A run of bytes cut where a 512 KiB page ends. Log entry 60 (DEDUCED). -/
def cutRun (va : Nat) : Nat → Nat → List (Nat × Nat)
  | 0, _ => []
  | f + 1, n =>
    let k := 0x80000 - va % 0x80000
    if n = 0 then [] else if n ≤ k then [(va, n)] else (va, k) :: cutRun (va + k) f (n - k)

/-- A physical run cut where an MN's window ends. -/
def cutWindow (pa : Nat) : Nat → Nat → List (Nat × Nat)
  | 0, _ => []
  | f + 1, n =>
    let k := 0x20000 - pa % 0x20000
    if n = 0 then [] else if inHbm pa || n ≤ k then [(pa, n)] else (pa, k) :: cutWindow (pa + k) f (n - k)

/-- The entries of a BUFW element that a read meets are full (R299). -/
def State.bufwReady (s : State) (c site e e' : Nat) : Bool :=
  match (s.ctxs.find? c).bind fun x => x.elems.find? site with
  | some el => (List.range (e' + 1 - e)).all fun k => el.entryFull (e + k)
  | none => true

/-- The checks of one physical run (R298, R299, R340). Log entry 60 (DEDUCED). -/
def State.checkPhys (s : State) (write : Bool) (va pa n : Nat) : Except RunErr Unit :=
  if !(inMap pa && inMap (pa + n - 1)) then .error (.fail .violation va)
  else
    match s.windowAt pa n write with
    | .violation => .error (.fail .violation va)
    | .bufw c site e e' =>
      if !s.bufwReady c site e e' then .error .wait else if s.poisoned pa n then .error (.fail .ecc va) else .ok ()
    | .plain => if !write && s.poisoned pa n then .error (.fail .ecc va) else .ok ()

/-- The physical pieces of a virtual run, checked in order (R153, R308). Log entry 60 (DEDUCED). -/
def State.resolveRun (s : State) (tr : Perm → Nat → Except AccErr Nat) (perm : Perm) :
    List (Nat × Nat) → Except RunErr (List (Nat × Nat))
  | [] => .ok []
  | (va, n) :: rest =>
    match tr perm va with
    | .error e => .error (.fail e va)
    | .ok pa =>
      let ps := cutWindow pa 8 n
      match ps.findSome? fun p =>
          match s.checkPhys (perm != .read && perm != .fetch) (va + (p.1 - pa)) p.1 p.2 with
          | .error e => some e
          | .ok _ => none with
      | some e => .error e
      | none =>
        match s.resolveRun tr perm rest with
        | .error e => .error e
        | .ok more => .ok (ps ++ more)

/-- The pieces of a run of n bytes at a virtual address. -/
def State.runAt (s : State) (tr : Perm → Nat → Except AccErr Nat) (perm : Perm) (va n : Nat) :
    Except RunErr (List (Nat × Nat)) :=
  s.resolveRun tr perm (cutRun va (n / 0x80000 + 2) n)

/-- The bytes of physical pieces. -/
def State.loadRuns (s : State) (ps : List (Nat × Nat)) : List Byte := ps.flatMap fun p => s.load p.1 p.2

/-- A read that has been performed empties each BUFW entry whose last byte it covers (R299). -/
def State.emptyEntry (s : State) (pa n : Nat) : State :=
  match s.windowAt pa n false with
  | .bufw c site _ _ =>
    s.updCtx c fun x =>
      match x.elems.find? site with
      | none => x
      | some el =>
        let b := el.cfg.par 0
        let k := el.cfg.par 1
        let off := pa % 0x20000
        let cnt := (List.range (el.cfg.par 2)).foldl (fun m e =>
          let last := b + e * k + k - 1
          if off ≤ last && last < off + n && m.testBit e then m - 2 ^ e else m) el.cnt
        { x with elems := x.elems.put site { el with cnt := cnt } }
  | _ => s

/-- Physical pieces have been read: HBM4 granules are counted and BUFW entries emptied. -/
def State.readDone (s : State) (ps : List (Nat × Nat)) : State :=
  ps.foldl (fun s p => (s.emptyEntry p.1 p.2).countHbm p.1 p.2) s

/-- Bytes are written over physical pieces. -/
def State.storeRuns (s : State) : List (Nat × Nat) → List Byte → State
  | [], _ => s
  | p :: ps, bs => State.storeRuns ((s.store p.1 (bs.take p.2)).countHbm p.1 p.2) ps (bs.drop p.2)

/-- The translation of a region's accesses (R305), and of physical ones (R180). -/
def State.regionTr (s : State) (r : Nat) : Perm → Nat → Except AccErr Nat := s.translate (s.partOf r)
def State.physTr (_ : State) : Perm → Nat → Except AccErr Nat := fun _ a => if inMap a then .ok a else .error .violation

/-- Several runs of bytes read as one access: the bytes, and the pieces. -/
def State.readRuns (s : State) (tr : Perm → Nat → Except AccErr Nat) :
    List (Nat × Nat) → Except RunErr (List (Nat × Nat))
  | [] => .ok []
  | (va, n) :: rest =>
    match s.runAt tr .read va n, s.readRuns tr rest with
    | .error e, _ => .error e
    | _, .error e => .error e
    | .ok a, .ok b => .ok (a ++ b)

/-- Several runs of bytes checked for writing as one access. -/
def State.writeRuns (s : State) (tr : Perm → Nat → Except AccErr Nat) :
    List (Nat × Nat) → Except RunErr (List (Nat × Nat))
  | [] => .ok []
  | (va, n) :: rest =>
    match s.runAt tr .write va n, s.writeRuns tr rest with
    | .error e, _ => .error e
    | _, .error e => .error e
    | .ok a, .ok b => .ok (a ++ b)

/-- One run of bytes read: its bytes, and the state once the read is performed. -/
def State.readAt (s : State) (tr : Perm → Nat → Except AccErr Nat) (va n : Nat) : Except RunErr (List Byte × State) :=
  match s.runAt tr .read va n with
  | .error e => .error e
  | .ok ps => .ok (s.loadRuns ps, s.readDone ps)

/-- One run of bytes written. -/
def State.writeAt (s : State) (tr : Perm → Nat → Except AccErr Nat) (va : Nat) (bs : List Byte) : Except RunErr State :=
  match s.runAt tr .write va bs.length with
  | .error e => .error e
  | .ok ps => .ok (s.storeRuns ps bs)

/-- The walks of several runs are counted (R395). -/
def State.walked (s : State) (vas : List Nat) : State := vas.foldl State.countWalk s

/-- One run of bytes read or written through translation tables: its walk is counted (R395). Log entry 60 (DEDUCED). -/
def State.readVia (s : State) (tr : Perm → Nat → Except AccErr Nat) (va n : Nat) : Except RunErr (List Byte × State) :=
  match s.readAt tr va n with
  | .error e => .error e
  | .ok (bs, t) => .ok (bs, t.countWalk va)

/-- A translated write, with the walk of its tables counted. Log entry 60 (DEDUCED). -/
def State.writeVia (s : State) (tr : Perm → Nat → Except AccErr Nat) (va : Nat) (bs : List Byte) : Except RunErr State :=
  match s.writeAt tr va bs with
  | .error e => .error e
  | .ok t => .ok (t.countWalk va)

end Sys2Proof.Machine
end

