-- ==== Sys2Proof/Machine/Trans.lean ====
section
/-! DEFINITION. The transcendental functions, correctly rounded (R187).  A result that is not exact is computed to
2^-680 and more, far beyond the distance of any such result from a midpoint of F16, BF16 or F32, and carries a last
bit that says so; the exact results are told apart first. -/

namespace Sys2Proof.Machine

/-- The binary point of the fixed-point numbers. -/
def fixP : Nat := 700

/-- Sum of z^(2k+1) / (2k+1) from a term p = z^(2k+1) on, z2 = z * z. -/
def atanhAux (z2 : Nat) : Nat → Nat → Nat → Nat
  | 0, _, _ => 0
  | f + 1, k, p => if p = 0 then 0 else p / (2 * k + 1) + atanhAux z2 f (k + 1) (p * z2 / 2 ^ fixP)

/-- 2 atanh(num / den), which is ln((den + num) / (den - num)). -/
def lnRatio (num den : Nat) : Nat :=
  let z := num * 2 ^ fixP / den
  2 * atanhAux (z * z / 2 ^ fixP) 400 0 z

/-- ln 2. -/
def ln2Fix : Nat := lnRatio 1 3

/-- Sum of x^n / n! from a term t on. -/
def expAux (x : Nat) : Nat → Nat → Nat → Nat
  | 0, _, _ => 0
  | f + 1, n, t => if t = 0 then 0 else t + expAux x f (n + 1) (t * x / 2 ^ fixP / (n + 1))

/-- e^x for 0 ≤ x < 1, in fixed point. -/
def expFix (x : Nat) : Nat := expAux x 300 0 (2 ^ fixP)

/-- A number that stands for m * 2^e and a little more. -/
def inexact (neg : Bool) (m : Nat) (e : Int) : ExactVal := .fin neg (2 * m + 1) (e - 1)

/-- m * 2^e in fixed point, for e not below -fixP. -/
def toFix (m : Nat) (e : Int) : Nat := m * 2 ^ (e + fixP).toNat

/-- The integer part of |m * 2^e|. -/
def absFloor (m : Nat) (e : Int) : Nat := if 0 ≤ e then m * 2 ^ e.toNat else m / 2 ^ (-e).toNat

/-- 2^a. -/
def exp2Of : ExactVal → ExactVal
  | .nan => .nan
  | .inf true => .fin false 0 0
  | .inf false => .inf false
  | .fin neg m e =>
    if m = 0 then .fin false 1 0
    else if absFloor m e ≥ 4096 then .fin false 1 (if neg then -4096 else 4096)
    else
      let x : Int := if neg then -(toFix m e : Int) else toFix m e
      let n := x / (2 ^ fixP : Nat)
      let f := (x % (2 ^ fixP : Nat)).toNat
      if f = 0 then .fin false 1 n else inexact false (expFix (f * ln2Fix / 2 ^ fixP)) (n - fixP)

/-- log2 a. -/
def log2Of : ExactVal → ExactVal
  | .nan => .nan
  | .inf true => .nan
  | .inf false => .inf false
  | .fin neg m e =>
    if m = 0 then .inf true
    else if neg then .nan
    else
      let k := m.log2
      let n := e + k
      if m = 2 ^ k then .fin (n < 0) n.natAbs 0
      else
        let l := lnRatio (m - 2 ^ k) (m + 2 ^ k) * 2 ^ fixP / ln2Fix
        let v : Int := 2 * (n * (2 ^ fixP : Nat) + l) + 1
        ofUnits v (-(fixP : Int) - 1)

/-- 1 / a. -/
def rcpOf (a : ExactVal) : ExactVal := ExactVal.div (.fin false 1 0) a

/-- 1 / sqrt a. -/
def rsqOf : ExactVal → ExactVal
  | .nan => .nan
  | .inf true => .nan
  | .inf false => .fin false 0 0
  | .fin neg m e =>
    if m = 0 then .inf neg
    else if neg then .nan
    else
      let (m, e) := if e % 2 = 0 then (m, e) else (2 * m, e - 1)
      let r := isqrt (2 ^ 600 / m)
      .fin false (2 * r + (if r * r * m = 2 ^ 600 then 0 else 1)) (-(e / 2) - 301)

/-- e^x for a fixed-point x. -/
def expWide (x : Nat) : Nat := expFix (x % ln2Fix) * 2 ^ (x / ln2Fix)

/-- tanh a. -/
def tanhOf : ExactVal → ExactVal
  | .nan => .nan
  | .inf neg => .fin neg 1 0
  | .fin neg m e =>
    if m = 0 then .fin neg 0 0
    else if absFloor m e ≥ 64 then .fin neg (2 ^ 64 - 1) (-64)
    else
      let x := expWide (2 * toFix m e)
      inexact neg ((x - 2 ^ fixP) * 2 ^ fixP / (x + 2 ^ fixP)) (-(fixP : Int))

/-- 1 / (1 + e^-a). -/
def sigmOf : ExactVal → ExactVal
  | .nan => .nan
  | .inf neg => .fin false (if neg then 0 else 1) 0
  | .fin neg m e =>
    if m = 0 then .fin false 1 (-1)
    else if absFloor m e ≥ 200 then if neg then .fin false 1 (-4000) else .fin false (2 ^ 64 - 1) (-64)
    else
      let x := expWide (toFix m e)
      let n := if neg then 2 ^ fixP else x
      inexact false (n * 2 ^ fixP / (x + 2 ^ fixP)) (-(fixP : Int))

end Sys2Proof.Machine
end

