-- ==== Sys2Proof/Machine/Vec.lean ====
section
/-! DEFINITION. Vector operations of the compute element (R75-R79, R181-R193). -/

namespace Sys2Proof.Machine

open Host (Outcome)

/-! ## Operands and headers -/

/-- A token whose elements fit its shape and its input's format; where they do not, they are free values (R23). -/
def Token.fit (want d : Nat) (t : Token) : Token :=
  let f := if want = fmtANY then t.fmt else want
  if t.bub || (t.fmt = f && t.codes.length = t.rows * t.cols && (!isMx f || t.scales.length = t.rows)) then t
  else
    ⟨hSetFmt t.hdr f, .elems (freeCodes d (t.rows * t.cols) (fmtBits f))
      (if isMx f then freeCodes (d + 1) t.rows 8 else [])⟩

/-- The token at the head of an input, with elements of the input's format. -/
def fitHead (s : State) (el : Elem) (h : Nat → Option Token) (i : Nat) : Option Token :=
  (dataHead h i).map (Token.fit (el.cfg.ifmt.getD i 0) (s.free + 2 * i))

/-- The tokens at the heads of inputs, where each has one. Log entry 29 (DEDUCED). -/
def fitHeads (s : State) (el : Elem) (h : Nat → Option Token) : List Nat → Option (List Token)
  | [] => some []
  | i :: is =>
    match fitHead s el h i, fitHeads s el h is with
    | some t, some ts => some (t :: ts)
    | _, _ => none

/-- The output header of R75. -/
def vecHdr (fmt : Nat) (ts : List Token) (rows cols : Nat) : Word :=
  let h := match ts with
    | t :: _ => hData fmt rows cols (hChn t.hdr) (hSrc t.hdr) (hEp t.hdr)
    | [] => 0
  hSetPsn (hSetLs (hSetLr h (ts.any (·.lr))) (ts.any (·.ls))) (ts.any (·.psn))

/-- The first token's shape. -/
def rows0 (ts : List Token) : Nat := (ts.head?.map Token.rows).getD 1
def cols0 (ts : List Token) : Nat := (ts.head?.map Token.cols).getD 1

/-- A token of free elements. Log entry 32 (DESIGN CHOICE). -/
def freeTok (h : Word) (d : Nat) : Token :=
  let n := hRows h * hCols h
  ⟨h, .elems (freeCodes d n (fmtBits (hFmt h))) (if isMx (hFmt h) then freeCodes (d + 1) (hRows h) 8 else [])⟩

/-- A firing of a vector operation that emits a token (R75): free values it may have drawn are used up. -/
def Elem.vecOut (el : Elem) (ins : List Nat) (t : Token) (own : Bool) (tenths : Nat) : Firing :=
  { el.emit1 ins 0 t own tenths with post := fun u => { u with free := u.free + 16 } }

/-- A token of i0's shape with PSN set and elements that no rule states (R75). Log entry 39 (DEDUCED). -/
def Elem.mismatch (el : Elem) (s : State) (ins : List Nat) (ts : List Token) (cost : Nat → Nat) : Firing :=
  let t := freeTok (vecHdr el.cfg.ofmt ts (rows0 ts) (cols0 ts)) (s.free + 8)
  el.vecOut ins t true (cost t.beats)

/-- The energy of a vector operation at so much a beat, in tenths of a picojoule (R182). -/
def vecCost (per beats : Nat) : Nat := 10 + per * beats

/-- One vector operation (R75): every input has a data token; a bubble makes a bubble of a shape; else g gives the
token, or none for a mismatch.  Energy is 1.0 pJ and a figure per beat of the output. -/
def State.vec (s : State) (op : Nat) (ins : List Nat) (per : Elem → Nat) (shape : List Token → Nat × Nat)
    (g : Elem → List Token → Option Token) : Outcome State Fault Refusal :=
  s.fireElem 0 op fun el h =>
    match fitHeads s el h ins with
    | none => []
    | some ts =>
      if ts.any (·.bub) then
        let sh := shape ts
        [el.vecOut ins (bubble (vecHdr el.cfg.ofmt ts sh.1 sh.2)) false 10]
      else
        match g el ts with
        | some t => [el.vecOut ins t false (10 + per el * t.beats)]
        | none => [el.mismatch s ins ts (vecCost (per el))]

/-- i0's shape. -/
def shape0 (ts : List Token) : Nat × Nat := (rows0 ts, cols0 ts)

/-- The common shape of inputs of which any may be 1×1 (R75, R186). -/
def commonShape (ts : List Token) : Option (Nat × Nat) :=
  let big := ts.filter fun t => t.rows != 1 || t.cols != 1
  match big with
  | [] => some (1, 1)
  | t :: rest => if rest.all fun u => u.rows = t.rows && u.cols = t.cols then some (t.rows, t.cols) else none

/-- Element e of a token that is broadcast where it is 1×1. -/
def Token.at (t : Token) (e : Nat) : Nat :=
  if t.rows = 1 && t.cols = 1 then t.codes.getD 0 0 else t.codes.getD e 0

/-- An elementwise operation under the shape rules of R75. -/
def elementwise (el : Elem) (ts : List Token) (f : List Nat → Nat) : Option Token :=
  match commonShape ts with
  | none => none
  | some (r, c) =>
    some (elemTok (vecHdr el.cfg.ofmt ts r c) ((List.range (r * c)).map fun e => f (ts.map fun t => t.at e)))

/-- The mode of MODE[14:13] (R76), and of MODE[15:13] where it is not SR (R181). -/
def SiteCfg.round2 (c : SiteCfg) : Round := Round.of2 (c.mode / 2 % 4)

/-- Energy per beat of integer and IEEE operations in tenths of a pJ (R75, R182). Log entry 34 (DEDUCED). -/
def perBeat (el : Elem) : Nat := if isIeee (el.cfg.ifmt.getD 0 0) then 31 else 16

/-- A two-input elementwise operation on codes of one format. -/
def State.vec2 (s : State) (op : Nat) (f : Nat → Round → Nat → Nat → Nat) : Outcome State Fault Refusal :=
  s.vec op [0, 1] perBeat shape0 fun el ts =>
    elementwise el ts fun cs => f el.cfg.ofmt el.cfg.round2 (cs.getD 0 0) (cs.getD 1 0)

/-- A one-input elementwise operation on codes of one format. -/
def State.vec1 (s : State) (op : Nat) (f : SiteCfg → Nat → Nat) : Outcome State Fault Refusal :=
  s.vec op [0] perBeat shape0 fun el ts => elementwise el ts fun cs => f el.cfg (cs.getD 0 0)

/-! ## Elementwise arithmetic (R76, R77, R183) -/

/-- An integer operation wrapped to the width, or an IEEE one rounded once. -/
def arith (fi : Nat → Nat → Nat → Nat) (ff : ExactVal → ExactVal → ExactVal) (fmt : Nat) (r : Round) (a b : Nat) : Nat :=
  if isInt fmt then fi (2 ^ fmtBits fmt) a b else roundTo fmt r (ff (valueOf fmt a) (valueOf fmt b))

def addCode (fmt : Nat) (r : Round) (a b : Nat) : Nat := arith (fun m a b => (a + b) % m) (ExactVal.add r) fmt r a b
def subCode (fmt : Nat) (r : Round) (a b : Nat) : Nat :=
  arith (fun m a b => (a + (m - b % m)) % m) (fun x y => ExactVal.add r x y.neg) fmt r a b
def mulCode (fmt : Nat) (r : Round) (a b : Nat) : Nat := arith (fun m a b => a * b % m) ExactVal.mul fmt r a b

/-- An integer code as its value. -/
def intOf (fmt a : Nat) : Int := if isSigned fmt then signedOf (fmtBits fmt) a else (a % 2 ^ fmtBits fmt : Nat)

/-- The lesser or greater of two codes (R183). -/
def extremeCode (greater : Bool) (fmt : Nat) (a b : Nat) : Nat :=
  if isInt fmt then if decide (intOf fmt a < intOf fmt b) == greater then b else a else pickCode fmt greater a b

/-- A sum saturated to the range of an integer format. -/
def satCode (fmt : Nat) (v : Int) : Nat :=
  let w := fmtBits fmt
  let lo : Int := if isSigned fmt then -(2 ^ (w - 1) : Nat) else 0
  let hi : Int := if isSigned fmt then (2 ^ (w - 1) : Nat) - 1 else (2 ^ w : Nat) - 1
  patOf w (max lo (min hi v))

/-- The sign bit of a code. -/
def signBit (fmt : Nat) : Nat := 2 ^ (fmtBits fmt - 1)

def absCode (fmt a : Nat) : Nat :=
  if isInt fmt then patOf (fmtBits fmt) (if isSigned fmt then (intOf fmt a).natAbs else a) else a % signBit fmt

def negCode (fmt a : Nat) : Nat :=
  if isInt fmt then patOf (fmtBits fmt) (-(a : Int)) else (a + signBit fmt) % (2 * signBit fmt)

/-- The shift count of an element, b[log2 w - 1 : 0]. -/
def shiftCount (fmt b : Nat) : Nat := b % fmtBits fmt

def execVadd (s : State) : Outcome State Fault Refusal := s.vec2 0x01 addCode
def execVsub (s : State) : Outcome State Fault Refusal := s.vec2 0x02 subCode
def execVmul (s : State) : Outcome State Fault Refusal := s.vec2 0x03 mulCode
def execVmin (s : State) : Outcome State Fault Refusal := s.vec2 0x04 fun f _ => extremeCode false f
def execVmax (s : State) : Outcome State Fault Refusal := s.vec2 0x05 fun f _ => extremeCode true f
def execVabs (s : State) : Outcome State Fault Refusal := s.vec1 0x06 fun c => absCode c.ofmt
def execVneg (s : State) : Outcome State Fault Refusal := s.vec1 0x07 fun c => negCode c.ofmt
def execVadds (s : State) : Outcome State Fault Refusal :=
  s.vec2 0x08 fun f _ a b => satCode f (intOf f a + intOf f b)
def execVsubs (s : State) : Outcome State Fault Refusal :=
  s.vec2 0x09 fun f _ a b => satCode f (intOf f a - intOf f b)
def execVand (s : State) : Outcome State Fault Refusal := s.vec2 0x0A fun _ _ a b => a &&& b
def execVor (s : State) : Outcome State Fault Refusal := s.vec2 0x0B fun _ _ a b => a ||| b
def execVxor (s : State) : Outcome State Fault Refusal := s.vec2 0x0C fun _ _ a b => a ^^^ b
def execVshl (s : State) : Outcome State Fault Refusal :=
  s.vec2 0x0D fun f _ a b => a * 2 ^ shiftCount f b % 2 ^ fmtBits f
def execVshr (s : State) : Outcome State Fault Refusal := s.vec2 0x0E fun f _ a b => a / 2 ^ shiftCount f b
def execVsra (s : State) : Outcome State Fault Refusal :=
  s.vec2 0x0F fun f _ a b => patOf (fmtBits f) (signedOf (fmtBits f) a / 2 ^ shiftCount f b)
def execVaddi (s : State) : Outcome State Fault Refusal :=
  s.vec1 0x13 fun c a => patOf (fmtBits c.ofmt) (a + signedOf 32 (c.par 0))

/-! ## Compares and select (R78, R79) -/

def execVcmp (s : State) : Outcome State Fault Refusal :=
  s.vec 0x10 [0, 1] perBeat shape0 fun el ts =>
    let f := el.cfg.ifmt.getD 0 0
    elementwise el ts fun cs =>
      if condNum (el.cfg.mode / 2) (valueOf f (cs.getD 0 0)) (valueOf f (cs.getD 1 0)) then 1 else 0

/-- The immediate of VCMPI as a value (R78). -/
def immValue (fmt p : Nat) : ExactVal :=
  if isIeee fmt then valueOf fmtF32 p else if isSigned fmt then ofUnits (signedOf 32 p) 0 else .fin false p 0

def execVcmpi (s : State) : Outcome State Fault Refusal :=
  s.vec1 0x11 fun c a =>
    let f := c.ifmt.getD 0 0
    if condNum (c.mode / 2) (valueOf f a) (immValue f (c.par 0)) then 1 else 0

def execVsel (s : State) : Outcome State Fault Refusal :=
  s.vec 0x12 [0, 1, 2] (fun _ => 16) shape0 fun el ts =>
    match ts with
    | [p, x, y] =>
      if x.rows = y.rows && x.cols = y.cols && ((p.rows = x.rows && p.cols = x.cols) || (p.rows = 1 && p.cols = 1)) then
        some (elemTok (vecHdr el.cfg.ofmt ts x.rows x.cols) ((List.range (x.rows * x.cols)).map fun e =>
          if p.at e != 0 then x.codes.getD e 0 else y.codes.getD e 0))
      else none
    | _ => none

/-! ## The counter-based hash (R191, R245) -/

def rotl32 (x k : Nat) : Nat := (x * 2 ^ k % 2 ^ 32) ||| (x / 2 ^ (32 - k))

/-- The four rounds. -/
def hmixRounds (x0 x1 : Nat) : List Nat → Nat × Nat
  | [] => (x0, x1)
  | k :: ks =>
    let x0 := (x0 + x1) % 2 ^ 32
    let x1 := rotl32 x1 13 ^^^ x0
    let x0 := rotl32 x0 16 ^^^ k
    let x1 := (x1 + x0) % 2 ^ 32
    hmixRounds x0 x1 ks

def hmixHash (x0 x1 : Nat) : Nat :=
  let p := hmixRounds x0 x1 [0x6A09E667, 0xBB67AE85, 0x3C6EF372, 0xA54FF53A]
  p.1 ^^^ p.2

/-- hash(b, q) under seed s0, s1 and layer l (R191). -/
def maskHash (s0 s1 l b q : Nat) : Nat := hmixHash (b ^^^ s0) (l ^^^ s1 ^^^ q * 2 ^ 29)

/-- u(b, j) (R245). -/
def srDraw (s0 s1 l b j : Nat) : Nat := hmixHash (b ^^^ s0) (l ^^^ s1 ^^^ j * 2 ^ 24 ^^^ 0x00800000) % 2 ^ 16

/-- The keep-mask word of block index b (R191). -/
def maskWord (c : SiteCfg) (b : Nat) : Nat :=
  let hash := maskHash (c.par 0) (c.par 1) (c.par 2) b
  if !c.modeBit 13 then hash 0
  else
    let t := c.par 3 % 512
    let hs := (List.range 8).map hash
    packNat 1 ((List.range 32).map fun j => if hs.getD (j / 4) 0 / 2 ^ (8 * (j % 4)) % 256 < t then 1 else 0)

/-- HMIX (R191). Log entries 109 (DESIGN CHOICE), 110 (DESIGN CHOICE). -/
def execHmix (s : State) : Outcome State Fault Refusal :=
  s.fireElem 0 0x30 fun el h =>
    match fitHead s el h 0 with
    | none => []
    | some t =>
      let rows := field (el.cfg.par 3) 20 16 + 1
      let hd := vecHdr 0x07 [t] rows 1
      if t.bub then [el.vecOut [0] (bubble hd) false 0]
      else
        let b0 := t.codes.getD 0 0 % 2 ^ 32
        [el.vecOut [0] (elemTok hd ((List.range rows).map fun k =>
          maskWord el.cfg ((b0 + k * el.cfg.par 4) % 2 ^ 32))) false (90 * rows)]

/-! ## Conversion (R184, R185) -/

/-- The rounding of MODE[15:13] (R181): of element j of row k, with b0 from the key input under SR. -/
def roundOf (c : SiteCfg) (b0 k j : Nat) : Round :=
  if c.mode / 2 = 4 then .sr (srDraw (c.par 0) (c.par 1) (c.par 2) ((b0 + k * c.par 4) % 2 ^ 32) j)
  else Round.of2 (c.mode / 2)

/-- Rows of values converted to a format (R243, R246): the first list of a row chooses an MX scale. -/
def convertRows (fmt : Nat) (r : Nat → Nat → Round) (rows : List (List ExactVal × List ExactVal)) : Body :=
  if isMx fmt then
    let rs := rows.zipIdx.map fun vk => mxRow fmt vk.1.1 vk.1.2 (r vk.2)
    .elems (rs.flatMap (·.1)) (rs.map (·.2))
  else .elems (rows.zipIdx.flatMap fun vk => vk.1.2.zipIdx.map fun vj => roundTo fmt (r vk.2 vj.2) vj.1) []

/-- VCVT (R184). Log entry 34 (DEDUCED). -/
def execVcvt (s : State) : Outcome State Fault Refusal :=
  s.fireElem 0 0x18 fun el h =>
    let ins := if el.cfg.mode / 2 = 4 then [0, 1] else [0]
    match fitHeads s el h ins with
    | none => []
    | some ts =>
      match ts with
      | [] => []
      | t :: keys =>
        let hd := vecHdr el.cfg.ofmt ts t.rows t.cols
        if ts.any (·.bub) then [el.vecOut ins (bubble hd) false 10]
        else if isMx el.cfg.ofmt && t.cols != 32 then [el.mismatch s ins ts (vecCost 24)]
        else
          let b0 := ((keys.head?.bind fun k => k.codes.head?).getD 0) % 2 ^ 32
          let rows := (List.range t.rows).map fun k => (t.rowValues k, t.rowValues k)
          let out : Token := ⟨hd, convertRows el.cfg.ofmt (roundOf el.cfg b0) rows⟩
          [el.vecOut ins out false (10 + 24 * out.beats)]

/-- VSCL on an MX row: its codes and its scale (R185). -/
def scaleRow (k : Int) (codes : List Nat) (sc : Nat) : List Nat × Nat :=
  if sc = 0xFF then (codes, 0xFF)
  else
    let n := sc + k
    if n > 0xFE then (codes, 0xFF) else if n < 0 then (codes.map fun _ => 0, 0) else (codes, n.toNat)

def execVscl (s : State) : Outcome State Fault Refusal :=
  s.vec 0x19 [0] (fun _ => 31) shape0 fun el ts =>
    match ts with
    | [t] =>
      let k := signedOf 9 (el.cfg.par 0)
      let hd := vecHdr el.cfg.ofmt ts t.rows t.cols
      if isMx el.cfg.ofmt then
        let rs := ((chunks t.cols t.codes).zip t.scales).map fun cs => scaleRow k cs.1 cs.2
        some (mxTok hd (rs.flatMap (·.1)) (rs.map (·.2)))
      else
        some (elemTok hd (t.codes.map fun c =>
          roundTo el.cfg.ofmt el.cfg.round2 ((valueOf el.cfg.ofmt c).shift (-k))))
    | _ => none

/-! ## Fused multiply-add and transcendental functions (R186, R187) -/

def fmaCode (fmt : Nat) (r : Round) (a b c : Nat) : Nat :=
  if isInt fmt then (a * b + c) % 2 ^ fmtBits fmt
  else roundTo fmt r (ExactVal.add .rne (ExactVal.mul (valueOf fmt a) (valueOf fmt b)) (valueOf fmt c))

def execVfma (s : State) : Outcome State Fault Refusal :=
  s.vec 0x1A [0, 1, 2] (fun _ => 31) shape0 fun el ts =>
    elementwise el ts fun cs => fmaCode el.cfg.ofmt el.cfg.round2 (cs.getD 0 0) (cs.getD 1 0) (cs.getD 2 0)

/-- A transcendental function, its energy by input beat (R182, R187). -/
def State.trans (s : State) (op : Nat) (f : ExactVal → ExactVal) : Outcome State Fault Refusal :=
  s.fireElem 0 op fun el h =>
    match fitHead s el h 0 with
    | none => []
    | some t =>
      let hd := vecHdr el.cfg.ofmt [t] t.rows t.cols
      if t.bub then [el.vecOut [0] (bubble hd) false 10]
      else
        [el.vecOut [0] (elemTok hd (t.codes.map fun c =>
          roundTo el.cfg.ofmt .rne (f (valueOf (el.cfg.ifmt.getD 0 0) c)))) false (10 + 64 * t.beats)]

def execVexp2 (s : State) : Outcome State Fault Refusal := s.trans 0x20 exp2Of
def execVlog2 (s : State) : Outcome State Fault Refusal := s.trans 0x21 log2Of
def execVrcp (s : State) : Outcome State Fault Refusal := s.trans 0x22 rcpOf
def execVrsq (s : State) : Outcome State Fault Refusal := s.trans 0x23 rsqOf
def execVtanh (s : State) : Outcome State Fault Refusal := s.trans 0x24 tanhOf
def execVsigm (s : State) : Outcome State Fault Refusal := s.trans 0x25 sigmOf

/-! ## Row operations (R188-R190) -/

/-- The sum of a row (R188). Log entry 33 (DEDUCED). -/
def rowSum (inF outF : Nat) (r : Round) (codes : List Nat) : Nat :=
  if isInt outF then patOf (fmtBits outF) ((codes.map (intOf inF)).sum)
  else if isInt inF then roundTo outF r (ofUnits (codes.map (intOf inF)).sum 0)
  else
    match codes.map (valueOf inF) with
    | [] => 0
    | v :: vs => roundTo outF r (vs.foldl (ExactVal.add r) v)

/-- A row operation: one element a row, energy by input beat. Log entry 33 (DEDUCED). -/
def State.rowOp (s : State) (op : Nat) (g : SiteCfg → List Nat → Nat) : Outcome State Fault Refusal :=
  s.fireElem 0 op fun el h =>
    match fitHead s el h 0 with
    | none => []
    | some t =>
      let hd := vecHdr el.cfg.ofmt [t] t.rows 1
      if t.bub then [el.vecOut [0] (bubble hd) false 10]
      else [el.vecOut [0] (elemTok hd ((chunks t.cols t.codes).map (g el.cfg))) false (10 + 20 * t.beats)]

def execVrsum (s : State) : Outcome State Fault Refusal :=
  s.rowOp 0x28 fun c row => rowSum (c.ifmt.getD 0 0) c.ofmt c.round2 row

def execVrmax (s : State) : Outcome State Fault Refusal :=
  s.rowOp 0x29 fun c row =>
    match row with
    | [] => 0
    | [v] => if isIeee c.ofmt && (valueOf c.ofmt v).isNan then (floatFmt c.ofmt).nanCode else v
    | v :: vs => vs.foldl (extremeCode true c.ofmt) v

def execVtrn (s : State) : Outcome State Fault Refusal :=
  s.fireElem 0 0x2A fun el h =>
    match fitHead s el h 0 with
    | none => []
    | some t =>
      let hd := hSetShape t.hdr t.cols t.rows
      let out := if t.bub then bubble hd
        else elemTok hd ((List.range (t.rows * t.cols)).map fun e =>
          t.codes.getD (e % t.rows * t.cols + e / t.rows) 0)
      [el.vecOut [0] out false (10 + 18 * out.beats)]

/-! ## Masks (R193) -/

/--. Log entry 111 (DESIGN CHOICE). -/
def execVmask (s : State) : Outcome State Fault Refusal :=
  s.fireElem 0 0x31 fun el h =>
    match fitHeads s el h [0, 1] with
    | some [t, m] =>
      let f := el.cfg.ofmt
      let hd := vecHdr f [t, m] t.rows t.cols
      if t.bub || m.bub then [el.vecOut [0, 1] (bubble hd) false 10]
      else if m.rows != t.rows || m.cols != 1 || t.cols > 32 then
        [el.vecOut [0, 1] (elemTok hd (t.codes.map fun _ => 0)) true (10 + 16 * t.beats)]
      else
        let sc := valueOf fmtF32 (el.cfg.par 0)
        let out := elemTok hd (t.codes.zipIdx.map fun ce =>
          if (m.codes.getD (ce.2 / t.cols) 0).testBit (ce.2 % t.cols) then
            roundTo f el.cfg.round2 (ExactVal.mul (valueOf f ce.1) sc)
          else 0)
        [el.vecOut [0, 1] out false (10 + 16 * out.beats)]
    | _ => []

end Sys2Proof.Machine
end

