-- ==== Sys2Proof/Machine/Matrix.lean ====
section
/-! DEFINITION. Tile registers, matrix multiplication, accumulator operations and reductions (R194-R209, R216,
R250-R264). -/

namespace Sys2Proof.Machine

open Host (Outcome)

/-! ## Tile ports (R194) -/

/-- The stream input and the tile port of an element with tile registers. -/
def tilePorts (c : SiteCfg) : Option (Nat × Nat) :=
  match c.kind, c.op with
  | 0, 0x40 => some (0, 1)
  | 0, 0x41 => some (0, 2)
  | 0, 0x50 => some (1, 0)
  | 0, 0x52 => some (0, 1)
  | _, _ => none

/-- TILE_PORT_WRITE (R194): a data token at the tile port is written into TL, a bubble too.
Log entry 98 (DESIGN CHOICE). -/
def execTilePortWrite (s : State) : Outcome State Fault Refusal :=
  match s.elemAt s.site.r s.site.s with
  | none => .next s
  | some (_, _, el0) =>
    s.fireElem 0 el0.cfg.op fun el h =>
      match tilePorts el.cfg with
      | none => []
      | some (_, port) =>
        match fitHead s el h port with
        | none => []
        | some t =>
          [{ Firing.of [port] [] { el with tl := some t } 0 with post := fun u => { u with free := u.free + 16 } }]

/-- TILE_EXCHANGE (R194): XCH at the tile port and at the stream input exchange TA and TL; SYSM forwards the
stream's XCH on o0 (R200). -/
def execTileExchange (s : State) : Outcome State Fault Refusal :=
  match s.elemAt s.site.r s.site.s with
  | none => .next s
  | some (_, _, el0) =>
    s.fireElem 0 el0.cfg.op fun el h =>
      match tilePorts el.cfg with
      | none => []
      | some (stream, port) =>
        match h stream, h port with
        | some a, some b =>
          if a.kind == .xch && b.kind == .xch then
            [Firing.of [stream, port] (if el.cfg.op = 0x41 then [(0, a)] else []) { el with ta := el.tl, tl := el.ta } 0]
          else []
        | _, _ => []

/-! ## TLD, TXCH, TEMIT (R195-R197) -/

/-- The operation of TLD; its rounding mode, which MODE has no room to name, is RNE. Log entry 97 (DESIGN CHOICE). -/
def tldCode (m fmt a b : Nat) : Nat :=
  match m with
  | 0 => addCode fmt .rne a b
  | 1 => subCode fmt .rne a b
  | 2 => mulCode fmt .rne a b
  | 3 => extremeCode false fmt a b
  | _ => extremeCode true fmt a b

/-- TLD: the header comes from i1; a smaller x meets the top-left part of TA.
Log entries 29 (DEDUCED), 112 (DESIGN CHOICE). -/
def execTld (s : State) : Outcome State Fault Refusal :=
  s.fireElem 0 0x50 fun el h =>
    match fitHead s el h 1 with
    | none => []
    | some x =>
      let f := el.cfg.ofmt
      let hd := hSetFmt x.hdr f
      if x.bub then [el.vecOut [1] (bubble hd) false 0]
      else
        match el.ta with
        | none => [el.vecOut [1] (freeTok hd (s.free + 8)) true 0]
        | some ta =>
          if x.rows > ta.rows || x.cols > ta.cols then [el.vecOut [1] (freeTok hd (s.free + 8)) true 0]
          else
            let tc := if ta.bub then freeCodes (s.free + 8) (ta.rows * ta.cols) (fmtBits f) else ta.codes
            let codes := x.codes.zipIdx.map fun ce =>
              tldCode (el.cfg.mode / 2) f ce.1 (tc.getD (ce.2 / x.cols * ta.cols + ce.2 % x.cols) 0)
            [el.vecOut [1] (elemTok (hSetPsn hd (x.psn || ta.psn)) codes) false 0]

/-- TXCH (R197): after every P0 data tokens an XCH of its own follows. -/
def execTxch (s : State) : Outcome State Fault Refusal :=
  s.fireElem 0 0x51 fun el h =>
    match el.kept with
    | some t =>
      [Firing.of [] [(0, ctlTok (hControl 1 ((hChn t.hdr + 1) % 2 ^ 24) (hSrc t.hdr) (hEp t.hdr)))]
        { el with kept := none } 12]
    | none =>
      match h 0 with
      | none => []
      | some t =>
        if t.kind == .xch then [Firing.of [0] [(0, t)] el 12]
        else if !t.isData then []
        else
          let n := el.cnt + 1
          let full := n == el.cfg.par 0
          [Firing.of [0] [(0, t)] { el with cnt := if full || t.ls then 0 else n, kept := if full then some t else none }
            (flowTenthsOf t)]
where
  flowTenthsOf (t : Token) : Nat := 12 + 9 * t.beats

/-- The shape and format TEMIT gives a token while TA is empty, which no rule states: free values.
Log entry 30 (DEDUCED). -/
def freeShape (fmt d : Nat) : Nat × Nat :=
  (Config.freeElem d 1000 % 32 + 1, if isMx fmt then 32 else Config.freeElem d 1001 % 32 + 1)

/-- TEMIT (R196). Log entry 30 (DEDUCED). -/
def execTemit (s : State) : Outcome State Fault Refusal :=
  s.fireElem 0 0x52 fun el h =>
    match dataHead h 0 with
    | none => []
    | some t =>
      let mk (fmt rows cols : Nat) := hSetLs (hSetLr (hData fmt rows cols (hChn t.hdr) (hSrc t.hdr) (hEp t.hdr)) t.lr) t.ls
      match el.ta with
      | none =>
        let sh := freeShape el.cfg.ofmt s.free
        let hd := mk el.cfg.ofmt sh.1 sh.2
        [el.vecOut [0] (if t.bub then bubble hd else freeTok hd (s.free + 8)) true 0]
      | some ta =>
        let hd := mk ta.fmt ta.rows ta.cols
        [el.vecOut [0] (if t.bub || ta.bub then bubble hd else ⟨hSetPsn hd ta.psn, ta.body⟩) false 0]

/-! ## Images as tokens -/

/-- Lanes that no rule states. Log entry 32 (DESIGN CHOICE). -/
def freeImage (n d : Nat) : Image :=
  { Image.zero n 0 with lanes := (List.range n).map fun k => { Lane.zero with v := Config.laneSplit d k % 2 ^ 109 } }

/-- The image a token carries, or a free one where it carries none of its shape. Log entry 28 (DEDUCED). -/
def Token.imageOr (t : Token) (d : Nat) : Image :=
  match t.body with
  | .image i => if i.lanes.length = t.rows * t.cols then i else freeImage (t.rows * t.cols) d
  | _ => freeImage (t.rows * t.cols) d

def imageTok (h : Word) (i : Image) : Token := ⟨h, .image i⟩

/-! ## Matrix multiplication (R198-R202) -/

/-- One product (R198, R254): an activation of ±0 contributes zero whatever the weight. -/
def product (a w : ExactVal) : ExactVal :=
  match a with
  | .fin _ 0 _ => .fin false 0 0
  | a => ExactVal.mul a w

/-- The contributions of activation row k to the lanes of its row: one list a column. Log entry 113 (DESIGN CHOICE). -/
def rowProducts (a ta : Token) (k : Nat) : List (List ExactVal) :=
  let av := a.rowValues k
  (List.range ta.rows).map fun n => (av.zip (ta.rowValues n)).map fun x => product x.1 x.2

/-- Every element of a row is a zero, of either sign, and its scale is no NaN (R202). -/
def zeroRow (a : Token) (k : Nat) : Bool :=
  (a.rowValues k).all fun v => match v with
    | .fin _ 0 _ => true
    | _ => false

/-- The contributions of some activation rows to the lanes of an image in rows of the given width. -/
def stepLanes (a ta : Token) (width n : Nat) (ks : List Nat) : List (List ExactVal) :=
  ((List.range (ceilDiv n width)).flatMap fun k =>
    if ks.contains k && !zeroRow a k then rowProducts a ta k ++ List.replicate (width - ta.rows) []
    else List.replicate width []).take n

/-- Some activation rows enter an image in one step; rows of zeros are passed in skip steps (R202, R253). -/
def addStep (a ta : Token) (width : Nat) (ks : List Nat) (i : Image) : Image :=
  if ks.all (zeroRow a) then i else i.enter (stepLanes a ta width i.lanes.length ks)

/-- Rows of activation enter an image of lanes in rows of the given width (R198, R253): one step a row, or two rows a step
where MXF4 meets MXF4. -/
def addRows (a ta : Token) (width : Nat) : List Nat → Image → Image
  | [], i => i
  | [k], i => addStep a ta width [k] i
  | k :: l :: ks, i =>
    if a.fmt = 0x14 && ta.fmt = 0x14 then addRows a ta width ks (addStep a ta width [k, l] i)
    else addRows a ta width (l :: ks) (addStep a ta width [k] i)

/-- Energy of an activation token in tenths of a pJ, against a stationary tile of a format (R202). -/
def matrixTenths (a : Token) (w : Nat) : Nat :=
  if a.bub then 30
  else
    let row := if isMx a.fmt then (if a.fmt = 0x14 && w = 0x14 then 1000 else 1875)
      else if a.fmt = fmtF32 then 7500 else 3750
    30 + ((List.range a.rows).map fun k => if zeroRow a k then 120 else row).sum

/-- P0 = 0xFFFF_FFFF makes the element uncounted (R201). -/
def SiteCfg.uncounted (c : SiteCfg) : Bool := c.par 0 = 0xFFFFFFFF

/-- A counted element needs a count for an activation token (R201). -/
def Elem.mayCount (el : Elem) : Bool := el.cfg.uncounted || el.cnt > 0

/-- One count is used; at zero the element has expired (R201). -/
def Elem.countDown (el : Elem) : Elem :=
  if el.cfg.uncounted then el else { el with cnt := el.cnt - 1, expired := el.cnt == 1 }

/-- A count is added, saturating; one that raises CNT from 0 clears the expiry (R201). -/
def Elem.addCount (el : Elem) (n : Nat) : Elem :=
  if el.cfg.uncounted then el
  else
    let c := satTo 0xFFFFFFFE (el.cnt + n)
    { el with cnt := c, expired := el.expired && c == 0 }

/-- An image of rows of `width` lanes, with rows of zero lanes up to a height. -/
def Image.grow (i : Image) (width rows : Nat) : Image :=
  { i with lanes := i.lanes ++ List.replicate (rows * width - i.lanes.length) Lane.zero }

/-- The first cols lanes of the first rows of an image held in rows of 32. -/
def Image.crop (i : Image) (rows cols : Nat) : Image :=
  { i with lanes := ((chunks 32 (i.grow 32 rows).lanes).take rows).flatMap fun r => r.take cols }

/-- An image of a shape laid out in rows of 32. -/
def Image.widen (i : Image) (cols : Nat) : Image :=
  { i with lanes := (chunks cols i.lanes).flatMap fun r => r ++ List.replicate (32 - r.length) Lane.zero }

/-- MMA (R199).  ACC is held in rows of 32 lanes; kept holds the initial image's token; flag a poison met.
Log entries 29 (DEDUCED), 30 (DEDUCED), 114 (DESIGN CHOICE). -/
def execMma (s : State) : Outcome State Fault Refusal :=
  s.fireElem 0 0x40 fun el h =>
    match fitHead s el h 0, el.ta with
    | some a, some ta0 =>
      if !el.mayCount then []
      else
        let ta := if ta0.bub then freeTok (hSetBub ta0.hdr false) (s.free + 8) else ta0
        let useI2 := !el.busy && el.cfg.uses 2
        match (if useI2 then (dataHead h 2).map some else some none) with
        | none => []
        | some init =>
          let acc0 : Image :=
            if el.busy then el.acc.getD (Image.zero 0 0)
            else match init with
              | some t => if t.bub then Image.zero 0 0 else (t.imageOr (s.free + 4)).widen t.cols
              | none => Image.zero 0 0
          let kept := if el.busy then el.kept else init
          let badShape := a.cols != 32
          let acc := acc0.grow 32 a.rows
          let acc := if a.bub || badShape then acc else addRows a ta 32 (List.range a.rows) acc
          let rows := max (if el.busy then el.rows else 0) a.rows
          let psn := (el.busy && el.flag) || a.psn || ta.psn || badShape || (init.any fun t => t.psn)
          let ins := if useI2 then [0, 2] else [0]
          let e := matrixTenths a ta.fmt
          let bad := if badShape then [el.ownCheck a.poison] else []
          if a.ends then
            let wrong := kept.any fun t => t.rows != rows || t.cols != ta.rows
            let hd := hData fmtCSIMG rows ta.rows (hChn a.hdr) (hSrc a.hdr) (hEp a.hdr)
            let hd := hSetPsn (hSetLs (hSetLr hd a.lr) a.ls) (psn || wrong)
            let out := imageTok hd ((acc.crop rows ta.rows).made s.free)
            let el' := { el with busy := false, acc := none, kept := none, rows := 0, flag := false }.countDown
            [{ (Firing.of ins [(0, out)] el' e).logging (bad ++ if wrong then [el.ownCheck out] else []) with
                post := fun u => { u with free := u.free + 16 } }]
          else
            let el' := { el with busy := true, acc := some acc, kept := kept, rows := rows, flag := psn }.countDown
            [{ (Firing.of ins [] el' e).logging bad with post := fun u => { u with free := u.free + 16 } }]
    | _, _ => []

/-- SYSM (R200). Log entries 29 (DEDUCED), 30 (DEDUCED). -/
def execSysm (s : State) : Outcome State Fault Refusal :=
  s.fireElem 0 0x41 fun el h =>
    match dataHead h 0 with
    | none => []
    | some a0 =>
      if !el.mayCount then []
      else
        match (if el.cfg.uses 1 then (dataHead h 1).map some else some none) with
        | none => []
        | some p =>
          let a := a0.fit (el.cfg.ifmt.getD 0 0) s.free
          let ins := if el.cfg.uses 1 then [0, 1] else [0]
          let nw := match el.ta with
            | some t => t.rows
            | none => (p.map Token.cols).getD (freeShape 0 (s.free + 2)).1
          let lr := a.lr || p.any (·.lr)
          let ls := a.ls || p.any (·.ls)
          let badA := a.cols != 32
          let badP := p.any fun t => t.rows != a.rows || t.cols != nw
          let own := el.ta.isNone || badA || badP
          let psn := a.psn || p.any (·.psn) || el.ta.any (·.psn) || own
          let hd := hData fmtCSIMG a.rows nw (hChn a.hdr) (hSrc a.hdr) (hEp a.hdr)
          let hd := hSetPsn (hSetLs (hSetLr hd lr) ls) psn
          let start := match p with
            | some t => if badP then freeImage (a.rows * nw) (s.free + 4) else t.imageOr (s.free + 4)
            | none => Image.zero (a.rows * nw) 0
          let ta := el.ta.map fun t => if t.bub then freeTok (hSetBub t.hdr false) (s.free + 8) else t
          let img := match ta with
            | some t => if a.bub || badA then start else addRows a t nw (List.range a.rows) start
            | none => freeImage (a.rows * nw) (s.free + 6)
          let out := if p.any (·.bub) then bubble hd else imageTok hd (img.made s.free)
          let e := matrixTenths a ((ta.map Token.fmt).getD (el.cfg.ifmt.getD 2 0))
          let fwd := if badA then a0.poison else a0
          [{ (Firing.of ins [(0, fwd), (1, out)] el.countDown e).logging
                ((if badA then [el.ownCheck fwd] else []) ++ if own && !badA then [el.ownCheck out] else []) with
              post := fun u => { u with free := u.free + 16 } }]

/-! ## Accumulator operations (R203-R209) -/

/-- ACLR (R204). Log entry 30 (DEDUCED). -/
def execAclr (s : State) : Outcome State Fault Refusal :=
  s.fireElem 0 0x42 fun el h =>
    match dataHead h 0 with
    | none => []
    | some t =>
      let cols := el.cfg.par 0 % 32 + 1
      let hd := hSetLs (hSetLr (hData fmtCSIMG t.rows cols (hChn t.hdr) (hSrc t.hdr) (hEp t.hdr)) t.lr) t.ls
      let out := if t.bub then bubble hd
        else imageTok hd ((Image.zero (t.rows * cols) (signedOf 12 (el.cfg.par 1))).made s.free)
      [el.vecOut [0] out false 40]

/-- An image resolved to element codes (R259). -/
def resolveBody (fmt : Nat) (sr : Bool) (r : Nat → Nat → Round) (i : Image) (cols : Nat) : Body :=
  convertRows fmt r ((chunks cols i.lanes).map fun row => (row.map i.value, row.map (i.rounded sr)))

/-- RES (R205). -/
def execRes (s : State) : Outcome State Fault Refusal :=
  s.fireElem 0 0x43 fun el h =>
    let sr := el.cfg.mode / 2 == 4
    match dataHead h 0, (if sr then (fitHead s el h 1).map some else some none) with
    | some t, some key =>
      let ins := if sr then [0, 1] else [0]
      let ts := match key with
        | some k => [t, k]
        | none => [t]
      let hd := vecHdr el.cfg.ofmt ts t.rows t.cols
      let e := if t.fmt = fmtNRIMG then 600 else 4200
      if ts.any (·.bub) then [el.vecOut ins (bubble hd) false e]
      else if isMx el.cfg.ofmt && t.cols != 32 then [el.mismatch s ins ts fun _ => e]
      else
        let b0 := ((key.bind fun k => k.codes.head?).getD 0) % 2 ^ 32
        [el.vecOut ins ⟨hd, resolveBody el.cfg.ofmt sr (roundOf el.cfg b0) (t.imageOr (s.free + 4)) t.cols⟩ false e]
    | _, _ => []

/-- RESN (R206). -/
def execResn (s : State) : Outcome State Fault Refusal :=
  s.fireElem 0 0x44 fun el h =>
    match dataHead h 0 with
    | none => []
    | some t =>
      let hd := hSetFmt t.hdr fmtNRIMG
      let out := if t.bub then bubble hd else if t.fmt = fmtNRIMG then t
        else imageTok hd (t.imageOr (s.free + 4)).canonical
      [el.vecOut [0] out false 4000]

/-- ACMP (R207, R231). -/
def execAcmp (s : State) : Outcome State Fault Refusal :=
  s.fireElem 0 0x45 fun el h =>
    match dataHead h 0 with
    | none => []
    | some t =>
      let hd := vecHdr 0x07 [t] t.rows 1
      let th := valueOf fmtF32 (el.cfg.par 0)
      let i := t.imageOr (s.free + 4)
      let bit (l : Lane) : Nat := if condNum (el.cfg.mode / 2) (i.value l) th then 1 else 0
      let mask := if t.bub then bubble hd
        else elemTok hd ((chunks t.cols i.lanes).map fun row => packNat 1 (row.map bit))
      [{ Firing.of [0] [(0, mask), (1, t)] el 960 with post := fun u => { u with free := u.free + 16 } }]

/-- ASTR (R208). -/
def execAstr (s : State) : Outcome State Fault Refusal :=
  s.fireElem 0 0x46 fun el h =>
    match dataHead h 0 with
    | none => []
    | some t =>
      let i := t.imageOr (s.free + 4)
      let out := if t.bub then t else imageTok t.hdr { i with chk := i.check t.fmt }
      [el.vecOut [0] out false (30 + 16 * t.beats)]

/-- ALD (R208, R264). Log entry 115 (DESIGN CHOICE). -/
def execAld (s : State) : Outcome State Fault Refusal :=
  s.fireElem 0 0x47 fun el h =>
    if isImg (el.cfg.ifmt.getD 0 0) then
      match dataHead h 0 with
      | none => []
      | some t =>
        if t.bub then [el.vecOut [0] t false 30]
        else
          let i := t.imageOr (s.free + 4)
          let good := !i.bad && i.chk == i.check t.fmt && (match t.body with
            | .image j => j.lanes.length == t.rows * t.cols
            | _ => false)
          [el.vecOut [0] (imageTok t.hdr { i with fromMem := false }) (!good) (30 + 16 * t.beats)]
    else
      match fitHead s el h 0 with
      | none => []
      | some t =>
        let hd := vecHdr fmtCSIMG [t] t.rows t.cols
        let vs := (List.range t.rows).flatMap t.rowValues
        let out := if t.bub then bubble hd else imageTok hd ((imageOfTile vs).made s.free)
        [el.vecOut [0] out false (30 + 16 * t.beats)]

/-- AADD (R209).  In running form acc holds ACC and kept the first image's token.
Log entries 29 (DEDUCED), 125 (DESIGN CHOICE). -/
def execAadd (s : State) : Outcome State Fault Refusal :=
  s.fireElem 0 0x48 fun el h =>
    if !el.cfg.modeBit 13 then
      match dataHead h 0, dataHead h 1 with
      | some x, some y =>
        let hd := vecHdr fmtCSIMG [x, y] x.rows x.cols
        if x.bub || y.bub then [el.vecOut [0, 1] (bubble hd) false 480]
        else
          let same := x.rows = y.rows && x.cols = y.cols
          let i := if same then (x.imageOr (s.free + 2)).plus (y.imageOr (s.free + 4))
            else freeImage (x.rows * x.cols) (s.free + 6)
          [el.vecOut [0, 1] (imageTok hd (i.made s.free)) (!same) 480]
      | _, _ => []
    else
      match dataHead h 0 with
      | none => []
      | some x =>
        let first := el.kept.getD x
        let same := first.rows = x.rows && first.cols = x.cols
        let acc := if x.bub then el.acc else
          match el.acc with
          | none => some (x.imageOr (s.free + 2))
          | some a => if same then some (a.plus (x.imageOr (s.free + 2)))
            else some (freeImage a.lanes.length (s.free + 6))
        let psn := el.flag || x.psn || !same
        let bad := el.expired || !same
        if x.ends then
          let hd := hSetPsn (vecHdr fmtCSIMG [x] first.rows first.cols) psn
          let out := match acc with
            | some a => imageTok hd (a.made s.free)
            | none => bubble hd
          [{ el with acc := none, kept := none, flag := false, expired := false }.vecOut [0] out bad 480]
        else
          [{ Firing.of [0] [] { el with acc := acc, kept := some first, flag := psn, expired := bad } 480 with
              post := fun u => { u with free := u.free + 16 } }]

/-! ## Reductions (R216) -/

/-- What a reduction has gathered for one output: kept, the first token; held, the partial result of RDMAX and RDMIN;
acc, that of RDADD; flag, PSN; expired, a token left out; ta and tl mark LR and LS seen. -/
structure Gather where
  first : Option Token
  codes : Option (List Nat)
  acc : Option Image
  psn : Bool
  bad : Bool
  lr : Bool
  ls : Bool

/-- One token joins a reduction; one of another shape is left out of it. -/
def Gather.add (g : Gather) (rd : Nat) (fmt : Nat) (d : Nat) (t : Token) : Gather :=
  let first := g.first.getD t
  let same := first.rows = t.rows && first.cols = t.cols
  let g := { g with
    first := some first
    psn := g.psn || t.psn || !same
    bad := g.bad || !same
    lr := g.lr || (same && t.lr)
    ls := g.ls || (same && t.ls) }
  if t.bub || !same then g
  else if rd = 1 then
    let i := if isImg t.fmt then t.imageOr d else imageOfTile ((List.range t.rows).flatMap t.rowValues)
    { g with acc := some (match g.acc with
      | some a => a.plus i
      | none => i) }
  else
    { g with codes := some (match g.codes with
      | some cs => (cs.zip t.codes).map fun ab => extremeCode (rd == 2) fmt ab.1 ab.2
      | none => t.codes.map fun c => extremeCode (rd == 2) fmt c c) }

/-- The token a reduction emits. -/
def Gather.out (g : Gather) (c : SiteCfg) (d : Nat) : Option Token :=
  match g.first with
  | none => none
  | some f =>
    let hd := hData c.ofmt f.rows f.cols (hChn f.hdr) (hSrc f.hdr) (hEp f.hdr)
    let hd := hSetPsn (hSetLs (hSetLr hd g.lr) g.ls) g.psn
    some <|
      match g.acc, g.codes with
      | some a, _ =>
        if isImg c.ofmt then imageTok hd (a.made d)
        else ⟨hd, resolveBody c.ofmt false (fun _ _ => Round.of2 (c.mode / 2)) a f.cols⟩
      | none, some cs => elemTok hd cs
      | none, none => bubble hd

/-- The reduction of an element so far. -/
def Elem.gather (el : Elem) : Gather where
  first := el.kept
  codes := el.tl.map Token.codes
  acc := el.acc
  psn := el.flag
  bad := el.expired
  lr := el.busy
  ls := el.ep

/-- The element that holds a reduction. -/
def Elem.gathered (el : Elem) (g : Gather) : Elem :=
  { el with
    kept := g.first
    tl := match g.codes, g.first with
      | some cs, some f => some ⟨f.hdr, .elems cs []⟩
      | _, _ => none
    acc := g.acc
    flag := g.psn
    expired := g.bad
    busy := g.lr
    ep := g.ls }

/-- No reduction. -/
def Gather.empty : Gather := ⟨none, none, none, false, false, false, false⟩

/-- RDADD, RDMAX and RDMIN: op 1, 2 and 3. Log entries 28 (DEDUCED), 29 (DEDUCED). -/
def State.reduce (s : State) (rd : Nat) : Outcome State Fault Refusal :=
  s.fireElem 8 rd fun el h =>
    let ins := if el.cfg.modeBit 12 then [0] else el.cfg.inputs
    let heads := ins.filterMap fun i =>
      if isImg (el.cfg.ifmt.getD i 0) || el.cfg.ifmt.getD i 0 = fmtANY then dataHead h i else fitHead s el h i
    if heads.length != ins.length || ins.isEmpty then []
    else
      let g := heads.foldl (fun g t => g.add rd el.cfg.ofmt (s.free + 4) t) el.gather
      if el.cfg.modeBit 12 && !(heads.any (·.ends)) then
        [{ Firing.of ins [] (el.gathered g) 0 with post := fun u => { u with free := u.free + 16 } }]
      else
        match g.out el.cfg s.free with
        | none => []
        | some t => [(el.gathered .empty).vecOut ins t g.bad 0]

def execRdadd (s : State) : Outcome State Fault Refusal := s.reduce 1
def execRdmax (s : State) : Outcome State Fault Refusal := s.reduce 2
def execRdmin (s : State) : Outcome State Fault Refusal := s.reduce 3

end Sys2Proof.Machine
end

