-- ==== Sys2Proof/Machine/MemNode.lean ====
section
/-! DEFINITION. Memory-node operations (R218-R221) and stream buffers (R73, R301-R304). -/

namespace Sys2Proof.Machine

open Host (Outcome)

/-! ## Entries (R218) -/

/-- The address of a byte of a memory node's site. -/
def nodeAddr (r site off : Nat) : Nat := mnAddr r (mnOfSite site) off

/-- The size of a token in an entry. -/
def entrySize (t : Token) : Nat := 8 + payloadBytes t.hdr + scaleBytes t.hdr

/-- A token as an entry holds it: a poisoned bubble of its shape where it is too large. -/
def fitEntry (size : Nat) (t : Token) : Token × Bool :=
  if entrySize t ≤ size then (t, false) else (bubble (hSetPsn t.hdr true), true)

/-- The bytes of an entry. -/
def entryBytes (t : Token) : List Byte := bytesOf 8 t.hdr.toNat ++ t.payload ++ t.scaleList

/-- The token an entry's bytes hold. -/
def State.entryTok (s : State) (a : Nat) : Token :=
  let h := wd (numOf (s.load a 8))
  let n := payloadBytes h
  ⟨h, bodyOf h (s.load (a + 8) n) (s.load (a + 8 + n) (scaleBytes h))⟩

/-- A token whose bytes could not be read: its header poisoned, its elements or lanes free (R308, R340).
Log entry 40 (DEDUCED). -/
def State.spoiled (s : State) (t : Token) : Token :=
  let h := hSetPsn t.hdr true
  if !t.isData then ctlTok h else if t.bub then bubble h else if isImg t.fmt then imageTok h (freeImage (t.rows * t.cols) s.free) else freeTok h s.free

/-- The firing that emits a token read at an address: where a granule of its bytes is poisoned, the token is emitted
poisoned and logged (R308, R340). Log entry 40 (DEDUCED). -/
def State.reading (s : State) (bad : Bool) (a : Nat) (t : Token) (f : Token → Firing) : Firing :=
  if bad then
    { (f (s.spoiled t)).logging [⟨0x04, t.hdr, wd a, hSetPsn t.hdr true⟩] with
      post := fun u => { u with free := u.free + 16 } }
  else f t

/-- The bytes of an entry meet a poisoned granule. -/
def State.entryBad (s : State) (a : Nat) : Bool := s.poisoned a (entrySize (s.entryTok a))

/-- Entry e of the buffer at a site. -/
def entryAddr (r site : Nat) (c : SiteCfg) (e : Nat) : Nat := nodeAddr r site (c.par 0 + e * c.par 1)

/-- Energy of a memory node (R221). -/
def nodeTenths (t : Token) : Nat := 20 + 22 * t.beats

/-- The firing that writes a token into entry e. Log entry 40 (DEDUCED). -/
def storeEntry (s : State) (el : Elem) (t : Token) (e : Nat) (el' : Elem) : Firing :=
  let (u, big) := fitEntry (el.cfg.par 1) t
  let a := entryAddr s.site.r s.site.s el.cfg e
  let f := { Firing.of [0] [] el' (nodeTenths u) with post := fun v => v.store a (entryBytes u) }
  if big then f.logging [el.ownCheck u] else f

/-- BUFW (R218): cnt holds the full bits, ptr the next entry. -/
def execBufw (s : State) : Outcome State Fault Refusal :=
  s.fireElem 1 1 fun el h =>
    match dataHead h 0 with
    | none => []
    | some t =>
      if el.cnt.testBit el.ptr then []
      else [storeEntry s el t el.ptr { el with cnt := el.cnt + 2 ^ el.ptr, ptr := (el.ptr + 1) % el.cfg.par 2 }]

/-- A token a buffer stores: data or XCH. -/
def storable (h : Nat → Option Token) : Option Token :=
  match h 0 with
  | some t => if t.isData || t.kind == .xch then some t else none
  | none => none

/-- BUFR (R218): cnt entries are full, from ptr on. -/
def execBufr (s : State) : Outcome State Fault Refusal :=
  s.fireElem 1 2 fun el h =>
    let n := el.cfg.par 2
    let emit :=
      if el.cnt = 0 then []
      else
        let a := entryAddr s.site.r s.site.s el.cfg el.ptr
        [s.reading (s.entryBad a) a (s.entryTok a) fun t =>
          Firing.of [] [(0, t)] { el with cnt := el.cnt - 1, ptr := (el.ptr + 1) % n } (nodeTenths t)]
    let fill := match storable h with
      | some t => if el.cnt < n then [storeEntry s el t ((el.ptr + el.cnt) % n) { el with cnt := el.cnt + 1 }] else []
      | none => []
    emit ++ fill

/-- The firing that fills the next entry of BUFRP and BUFRN: cnt entries are filled, busy once filling ends. -/
def fillEntry (s : State) (el : Elem) (h : Nat → Option Token) : List Firing :=
  if el.busy then []
  else
    match storable h with
    | none => []
    | some t =>
      let n := el.cnt + 1
      [storeEntry s el t el.cnt { el with cnt := n, busy := n == el.cfg.par 2 || (t.isData && t.ls), ptr := 0, pos := 0 }]

/-- BUFRP (R218): pos passes are done. Log entry 127 (DESIGN CHOICE). -/
def execBufrp (s : State) : Outcome State Fault Refusal :=
  s.fireElem 1 3 fun el h =>
    let emit :=
      if !el.busy then []
      else
        let a := entryAddr s.site.r s.site.s el.cfg el.ptr
        let endPass := el.ptr + 1 == el.cnt
        let lastPass := el.pos + 1 == el.cfg.par 3
        let out (t : Token) : Token :=
          if endPass && t.isData then t.withHdr (hSetLs (hSetLr t.hdr true) (lastPass && t.ls)) else t
        let el' := if !endPass then { el with ptr := el.ptr + 1 }
          else if !lastPass then { el with ptr := 0, pos := el.pos + 1 }
          else { el with busy := false, cnt := 0, ptr := 0, pos := 0 }
        [s.reading (s.entryBad a) a (s.entryTok a) fun t => Firing.of [] [(0, out t)] el' (nodeTenths t)]
    emit ++ fillEntry s el h

/-- BUFRN (R218). Log entry 40 (DEDUCED). -/
def execBufrn (s : State) : Outcome State Fault Refusal :=
  s.fireElem 1 4 fun el h =>
    let emit :=
      if !el.busy then []
      else
        match dataHead h 1 with
        | none => []
        | some ix =>
          let at_ (e : Nat) := entryAddr s.site.r s.site.s el.cfg e
          let entry (e : Nat) := s.entryTok (at_ e)
          let mark (t : Token) : Token := t.withHdr (hSetLs (hSetLr t.hdr ix.lr) ix.ls)
          let head0 := s.poisoned (at_ 0) 8
          let el' := if ix.ls then { el with busy := false, cnt := 0, ptr := 0, pos := 0 } else el
          match ix.first with
          | some x =>
            if x < el.cnt then
              [s.reading (s.entryBad (at_ x)) (at_ x) (entry x) fun t => Firing.of [1] [(0, mark t)] el' (nodeTenths t)]
            else
              [s.reading head0 (at_ 0) (bubble (entry 0).hdr) fun t => el'.emit1 [1] 0 (mark t) true 20]
          | none =>
            [s.reading head0 (at_ 0) (bubble (entry 0).hdr) fun t => Firing.of [1] [(0, mark t)] el' 20]
    emit ++ fillEntry s el h

/-! ## Scratch (R219) -/

/-- The address of byte i of a scratch access. -/
def scratchAddr (r site : Nat) (c : SiteCfg) (o i : Nat) : Nat := nodeAddr r site (c.par 0 + (o + i) % c.allocSize)

/-- The bytes of a scratch access from byte i on, cut where the window of m bytes wraps (R219).
Log entry 40 (DEDUCED). -/
def scratchCut (m o : Nat) : Nat → Nat → List Byte → List (Nat × List Byte)
  | 0, _, _ => []
  | f + 1, i, bs =>
    let k := m - (o + i) % m
    if bs.isEmpty then [] else (i, bs.take k) :: scratchCut m o f (i + k) (bs.drop k)

/-- SCRW (R219). Log entry 40 (DEDUCED). -/
def execScrw (s : State) : Outcome State Fault Refusal :=
  let r := s.site.r
  let site := s.site.s
  s.fireElem 1 5 fun el h =>
    match dataHead h 0, fitHead s el h 1 with
    | some t, some o =>
      let f := Firing.of [0, 1] [] el (nodeTenths t)
      match o.first with
      | none => [f]
      | some off =>
        let bs := t.payload ++ t.scaleList
        let put (u : State) (x : Nat × List Byte) : State := u.store (scratchAddr r site el.cfg off x.1) x.2
        [{ f with post := fun u => (scratchCut el.cfg.allocSize off (bs.length + 1) 0 bs).foldl put u }]
    | _, _ => []

/-- The n bytes of a scratch access meet a poisoned granule. -/
def State.scratchBad (s : State) (r site : Nat) (c : SiteCfg) (o n : Nat) : Bool :=
  (List.range n).any fun i => s.poisoned (scratchAddr r site c o i) 1

/-- SCRR (R219). -/
def execScrr (s : State) : Outcome State Fault Refusal :=
  let r := s.site.r
  let site := s.site.s
  s.fireElem 1 6 fun el h =>
    match fitHead s el h 0 with
    | none => []
    | some o =>
      let rows := el.cfg.par 2 % 32 + 1
      let cols := el.cfg.par 2 / 32 % 32 + 1
      let hd := hSetLs (hSetLr (hData el.cfg.ofmt rows cols (hChn o.hdr) (hSrc o.hdr) (hEp o.hdr)) o.lr) o.ls
      let fire (t : Token) : Firing :=
        { Firing.of [0] [(0, t)] el (nodeTenths t) with post := fun u => { u with free := u.free + 16 } }
      match o.first with
      | none => [fire (bubble hd)]
      | some off =>
        let n := payloadBytes hd
        let m := scaleBytes hd
        let rd (i : Nat) : Byte := Memory.byte s.mem (scratchAddr r site el.cfg off i)
        [s.reading (s.scratchBad r site el.cfg off (n + m)) (scratchAddr r site el.cfg off 0)
          ⟨hd, bodyOf hd ((List.range n).map rd) ((List.range m).map fun i => rd (n + i))⟩ fire]

/-! ## Stream buffers (R73, R302-R304) -/

/-- The handle of an INGR or EGR. -/
def SiteCfg.handle (c : SiteCfg) : Nat := c.par 0

/-- The address of a ring offset. -/
def ringAddr (h : Nat) (b : SBuf) (off : Nat) : Nat := mnAddr (field h 30 24) (field h 23 19) (b.base + off % b.cap)

/-- Bytes written from a ring offset on. -/
def State.writeRing (s : State) (h : Nat) (b : SBuf) (off : Nat) (bs : List Byte) : State :=
  let k := b.cap - off % b.cap
  if bs.length ≤ k then s.store (ringAddr h b off) bs
  else (s.store (ringAddr h b off) (bs.take k)).store (ringAddr h b 0) (bs.drop k)

/-- The bytes of tokens. -/
def tokBytes (ts : List Token) : Nat := (ts.map fun t => ringSize t.hdr).sum

/-- A stream buffer that a handle reaches from a region (R302): it lives, and its region is in the task's partition. -/
def State.bufferFor (s : State) (r h : Nat) : Option SBuf :=
  match s.sbufs.find? h with
  | none => none
  | some b => if s.partOf (field h 30 24) == s.partOf r then some b else none

/-- What a push does to a buffer (R303): it stalls, or the buffer after it, what it writes, and what it logs. -/
inductive Push where
  | stall
  | done (b : SBuf) (write : Option Nat) (log : Option Word)

/-- A token is pushed (R303). -/
def SBuf.push (b : SBuf) (t : Token) : Push :=
  if b.skipping then .done { b with skipping := !(t.isData && t.ends) } none none
  else
    let n := ringSize t.hdr
    let msg := tokBytes (b.toks.drop b.ready)
    let ends := t.isData && t.ends
    if msg + n > b.cap then
      let occ := b.occ - msg
      let tail := (b.head + occ) % b.cap
      .done { b with toks := b.toks.take b.ready, occ := occ, skipping := !ends } none
        (some (wd (tail + 2 ^ 32 * (msg + n))))
    else if b.occ + n > b.cap then .stall
    else
      let toks := b.toks ++ [t]
      .done { b with toks := toks, occ := b.occ + n, ready := if ends then toks.length else b.ready }
        (some (b.head + b.occ)) none

/-- A buffer takes a token's place among the buffers. -/
def State.setSbuf (s : State) (h : Nat) (b : SBuf) : State := { s with sbufs := s.sbufs.put h b }

/-- Bytes and buffer after a push. -/
def State.pushed (s : State) (h : Nat) (b : SBuf) (t : Token) (off : Option Nat) : State :=
  match off with
  | some o => (s.setSbuf h b).writeRing h b o t.ringBytes
  | none => s.setSbuf h b

/-- A token that goes to a remote buffer (R399): its header and payload words, in the next frame of the peer. -/
def tokenWords (t : Token) : List Word := bytesToWords t.ringBytes

/-- The peer of a remote handle (R398). -/
def remotePort (h : Nat) : Nat := field h 30 25

/-- The stream of a buffer, by the buffer's part of a handle (R398). -/
def Peer.stream (p : Peer) (h : Nat) : Stream := p.streams.getD (h % 2 ^ 25) .initial
def Peer.setStream (p : Peer) (h : Nat) (x : Stream) : Peer := { p with streams := p.streams.put (h % 2 ^ 25) x }

/-- The frames that a peer has yet to answer. -/
def Peer.unanswered (p : Peer) : List Frame := p.streams.flatMap fun kx => kx.2.sent

/-- The local ports that may carry traffic to a peer: bytes 18 to 20 of its entry in the table (R398). -/
def State.peerPorts (s : State) (k : Nat) : List Nat :=
  (List.range 24).filter fun n => (numOf (s.load (s.svc.peer.toNat + 32 * k + 18) 3)).testBit n

/-- A frame is counted on one of the ports it may use (R395, R399). Log entry 89 (DESIGN CHOICE). -/
def State.countFrame (s : State) (peer : Nat) (f : Frame) : State :=
  let ps := s.peerPorts peer
  let n := ps.getD (Config.portChoice s.free % ps.length) 0
  (s.countLink (n + 1) (64 * f.words.length)).draw

/-- A token leaves for a remote buffer in a frame of its own (R399). Log entry 89 (DESIGN CHOICE). -/
def State.sendRemote (s : State) (h : Nat) (t : Token) : State :=
  let p := s.peer (remotePort h)
  let x := p.stream h
  let f : Frame := ⟨x.next, BitVec.ofNat 32 h, tokenWords t⟩
  (s.setPeer (remotePort h)
    { p.setStream h { x with sent := x.sent ++ [f], next := x.next + 1 } with
      wire := p.wire ++ [f]
      since := if p.unanswered.isEmpty then s.now else p.since }).countFrame (remotePort h) f

/-- What a peer's record says (R398): nothing valid, no local port permitted, or ports that may carry traffic. -/
inductive PeerRec where
  | dead
  | closed
  | open
  deriving DecidableEq, Repr

/-- The record of a peer in the table at net.peer (R398). -/
def State.peerRec (s : State) (k : Nat) : PeerRec :=
  let a := s.svc.peer.toNat + 32 * k
  if !(inMap a && inMap (a + 31)) || s.poisoned a 32 || !(Memory.byte s.mem (a + 21)).getLsbD 0 then .dead
  else if numOf (s.load (a + 18) 3) = 0 then .closed
  else .open

/-- A peer has answered nothing for 1 ms (R399). Log entry 89 (DESIGN CHOICE). -/
def Peer.mute (p : Peer) (now : Nat) : Bool := p.silent || (!p.unanswered.isEmpty && p.since + 1000000 ≤ now)

/-- A frame may leave for a buffer of a peer now (R399). Log entry 89 (DESIGN CHOICE). -/
def Peer.mayTake (p : Peer) (h now : Nat) : Bool :=
  !p.mute now && ((p.stream h).sent.isEmpty || (p.stream h).sent.length ≤ Config.remoteWindow)

/-- EGR (R73, R302, R303, R399). Log entry 41 (DEDUCED). -/
def execEgr (s : State) : Outcome State Fault Refusal :=
  let r := s.site.r
  let key := siteKey r s.site.s
  s.fireElem 10 2 fun el h =>
    match h 0 with
    | none => []
    | some t =>
      let hd := el.cfg.handle
      if !(t.isData || t.kind == .xch) then []
      else if hd.testBit 31 then
        match s.peerRec (remotePort hd) with
        | .dead => [(Firing.of [0] [] el 0).logging [⟨0x06, t.hdr, wd hd, t.hdr⟩]]
        | .closed => []
        | .open =>
          if (s.peer (remotePort hd)).mayTake hd s.now then
            [{ Firing.of [0] [] el 0 with post := fun u => u.sendRemote hd t }]
          else []
      else
        match s.bufferFor r hd with
        | none => [(Firing.of [0] [] el 0).logging [⟨0x06, t.hdr, wd hd, t.hdr⟩]]
        | some b =>
          if b.egr != some key then [(Firing.of [0] [] el 0).logging [⟨0x07, t.hdr, wd hd, 0⟩]]
          else
            match b.push t with
            | .stall => []
            | .done b' off lg =>
              let f := { Firing.of [0] [] el 0 with post := fun u => u.pushed hd b' t off }
              [match lg with
                | some a => f.logging [⟨0x07, t.hdr, wd hd, a⟩]
                | none => f]

/-- A token read back from the bytes of a ring: an image has yet to pass ALD (R270). -/
def Token.reload (t : Token) : Token :=
  match t.body with
  | .image i => ⟨t.hdr, .image (imageOf t.fmt (t.rows * t.cols) (i.bytes t.fmt))⟩
  | _ => t

/-- The next token of the oldest complete message, and the buffer after it is emitted (R304). -/
def SBuf.pop (b : SBuf) : Option (Token × SBuf) :=
  if b.ready = 0 then none
  else
    match b.toks[b.popped]? with
    | none => none
    | some t =>
      if t.isData && t.ends then
        let n := tokBytes (b.toks.take (b.popped + 1))
        let k := b.popped + 1
        let b' := { b with toks := b.toks.drop k, ready := b.ready - k, occ := b.occ - n, popped := 0 }
        some (t.reload, { b' with head := (b.head + n) % b.cap, taken := b.taken + 1 })
      else some (t.reload, { b with popped := b.popped + 1, taken := b.taken + 1 })

/-- The bytes of the token that is popped next meet a poisoned granule of the ring (R303). -/
def State.ringBad (s : State) (h : Nat) (b : SBuf) (t : Token) : Bool :=
  let off := (b.head + tokBytes (b.toks.take b.popped)) % b.cap
  let n := ringSize t.hdr
  let k := min n (b.cap - off)
  s.poisoned (ringAddr h b off) k || s.poisoned (ringAddr h b 0) (n - k)

/-- The chainage that follows a token's. -/
def nextOf (t : Token) : Nat := if t.ls then 0 else (hChn t.hdr + 1) % 2 ^ 24

/-- INGR (R73, R302, R304).  A handle that names no buffer gives one poisoned token with an empty header (flag); a second
INGR emits nothing, and is logged for each token that comes to stand first in the buffer (ptr, pos).
Log entry 41 (DEDUCED). -/
def execIngr (s : State) : Outcome State Fault Refusal :=
  let r := s.site.r
  let key := siteKey r s.site.s
  s.fireElem 10 1 fun el _ =>
    let hd := el.cfg.handle
    match s.bufferFor r hd with
    | none =>
      if el.flag then []
      else
        let f := if el.cfg.ofmt = fmtANY then 0x01 else el.cfg.ofmt
        let t := bubble (hSetPsn (hData f 1 1 0 0 el.ep) true)
        [(Firing.of [] [(0, t)] { el with flag := true } 0).logging [⟨0x04, t.hdr, wd hd, t.hdr⟩]]
    | some b =>
      if b.ingr != some key then
        if b.ready = 0 || el.ptr = b.taken + 1 then []
        else [(Firing.of [] [] { el with ptr := b.taken + 1 } 0).logging [⟨0x07, 0, wd hd, 0⟩]]
      else
        match b.pop with
        | none => []
        | some (t, b') =>
          let el' := if t.isData then { el with chn := nextOf t } else el
          let f := s.reading (s.ringBad hd b t) hd t fun t => Firing.of [] [(0, t)] el' 0
          [{ f with post := fun u => (f.post u).setSbuf hd b' }]

end Sys2Proof.Machine
end

