-- ==== Sys2Proof/Machine/AddrGen.lean ====
section
/-! DEFINITION. Address generators: affine walks, gather, scatter and atomic streams, and the accesses they issue
(R222-R225, R229, R289, R308, R361). -/

namespace Sys2Proof.Machine

open Host (Outcome)

/-! ## Descriptors (R222, R223, R289) -/

/-- The descriptor's address. -/
def SiteCfg.descAddr (c : SiteCfg) : Nat := c.par 0 + 2 ^ 32 * (c.par 1 % 2 ^ 20)

/-- A descriptor's fields from its eight words. -/
def descOf (ws : List Word) : Desc :=
  let w (i : Nat) : Word := ws.getD i 0
  { base := w 0
    n0 := bitsOf (w 1) 0 16
    n1 := bitsOf (w 1) 16 16
    n2 := bitsOf (w 1) 32 16
    s0 := w 2
    s1 := w 3
    s2 := w 4
    rstride := bitsOf (w 5) 0 32
    soff := signedOf 32 (bitsOf (w 5) 32 32)
    rows := bitsOf (w 6) 0 5 + 1
    cols := bitsOf (w 6) 5 5 + 1
    fmt := bitsOf (w 6) 10 5
    lrn := (w 6).getLsbD 15 }

/-- A descriptor is good for an opcode (R223, R289). Log entry 38 (DEDUCED). -/
def descGood (c : SiteCfg) (ws : List Word) : Bool :=
  let d := descOf ws
  let w (i : Nat) : Word := ws.getD i 0
  let fmtOk := isInt d.fmt || d.fmt = fmtF16 || d.fmt = fmtBF16 || d.fmt = fmtF32 || isMx d.fmt
  bitsOf (w 0) 52 12 = 0 && bitsOf (w 1) 48 16 = 0 && bitsOf (w 6) 16 48 = 0 && w 7 = 0 && d.n0 != 0 && d.n1 != 0 &&
    d.n2 != 0 && fmtOk &&
    (c.op ≤ 3 ||
      (d.rows = 1 && d.rstride = 0 && d.s1 = 0 && d.s2 = 0 && !d.lrn && d.n1 = 1 && d.n2 = 1 &&
        (c.op != 6 || (d.fmt = c.ifmt.getD 0 0 && d.base.toNat % (fmtBits d.fmt / 8) = 0 &&
          d.s0.toNat % (fmtBits d.fmt / 8) = 0))))

/-- The element in focus that is an address generator. -/
def State.genAt (s : State) : Option (Nat × Ctx × Elem) :=
  match s.elemAt s.site.r s.site.s with
  | some (cid, c, el) => if el.cfg.kind = 2 then some (cid, c, el) else none
  | none => none

/-- The element at the site in focus takes another's place; a delivered response is a movement (R114). -/
def State.setGen (s : State) (cid : Nat) (c : Ctx) (el : Elem) : State :=
  { s with ctxs := s.ctxs.put cid { c with elems := c.elems.put (siteKey s.site.r s.site.s) el } }.moved s.site.r

/-- AG_DESCRIPTOR_FETCH (R222): the fetched descriptor arrives; one that cannot be read, or breaks a rule, is bad.
A page fault leaves the fetch to AG_PAGE_FAULT. -/
def execAgDescriptorFetch (s : State) : Outcome State Fault Refusal :=
  match s.genAt with
  | none => .next s
  | some (cid, c, el) =>
    if el.desc != .fetching || el.stall.isSome || (s.seq s.site.r).frozen ||
        s.fenced cid c (siteKey s.site.r s.site.s) el false then .next s
    else
      let a := el.cfg.descAddr
      match s.runAt (s.regionTr s.site.r) .read a 64 with
      | .error .wait => .next s
      | .error (.fail .unmapped _) => .next s
      | .error (.fail _ _) =>
        .next (((s.countWalk a).setGen cid c { el with desc := .bad, rdone := el.rdone + 1 }).log s.site.r (some s.site.s)
          0x04 0 (wd a) 0)
      | .ok ps =>
        let ws := bytesToWords (s.loadRuns ps)
        let ok := descGood el.cfg ws
        let walk : Option Walk := if el.cfg.op ≤ 3 && !el.cfg.modeBit 13 then some ⟨0, 0, 0, 0, false⟩ else none
        let el' := { el with
          desc := if ok then .ok (descOf ws) else .bad
          walk := if ok then walk else none
          rdone := el.rdone + 1 }
        .next (((s.setGen cid c el').readDone ps).countWalk a)

/-! ## Walks (R223) -/

/-- The address of a walk's next tile. -/
def tileAddr (d : Desc) (w : Walk) : Nat :=
  patOf 52 (d.base.toNat + w.off.toNat + w.i * d.s0.toInt + w.j * d.s1.toInt + w.k * d.s2.toInt)

/-- The tile is the last of its walk, and of its innermost run. -/
def Walk.last (d : Desc) (w : Walk) : Bool := w.empty || (w.i + 1 = d.n0 && w.j + 1 = d.n1 && w.k + 1 = d.n2)
def Walk.lastRun (d : Desc) (w : Walk) : Bool := w.empty || w.i + 1 = d.n0

/-- The walk after a tile. -/
def Walk.next (d : Desc) (w : Walk) : Option Walk :=
  if w.last d then none
  else if w.i + 1 < d.n0 then some { w with i := w.i + 1 }
  else if w.j + 1 < d.n1 then some { w with i := 0, j := w.j + 1 }
  else some { w with i := 0, j := 0, k := w.k + 1 }

/-- Bytes of a row of a tile. -/
def rowBytes (cols fmt : Nat) : Nat := (cols * fmtBits fmt + 7) / 8

/-- The runs of bytes of a tile's rows, and of its scales. -/
def tileRuns (d : Desc) (a : Nat) : List (Nat × Nat) :=
  ((List.range d.rows).map fun k => (a + k * d.rstride, rowBytes d.cols d.fmt)) ++
    if isMx d.fmt then [(patOf 52 (a + d.soff), d.rows)] else []

/-- The header of a stamped token: the element's counter, P2 and EP, with the walk's structure bits (R223, R224). -/
def walkHdr (el : Elem) (d : Desc) (fmt rows cols : Nat) (w : Walk) : Word :=
  hSetLs (hSetLr (hData fmt rows cols el.chn (el.cfg.par 2 % 256) el.ep) (d.lrn && w.lastRun d)) (w.last d)

/-- The element after it has stamped a token: its chainage counter advances, and its EP inverts after LS (R102, R223).
Log entry 93 (DEDUCED). -/
def Elem.stamped (el : Elem) (ls : Bool) : Elem := { el with chn := (el.chn + 1) % 2 ^ 24, ep := el.ep != ls }

/-- Row bytes as element codes. -/
def rowCodes (cols fmt : Nat) (bs : List Byte) : List Nat := unpackNat (fmtBits fmt) cols (numOf bs)

/-- The elements of rows that lie one after another in bytes, each row on its own bytes. -/
def rowsBody (rows cols fmt : Nat) (bs : List Byte) : Body :=
  let n := rowBytes cols fmt
  .elems (((chunks n (bs.take (rows * n))).take rows).flatMap (rowCodes cols fmt))
    (if isMx fmt then (bs.drop (rows * n)).map BitVec.toNat else [])

/-- The bytes of each row of a token. -/
def tokRows (t : Token) : List (List Byte) := (chunks t.cols t.codes).map fun row => packBytes (fmtBits t.fmt) row

/-- The firing in which an offset token starts a walk (R223): on i0 for AGSEQ and AGLD, on i1 for AGST. -/
def startWalk (s : State) (el : Elem) (h : Nat → Option Token) (i : Nat) : List Firing :=
  if el.cfg.modeBit 13 && el.walk.isNone && el.tile.isNone then
    match fitHead s el h i with
    | none => []
    | some t =>
      let w : Walk := match t.first with
        | some v => ⟨wd v, 0, 0, 0, false⟩
        | none => ⟨0, 0, 0, 0, true⟩
      let walk := if w.empty && el.cfg.op = 3 then none else some w
      [{ Firing.of [i] [] { el with walk := walk } 0 with post := fun u => { u with free := u.free + 16 } }]
  else []

/-- Energy of an address generator (R225). -/
def genTenths (t : Token) : Nat := 20 + 20 * t.beats

/-- The marker an AGLD makes of an XCH at its offset input (R229). -/
def marker (el : Elem) : Firing :=
  Firing.of [0] [(0, ctlTok (hControl 1 el.chn (el.cfg.par 2 % 256) el.ep))] el 20

/-- The poisoned bubble of a bad descriptor (R223): once in all, or once for each offset token; an AGLD still passes its
markers on (R229). Log entry 38 (DEDUCED). -/
def badWalk (el : Elem) (h : Nat → Option Token) (fmt cols : Nat) : List Firing :=
  let hd := hSetPsn (hSetLs (hData (if fmt = fmtANY then 0x01 else fmt) 1 cols el.chn (el.cfg.par 2 % 256) el.ep) true) true
  let el' := el.stamped true
  if el.cfg.modeBit 13 then
    match h 0 with
    | some x =>
      if x.isData then [el'.emit1 [0] 0 (bubble hd) true 20]
      else if el.cfg.op = 2 && x.kind == .xch then [marker el]
      else []
    | none => []
  else if el.flag then [] else [{ el' with flag := true }.emit1 [] 0 (bubble hd) true 20]

/-- AGSEQ (R224). Log entry 38 (DEDUCED). -/
def execAgseq (s : State) : Outcome State Fault Refusal :=
  s.fireElem 2 1 fun el h =>
    match el.desc with
    | .fetching => []
    | .bad => badWalk el h 0x08 1
    | .ok d =>
      match el.walk with
      | none => startWalk s el h 0
      | some w =>
        let hd := walkHdr el d 0x08 1 1 w
        let t := if w.empty then bubble hd else elemTok hd [tileAddr d w]
        [Firing.of [] [(0, t)] { el.stamped (w.last d) with walk := w.next d } (genTenths t)]

/-- AGLD (R224, R229): the fetched tile, an empty tile, the start of a walk, or a marker. Log entry 38 (DEDUCED). -/
def execAgld (s : State) : Outcome State Fault Refusal :=
  s.fireElem 2 2 fun el h =>
    match el.desc with
    | .fetching => []
    | .bad => badWalk el h el.cfg.ofmt (if isMx el.cfg.ofmt then 32 else 1)
    | .ok d =>
      match el.tile, el.walk with
      | some t, w =>
        let last := w.all fun w => w.last d
        [Firing.of [] [(0, t)] { el.stamped last with tile := none, walk := w.bind fun w => w.next d } (genTenths t)]
      | none, some w =>
        if w.empty then
          let t := bubble (walkHdr el d d.fmt d.rows d.cols w)
          [Firing.of [] [(0, t)] { el.stamped true with walk := none } (genTenths t)]
        else []
      | none, none =>
        match (if el.cfg.modeBit 13 then h 0 else none) with
        | some x =>
          if x.kind == .xch then [marker el] else startWalk s el h 0
        | none => []

/-- AGST (R224): the writes of a token to the next tile of the walk are issued.
Log entries 37 (DEDUCED), 38 (DEDUCED). -/
def execAgst (s : State) : Outcome State Fault Refusal :=
  s.fireElem 2 3 fun el h =>
    if el.stall.isSome then []
    else
      let drop (t : Token) (el' : Elem) : List Firing :=
        [(Firing.of [0] [] el' (genTenths t)).logging [⟨0x06, t.hdr, wd (match el.desc, el.walk with
          | .ok d, some w => tileAddr d w
          | _, _ => el.cfg.descAddr), t.hdr⟩]]
      match el.desc with
      | .fetching => []
      | .bad =>
        match dataHead h 0 with
        | some t => drop t el
        | none => if el.cfg.modeBit 13 then (match dataHead h 1 with
            | some t => [(Firing.of [1] [] el 0).logging [⟨0x06, t.hdr, wd el.cfg.descAddr, t.hdr⟩]]
            | none => []) else []
      | .ok d =>
        match el.walk with
        | none =>
          if el.cfg.modeBit 13 then startWalk s el h 1
          else
            match dataHead h 0 with
            | some t => drop t el
            | none => []
        | some w =>
          match dataHead h 0 with
          | none => []
          | some t =>
            let el' := { el with walk := w.next d }
            if t.rows != d.rows || t.cols != d.cols || t.fmt != d.fmt then drop t el'
            else if t.bub then [Firing.of [0] [] el' (genTenths t)]
            else
              let t := t.fit d.fmt s.free
              let a := tileAddr d w
              let runs := ((tileRuns d a).map (·.1)).zip (tokRows t ++ if isMx d.fmt then [t.scaleList] else [])
              [Firing.of [0] [] { el' with wq := el.wq ++ [⟨runs.map fun x => (wd x.1, x.2), t.hdr⟩] } (genTenths t)]

/-! ## Gather, scatter and atomic streams (R289) -/

/-- The indices an index token holds; none where it names no rows. -/
def indicesOf (t : Token) : Option (List Int) :=
  if isInt t.fmt && (t.rows = 1 || t.cols = 1) then some (t.codes.map (intOf t.fmt)) else none

/-- The address of row idx of a table. -/
def tableAddr (d : Desc) (idx : Int) : Nat := patOf 52 (d.base.toNat + idx * d.s0.toInt)

def idxValid (d : Desc) (idx : Int) : Bool := 0 ≤ idx && idx < d.n0

/-- The rows an AGGAT token is to hold: for each index, the run of its bytes and of its scale byte. -/
def gatherRuns (d : Desc) (ixs : List Int) : List (Nat × Nat) :=
  ixs.flatMap fun x =>
    if idxValid d x then
      (tableAddr d x, rowBytes d.cols d.fmt) :: if isMx d.fmt then [(patOf 52 (tableAddr d x + d.soff), 1)] else []
    else []

/-- The codes and scales of a gathered token: an invalid index gives a zero row with scale 0x7F. -/
def gatherRows (d : Desc) : List Int → List Byte → List Nat × List Nat
  | [], _ => ([], [])
  | x :: xs, bs =>
    let n := rowBytes d.cols d.fmt
    let m := if isMx d.fmt then 1 else 0
    if idxValid d x then
      let r := gatherRows d xs (bs.drop (n + m))
      (rowCodes d.cols d.fmt (bs.take n) ++ r.1, ((bs.drop n).take m).map BitVec.toNat ++ r.2)
    else
      let r := gatherRows d xs bs
      (List.replicate d.cols 0 ++ r.1, (if isMx d.fmt then [0x7F] else []) ++ r.2)

/-- The header of an AGGAT token (R289). -/
def gatherHdr (el : Elem) (d : Desc) (ix : Token) (rows : Nat) : Word :=
  hSetLs (hSetLr (hData d.fmt rows d.cols (hChn ix.hdr) (el.cfg.par 2 % 256) (hEp ix.hdr)) ix.lr) ix.ls

/-- The rows of an index token's shape. -/
def indexRows (t : Token) : Nat := max t.rows t.cols

/-- AGGAT: the gathered token; a bubble for a bubble or a malformed index, the latter poisoned and logged. -/
def execAggat (s : State) : Outcome State Fault Refusal :=
  s.fireElem 2 4 fun el h =>
    match el.desc with
    | .fetching => []
    | .bad =>
      match dataHead h 0 with
      | some ix =>
        let f := if el.cfg.ofmt = fmtANY then 0x01 else el.cfg.ofmt
        let hd := hSetLs (hData f 1 (if isMx f then 32 else 1) (hChn ix.hdr) (el.cfg.par 2 % 256) (hEp ix.hdr)) true
        [el.emit1 [0] 0 (bubble hd) true 20]
      | none => []
    | .ok d =>
      match dataHead h 0, el.tile with
      | some _, some t =>
        let bad := el.flag
        let f := Firing.of [0] [(0, t)] { el with tile := none, flag := false } (genTenths t)
        [if bad then f.logging [el.ownCheck t] else f]
      | some ix, none =>
        if ix.rows != 1 && ix.cols != 1 then [el.emit1 [0] 0 (bubble (gatherHdr el d ix 1)) true 20]
        else if ix.bub then [Firing.of [0] [(0, bubble (gatherHdr el d ix (indexRows ix)))] el 20]
        else []
      | none, _ => []

/-- AGSCT: each row with a valid index is a write of its own. Log entries 37 (DEDUCED), 38 (DEDUCED). -/
def execAgsct (s : State) : Outcome State Fault Refusal :=
  s.fireElem 2 5 fun el h =>
    if el.stall.isSome then []
    else
      match el.desc, dataHead h 0, dataHead h 1 with
      | .fetching, _, _ => []
      | .bad, some t, some _ =>
        [(Firing.of [0, 1] [] el (genTenths t)).logging [⟨0x06, t.hdr, wd el.cfg.descAddr, t.hdr⟩]]
      | .ok d, some t, some ix0 =>
        let ix := ix0.fit (el.cfg.ifmt.getD 1 0) (s.free + 4)
        let f := { Firing.of [0, 1] [] el (genTenths t) with post := fun u => { u with free := u.free + 16 } }
        let dropped := [f.logging [⟨0x06, t.hdr, d.base, t.hdr⟩]]
        if ix.rows != 1 && ix.cols != 1 then dropped
        else if ix.bub || t.bub then [f]
        else
          match indicesOf ix with
          | none => dropped
          | some ixs =>
            if t.rows != indexRows ix || t.cols != d.cols || t.fmt != d.fmt then dropped
            else
              let t := t.fit d.fmt s.free
              let rows := (ixs.zip (tokRows t)).zipIdx
              let writes := (rows.filter fun x => idxValid d x.1.1).map fun x =>
                (⟨(wd (tableAddr d x.1.1), x.1.2) ::
                    (if isMx d.fmt then [(wd (patOf 52 (tableAddr d x.1.1 + d.soff)), (t.scaleList.drop x.2).take 1)] else []),
                  t.hdr⟩ : ElWrite)
              let logs := (ixs.filter fun x => !idxValid d x).map fun x =>
                (⟨0x06, t.hdr, wd (tableAddr d x), t.hdr⟩ : LogRec)
              [{ f with el := { el with wq := el.wq ++ writes }, logs := logs }]
      | _, _, _ => []

/-- The new value of an AGATM element (R289). -/
def atomCode (m fmt old x : Nat) : Nat :=
  match m with
  | 0 => addCode fmt .rne old x
  | 1 => extremeCode false fmt old x
  | 2 => extremeCode true fmt old x
  | 3 => old &&& x
  | 4 => old ||| x
  | _ => x

/-- The state of an AGATM token's updates: memory, old values, failures, and whether a page fault stops it. -/
structure Atoms where
  s : State
  olds : List Nat
  errs : List (Nat × AccErr)
  stop : Bool

/-- An old value that no rule states: of an element that was not read. Log entry 39 (DEDUCED). -/
def Atoms.skip (fmt : Nat) (a : Atoms) : Atoms :=
  { a with olds := a.olds ++ [Config.freeElem a.s.free (200 + a.olds.length) % 2 ^ fmtBits fmt] }

/-- One element's read-modify-write. -/
def Atoms.step (tr : Perm → Nat → Except AccErr Nat) (m fmt : Nat) (a : Atoms) (va x : Nat) : Atoms :=
  let n := fmtBits fmt / 8
  match a.s.runAt tr .both va n with
  | .error .wait => { a with stop := true }
  | .error (.fail .unmapped _) => { a with stop := true }
  | .error (.fail e v) => { { a with s := a.s.countWalk va }.skip fmt with errs := a.errs ++ [(v, e)] }
  | .ok ps =>
    if ps.any fun p => a.s.poisoned p.1 p.2 then { a.skip fmt with errs := a.errs ++ [(va, .ecc)] }
    else
      let old := numOf (a.s.loadRuns ps)
      { a with s := (a.s.storeRuns ps (bytesOf n (atomCode m fmt old x))).countWalk va, olds := a.olds ++ [old] }

/-- AGATM: every element's update, in row order, then column order; a page fault leaves the token where it is.
Log entry 39 (DEDUCED). -/
def execAgatm (s : State) : Outcome State Fault Refusal :=
  let r := s.site.r
  s.fireElem 2 6 fun el h =>
    if el.stall.isSome then []
    else
      match el.desc, dataHead h 0, dataHead h 1 with
      | .fetching, _, _ => []
      | .bad, some t, some _ =>
        [(Firing.of [0, 1] [] el 20).logging [⟨0x06, t.hdr, wd el.cfg.descAddr, t.hdr⟩]]
      | .ok d, some t0, some ix0 =>
        let t := t0.fit d.fmt s.free
        let ix := ix0.fit (el.cfg.ifmt.getD 1 0) (s.free + 4)
        if ix.rows != 1 && ix.cols != 1 then [el.emit1 [0, 1] 0 (bubble t.hdr) true 20]
        else if ix.bub || t.bub then [Firing.of [0, 1] [(0, bubble t.hdr)] el 20]
        else
          match indicesOf ix with
          | none => [el.emit1 [0, 1] 0 (bubble t.hdr) true 20]
          | some ixs =>
            if t.rows != indexRows ix then
              [{ el.emit1 [0, 1] 0 (freeTok t.hdr (s.free + 8)) true 20 with post := fun u => { u with free := u.free + 16 } }]
            else
            let w := fmtBits d.fmt / 8
            let jobs := (ixs.zip (chunks t.cols t.codes)).flatMap fun xr =>
              if idxValid d xr.1 then xr.2.zipIdx.map fun vc => (some (tableAddr d xr.1 + vc.2 * w), vc.1)
              else xr.2.map fun v => (none, v)
            let run (u : State) : Atoms := jobs.foldl (fun a j => match j.1 with
              | some va => a.step (u.regionTr r) (el.cfg.mode / 2) d.fmt va j.2
              | none => a.skip d.fmt) ⟨u, [], [], false⟩
            let res := run s
            if res.stop then []
            else
              let badIx := ixs.any fun x => !idxValid d x
              let psn := badIx || !res.errs.isEmpty
              let out := elemTok (hSetPsn t.hdr (t.psn || psn)) res.olds
              let logs := res.errs.map fun e => (⟨0x04, t.hdr, wd e.1, t.hdr⟩ : LogRec)
              let el' := { el with wdone := el.wdone + 1, rdone := el.rdone + 1 }
              let f := { Firing.of [0, 1] [(0, out)] el' (20 + 10 * jobs.length) with post := fun u => { (run u).s with free := u.free + 16 } }
              [f.logging (logs ++ if badIx then [el.ownCheck out] else [])]
      | _, _, _ => []

/-! ## Memory responses and page faults (R225, R308) -/

/-- What the next response to an element is: a read with the token to build from its bytes, or a write. -/
inductive Pending where
  | read (runs : List (Nat × Nat)) (hdr : Word)
  | write (w : ElWrite) (rest : List ElWrite)
  | none

/-- A demand output of the element has a request on every arc (R94). -/
def Ctx.requested (c : Ctx) (key : Nat) : Bool := c.arcs.all fun a => a.src != key * 4 || a.req != 0

/-- The access an element awaits (R94, R224, R289). -/
def State.pendingAccess (s : State) (c : Ctx) (el : Elem) : Pending :=
  let key := siteKey s.site.r s.site.s
  match el.wq with
  | w :: rest => .write w rest
  | [] =>
    if el.tile.isSome || !c.requested key then .none
    else
      match el.desc, el.walk with
      | .ok d, some w =>
        if el.cfg.op = 2 && !w.empty then .read (tileRuns d (tileAddr d w)) (walkHdr el d d.fmt d.rows d.cols w) else .none
      | .ok d, none =>
        if el.cfg.op = 4 then
          match (s.headOf c key 0).map (received el.cfg 0) with
          | some ix0 =>
            let ix := ix0.fit (el.cfg.ifmt.getD 0 0) s.free
            match (if ix.isData && !ix.bub && (ix.rows = 1 || ix.cols = 1) then indicesOf ix else none) with
            | some ixs => .read (gatherRuns d ixs) (gatherHdr el d ix ixs.length)
            | none => .none
          | none => .none
        else .none
      | _, _ => .none

/-- The indices of the gather in progress. -/
def State.gatherIx (s : State) (c : Ctx) (el : Elem) : List Int :=
  match (s.headOf c (siteKey s.site.r s.site.s) 0).map (received el.cfg 0) with
  | some ix => (indicesOf (ix.fit (el.cfg.ifmt.getD 0 0) s.free)).getD []
  | none => []

/-- AG_MEMORY_RESPONSE (R225): the response to the element's next access arrives: a tile or rows, a poisoned token
where the read failed, a write performed or dropped.  A page fault is AG_PAGE_FAULT's.
Log entries 4 (DEDUCED), 37 (DEDUCED). -/
def execAgMemoryResponse (s : State) : Outcome State Fault Refusal :=
  match s.genAt with
  | none => .next s
  | some (cid, c, el) =>
    if el.stall.isSome || (el.passage != .open && el.wq.isEmpty) || s.group (groupOf s.site.r) == .gated then .next s
    else
      let tr := s.regionTr s.site.r
      match s.pendingAccess c el with
      | .none => .next s
      | .write w rest =>
        let el' := { el with wq := rest, wdone := el.wdone + 1 }
        match s.writeRuns tr (w.runs.map fun x => (x.1.toNat, x.2.length)) with
        | .error .wait => .next s
        | .error (.fail .unmapped _) => .next s
        | .error (.fail _ va) =>
          .next (((s.countWalk va).setGen cid c el').log s.site.r (some s.site.s) 0x04 w.hdr (wd va) w.hdr)
        | .ok ps => .next (((s.setGen cid c el').storeRuns ps (w.runs.flatMap (·.2))).walked (w.runs.map (·.1.toNat)))
      | .read runs hd =>
        if (s.seq s.site.r).frozen || s.fenced cid c (siteKey s.site.r s.site.s) el false then .next s
        else
          match s.readRuns tr runs with
          | .error .wait => .next s
          | .error (.fail .unmapped _) => .next s
          | .error (.fail _ va) =>
            let t := freeTok (hSetPsn hd true) s.free
            let bad := el.cfg.op = 4 && match el.desc with
              | .ok d => (s.gatherIx c el).any fun x => !idxValid d x
              | _ => false
            let s := { s with free := s.free + 16 }.countWalk va
            .next ((s.setGen cid c { el with tile := some t, flag := bad || el.flag, rdone := el.rdone + 1 }).log s.site.r
              (some s.site.s) 0x04 hd (wd va) t.hdr)
          | .ok ps =>
            let bs := s.loadRuns ps
            let s' := (s.readDone ps).walked (runs.map (·.1))
            let c := (s'.ctxs.find? cid).getD c
            if el.cfg.op = 2 then
              let t : Token := ⟨hd, rowsBody (hRows hd) (hCols hd) (hFmt hd) bs⟩
              .next (s'.setGen cid c { el with tile := some t, rdone := el.rdone + 1 })
            else
              match el.desc with
              | .ok d =>
                let ixs := s.gatherIx c el
                let bad := ixs.any fun x => !idxValid d x
                let rows := gatherRows d ixs bs
                let t : Token := ⟨hSetPsn hd (hPsn hd || bad), .elems rows.1 rows.2⟩
                .next (s'.setGen cid c { el with tile := some t, flag := bad, rdone := el.rdone + 1 })
              | _ => .next s

/-- The page fault an element's next access meets: its kind (R361) and its address. -/
def State.genFault (s : State) (c : Ctx) (el : Elem) : Option (Nat × Nat) :=
  let tr := s.regionTr s.site.r
  let of (kind : Nat) (r : Except RunErr (List (Nat × Nat))) : Option (Nat × Nat) := match r with
    | .error (.fail .unmapped va) => some (kind, va)
    | _ => none
  if el.desc == .fetching then of 0 (s.runAt tr .read el.cfg.descAddr 64)
  else
    match s.pendingAccess c el with
    | .write w _ => of 1 (s.writeRuns tr (w.runs.map fun x => (x.1.toNat, x.2.length)))
    | .read runs _ => of 0 (s.readRuns tr runs)
    | .none =>
      match el.cfg.op, el.desc with
      | 6, .ok d =>
        let key := siteKey s.site.r s.site.s
        match (s.headOf c key 0).map (received el.cfg 0), (s.headOf c key 1).map (received el.cfg 1) with
        | some t, some ix0 =>
          let ix := ix0.fit (el.cfg.ifmt.getD 1 0) (s.free + 4)
          if !(t.isData && ix.isData) || t.bub || ix.bub || (ix.rows != 1 && ix.cols != 1) || t.rows != indexRows ix then none
          else
            let w := fmtBits d.fmt / 8
            ((indicesOf ix).getD []).findSome? fun x =>
              if idxValid d x then (List.range t.cols).findSome? fun c => of 2 (s.runAt tr .both (tableAddr d x + c * w) w)
              else none
        | _, _ => none
      | _, _ => none

end Sys2Proof.Machine
end

