-- ==== Sys2Proof/Machine/FlowElems.lean ====
section
/-! DEFINITION. Steer, merge, carry, repeat, generator, rate-match, FAN, flag and queue elements (R62-R72, R210-R215,
R217, R230, R284). -/

namespace Sys2Proof.Machine

open Host (Outcome)

/-! ## Common rules (R62) -/

/-- A predicate token as MODE[13:12] reads it; a poisoned one reads false (R62).  Element (0,0) is non-zero where its
code is. Log entry 92 (DESIGN CHOICE). -/
def predicate (c : SiteCfg) (t : Token) : Bool :=
  let nz := match t.first with
    | some v => v != 0
    | none => false
  !t.psn && match c.mode % 4 with
    | 0 => nz
    | 1 => t.ls
    | _ => nz || t.ls

/-- A token leaves with PSN set where a poisoned predicate chose its way (R62). -/
def poisonIf (b : Bool) (t : Token) : Token := if b then t.poison else t

def flowTenths (t : Token) : Nat := 12 + 9 * t.beats
def carryTenths (t : Token) : Nat := 14 + 9 * t.beats

/-! ## Steer (R63-R65) -/

def execSteer (s : State) : Outcome State Fault Refusal :=
  s.fireElem 3 1 fun el h =>
    match dataHead h 0 with
    | none => []
    | some d =>
      if el.cfg.mode % 4 = 3 then [Firing.of [0] [(if d.ls then 1 else 0, d)] el (flowTenths d)]
      else
        match dataHead h 1 with
        | none => []
        | some p =>
          [Firing.of [0, 1] [(if predicate el.cfg p then 1 else 0, poisonIf p.psn d)] el (flowTenths d)]

/-- STEERN (R64). Log entry 121 (DESIGN CHOICE). -/
def execSteern (s : State) : Outcome State Fault Refusal :=
  s.fireElem 3 2 fun el h =>
    match dataHead h 0, dataHead h 1 with
    | some d, some p =>
      let out := if p.psn then [(0, d.poison)] else
        match p.first with
        | some v => if v < 4 then [(v, d)] else []
        | none => []
      [Firing.of [0, 1] out el (flowTenths d)]
    | _, _ => []

def execSink (s : State) : Outcome State Fault Refusal :=
  s.fireElem 3 3 fun el h =>
    match dataHead h 0 with
    | some _ => [Firing.of [0] [] el 4]
    | none => []

/-! ## Merge (R66-R68) -/

def execMerge (s : State) : Outcome State Fault Refusal :=
  s.fireElem 4 1 fun el h =>
    match dataHead h 0 with
    | none => []
    | some c =>
      let way := if predicate el.cfg c then 2 else 1
      match dataHead h way with
      | none => []
      | some d => [Firing.of [0, way] [(0, poisonIf c.psn d)] el (flowTenths d)]

/-- The number of entries of a list above a bound. -/
def above (n : Nat) (l : List Nat) : Nat := (l.filter (· > n)).length

/-- Waiting counts from which every waiting input can still be served within four firings (R67).
Log entry 20 (DEDUCED). -/
def servable (ws : List Nat) : Bool := above 0 ws ≤ 3 && above 1 ws ≤ 2 && above 2 ws ≤ 1 && above 3 ws = 0

/-- The input MERGEA serves (R67): the one chosen, where the other waiting inputs can still be served in time, else
the one that has waited longest. Log entry 20 (DEDUCED). -/
def mergeaPick (waits : List (Nat × Nat)) (choice : Nat) : Option Nat :=
  let left := fun (i : Nat) => (waits.filter fun w => w.1 != i).map fun w => w.2 + 1
  if waits.any (fun w => w.1 == choice) && servable (left choice) then some choice
  else (waits.foldl (fun (best : Option (Nat × Nat)) w =>
    match best with
    | some b => if b.2 < w.2 then some w else some b
    | none => some w) none).map (·.1)

/-- MERGEA (R67). Log entry 20 (DEDUCED). -/
def execMergea (s : State) : Outcome State Fault Refusal :=
  s.fireElem 4 2 fun el h =>
    let waits := (List.range 4).filterMap fun i => (dataHead h i).map fun _ => (i, el.starve.getD i 0)
    match mergeaPick waits s.choice with
    | none => []
    | some i =>
      match dataHead h i with
      | none => []
      | some d =>
        let st := (List.range 4).map fun j =>
          if j != i && waits.any (fun w => w.1 == j) then el.starve.getD j 0 + 1 else 0
        [Firing.of [i] [(0, d)] { el with starve := st } (flowTenths d)]

/-- The head with the least distance, then the least SRCID, then the lowest input (R104). -/
def leastHead (n : Nat) (hs : List (Nat × Token)) : Option (Nat × Token) :=
  hs.foldl (fun (best : Option (Nat × Token)) x =>
    match best with
    | none => some x
    | some b =>
      if chnKey n x.2.hdr < chnKey n b.2.hdr then some x else some b) none

def execMergec (s : State) : Outcome State Fault Refusal :=
  s.fireElem 4 3 fun el h =>
    let n := el.chn
    let hs := (List.range 4).filterMap fun i => (dataHead h i).map fun t => (i, t)
    let go (x : Nat × Token) (stale : Bool) : List Firing :=
      let n' := if x.2.ls then el.cfg.par 0 % 2 ^ 24 else (hChn x.2.hdr + 1) % 2 ^ 24
      let f := Firing.of [x.1] [(0, poisonIf stale x.2)] { el with chn := n' } (flowTenths x.2)
      [if stale then f.logging [⟨0x05, x.2.hdr, x.2.hdr, wd n⟩] else f]
    match leastHead n (hs.filter fun x => hChn x.2.hdr == n) with
    | some x => go x false
    | none =>
      if el.cfg.inputs.all fun i => match h i with
          | some t => t.isData || t.closed
          | none => false then
        match leastHead n hs with
        | some x => go x (chnDist (hChn x.2.hdr) n ≥ 2 ^ 23)
        | none => []
      else []

/-! ## Carry (R69, R70) -/

def execCarry (s : State) : Outcome State Fault Refusal :=
  s.fireElem 5 1 fun el h =>
    if !el.busy then
      match dataHead h 0 with
      | some d => [Firing.of [0] [(0, d)] { el with busy := true } (carryTenths d)]
      | none => []
    else
      match dataHead h 1 with
      | none => []
      | some c =>
        if predicate el.cfg c == el.cfg.modeBit 14 then
          match dataHead h 2 with
          | some d => [Firing.of [1, 2] [(0, poisonIf c.psn d)] el (carryTenths d)]
          | none => []
        else [Firing.of [1] [] { el with busy := false } 14]

def execInv (s : State) : Outcome State Fault Refusal :=
  s.fireElem 5 2 fun el h =>
    match el.kept with
    | none =>
      match dataHead h 0 with
      | some d => [Firing.of [0] [(0, d)] { el with busy := true, kept := some d } (carryTenths d)]
      | none => []
    | some d =>
      match dataHead h 1 with
      | none => []
      | some c =>
        if predicate el.cfg c == el.cfg.modeBit 14 then [Firing.of [1] [(0, poisonIf c.psn d)] el (carryTenths d)]
        else [Firing.of [1] [] { el with busy := false, kept := none } 14]

/-! ## Repeat (R210) -/

/-- The copy of a message's last token: LR set, LS only on the last copy of a stream's end (R210).
Log entry 22 (DESIGN CHOICE). -/
def lastCopy (ls : Bool) (t : Token) : Token := t.withHdr (hSetLs (hSetLr t.hdr true) ls)

/-- The firings of REPEAT and REPEATP: the copies of the held message; else the next token, with the count of its
message (flag: within a message; cnt: its count; pos: the copy; ptr: the next held token; expired: the source carried
LS).  A count token that is a bubble has no element (0,0), and its count is a free value.
Log entries 22 (DESIGN CHOICE), 118 (DESIGN CHOICE). -/
def repeatFirings (el : Elem) (h : Nat → Option Token) (count : Option (List Nat × Nat)) : List Firing :=
  if el.busy then
    match el.held[el.ptr]? with
    | none => []
    | some t =>
      let lastTok := el.ptr + 1 == el.held.length
      let lastPass := el.pos == el.cnt
      let out := if lastTok then lastCopy (lastPass && el.expired) t else t
      let el' :=
        if !lastTok then { el with ptr := el.ptr + 1 }
        else if !lastPass then { el with ptr := 0, pos := el.pos + 1 }
        else { el with busy := false, held := [], ptr := 0, pos := 0, expired := false }
      [Firing.of [] [(0, out)] el' (carryTenths out)]
  else
    match h 0 with
    | none => []
    | some t =>
      if t.kind == .xch then [Firing.of [0] [(0, t)] el (carryTenths t)]
      else if !t.isData then []
      else
        match (if el.flag then some ([], el.cnt) else count) with
        | none => []
        | some (ins, c) =>
          let fits := el.held.length < el.cfg.par 0 % 8
          let held := if c ≥ 1 && fits then el.held ++ [t] else el.held
          let again := t.ends && c ≥ 2 && !held.isEmpty
          let el' := { el with
            flag := !t.ends
            cnt := c
            held := if t.ends && !again then [] else held
            busy := again
            pos := if again then 2 else 0
            ptr := 0
            expired := again && t.ls }
          if c = 0 then [Firing.of (0 :: ins) [] el' 14]
          else
            let out := if t.ends then lastCopy (t.ls && c == 1) t else t
            [el'.emit1 (0 :: ins) 0 out (!fits) (carryTenths out)]

/-- REPEAT (R210). Log entry 22 (DESIGN CHOICE). -/
def execRepeatTok (s : State) : Outcome State Fault Refusal :=
  s.fireElem 6 1 fun el h =>
    repeatFirings el h ((dataHead h 1).map fun t => ([1], t.first.getD (Config.freeElem s.free 0))) |>.map
      fun f => { f with post := State.draw }

def execRepeatp (s : State) : Outcome State Fault Refusal :=
  s.fireElem 6 2 fun el h => repeatFirings el h (some ([], el.cfg.par 1))

/-! ## Generators (R211, R212) -/

/-- The firings of a generator whose i-th value is given, with LR on the last of every m. -/
def generate (el : Elem) (h : Nat → Option Token) (m : Nat) (v : Nat → Nat) : List Firing :=
  let src := el.cfg.par 3 % 256
  let nth (i : Nat) := m != 0 && (i + 1) % m == 0
  if el.cfg.uses 0 then
    match dataHead h 0 with
    | none => []
    | some t =>
      let hd := hSetLs (hSetLr (hData el.cfg.ofmt 1 1 (hChn t.hdr) src (hEp t.hdr)) (t.lr || nth el.cnt)) t.ls
      let out := if t.bub then bubble hd else elemTok hd [v el.cnt]
      [Firing.of [0] [(0, out)] { el with cnt := if t.ls then 0 else el.cnt + 1 } 0]
  else if el.cfg.par 2 != 0 && el.cnt ≥ el.cfg.par 2 then []
  else
    let ls := el.cfg.par 2 != 0 && el.cnt + 1 == el.cfg.par 2
    let hd := hSetLs (hSetLr (hData el.cfg.ofmt 1 1 el.chn src el.ep) (nth el.cnt)) ls
    [Firing.of [] [(0, elemTok hd [v el.cnt])]
      { el with cnt := el.cnt + 1, chn := (el.chn + 1) % 2 ^ 24, ep := el.ep != ls } 0]

def execConst (s : State) : Outcome State Fault Refusal :=
  s.fireElem 6 3 fun el h =>
    generate el h 0 fun _ => (el.cfg.par 0 + 2 ^ 32 * el.cfg.par 1) % 2 ^ fmtBits el.cfg.ofmt

def execCount (s : State) : Outcome State Fault Refusal :=
  s.fireElem 6 4 fun el h =>
    generate el h (el.cfg.par 3 / 256 % 256) fun i =>
      patOf (fmtBits el.cfg.ofmt) (el.cfg.par 0 + i * signedOf 32 (el.cfg.par 1))

/-! ## Rate-match (R213-R215, R230) -/

/--. Log entries 117 (DESIGN CHOICE), 126 (DESIGN CHOICE). -/
def execRatem (s : State) : Outcome State Fault Refusal :=
  s.fireElem 7 1 fun el h =>
    match h 0 with
    | none => []
    | some d =>
      if d.kind == .xch then [Firing.of [0] [(0, d)] el 0]
      else if !d.isData then []
      else
        match dataHead h 1 with
        | none => []
        | some sc =>
          let n := sc.codes.length
          let bad := el.pos + d.rows > n
          let pos := el.pos + d.rows
          let done := pos == n || d.ends
          let out := if bad || d.bub then d else mxTok d.hdr d.codes ((sc.codes.drop el.pos).take d.rows)
          [{ el with pos := if done then 0 else pos }.emit1 (if done then [0, 1] else [0]) 0 out bad 0]

def execScsplit (s : State) : Outcome State Fault Refusal :=
  s.fireElem 7 2 fun el h =>
    match dataHead h 0 with
    | none => []
    | some d =>
      let hd := hSetShape (hSetFmt d.hdr 0x05) d.rows 1
      let o0 := if d.bub then d else mxTok d.hdr d.codes (d.scales.map fun _ => 0x7F)
      let o1 := if d.bub then bubble hd else elemTok hd d.scales
      [Firing.of [0] [(0, o0), (1, o1)] el 0]

/--. Log entries 117 (DESIGN CHOICE), 126 (DESIGN CHOICE). -/
def execScjoin (s : State) : Outcome State Fault Refusal :=
  s.fireElem 7 3 fun el h =>
    match dataHead h 0, dataHead h 1 with
    | some d, some sc =>
      let bad := sc.codes.length != d.rows
      let hd := hSetLs (hSetLr d.hdr (d.lr || sc.lr)) (d.ls || sc.ls)
      let out := if bad || d.bub then d.withHdr hd else mxTok hd d.codes sc.codes
      [el.emit1 [0, 1] 0 out bad 0]
    | _, _ => []

/-! ## FAN (R217) -/

def execFan (s : State) : Outcome State Fault Refusal :=
  s.fireElem 9 2 fun el h =>
    match h 0 with
    | none => []
    | some t =>
      if t.closed then []
      else
        let os := el.cfg.outputs
        [Firing.of [0] (os.map fun o => (o, t)) el (10 + 9 * t.beats * os.length)]

/-! ## Port-node queues (R71, R72) -/

/-- The port node of a site (11, 4 + k). -/
def portOf (site : Nat) : Nat := site / 12 - 4

/-- INGRQ (R71): the oldest entry of the ingress queue becomes a token. Log entry 19 (DEDUCED). -/
def execIngrq (s : State) : Outcome State Fault Refusal :=
  let r := s.site.r
  let k := portOf s.site.s
  s.fireElem 10 3 fun el _ =>
    match (s.region r).ing.getD k [] with
    | [] => []
    | (inj, v) :: rest =>
      let src := el.cfg.par 0 % 256
      let out :=
        if inj then
          ⟨hSetEp (hSetSrc (hSetChn (v &&& 0xFFFFFFFF) el.chn) src) el.ep, .none⟩
        else elemTok (hData el.cfg.ofmt 1 1 el.chn src el.ep) [v.toNat % 2 ^ fmtBits el.cfg.ofmt]
      let el' := if out.isData then
          { el with chn := if out.ls then 0 else (el.chn + 1) % 2 ^ 24, ep := el.ep != out.ls, cnt := el.cnt - 1 }
        else { el with cnt := el.cnt - 1 }
      [{ Firing.of [] [(0, out)] el' 20 with
          post := fun t =>
            (t.updRegion r fun x => { x with ing := x.ing.put k rest }).latch r (1 <<< (4 + k)) }]

/-- The queue value of element (0,0) (R72); a token whose elements no rule gives has a free one.
Log entry 24 (DEDUCED). -/
def queueValue (t : Token) (d : Nat) : Word :=
  if t.bub then 0
  else
    match t.codes with
    | v :: _ => if isSigned t.fmt then wdi (signedOf (fmtBits t.fmt) v) else wd v
    | [] => wd (Config.freeElem d 0)

def execEgrq (s : State) : Outcome State Fault Refusal :=
  let r := s.site.r
  let k := portOf s.site.s
  s.fireElem 10 4 fun el h =>
    match dataHead h 0 with
    | none => []
    | some t =>
      let v := queueValue t s.free
      let es := match el.cfg.mode % 4 with
        | 0 => [v]
        | 1 => [t.hdr]
        | _ => [t.hdr, v]
      let q := (s.region r).egr.getD k []
      if q.length + es.length > 8 then []
      else
        [{ Firing.of [0] [] el 20 with
            post := fun u =>
              ((u.updRegion r fun x => { x with egr := x.egr.put k (q ++ es) }).latch r (1 <<< k)).draw }]

/-! ## Flag nodes (R284) -/

/-- The flag a token names; none for a bubble in index mode. -/
def flagOf (el : Elem) (die : Nat) (t : Token) : Option Nat :=
  let p := el.cfg.par 0 % 4096
  if el.cfg.modeBit 13 then t.first.map fun v => die * 4096 + (p + v) % 4096 else some (die * 4096 + p)

/-- The firing of a bubble that names no flag: on o0, poisoned and logged. Log entry 23 (DEDUCED). -/
def noFlag (el : Elem) (t : Token) : List Firing := [el.emit1 [0] 0 t true 10]

/-- FLSET and FLCLR. -/
def State.flagWrite (s : State) (op : Nat) (v : Bool) : Outcome State Fault Refusal :=
  s.fireElem 11 op fun el h =>
    match dataHead h 0 with
    | none => []
    | some t =>
      match flagOf el (dieOf s.site.r) t with
      | none => noFlag el t
      | some f => [{ Firing.of [0] [(0, t)] el 50 with post := fun u => u.setFlag f v }]

def execFlset (s : State) : Outcome State Fault Refusal := s.flagWrite 1 true
def execFlclr (s : State) : Outcome State Fault Refusal := s.flagWrite 2 false

/-- FLTST (R284): a token that tells whether the flag holds the awaited value. Log entry 23 (DEDUCED). -/
def execFltst (s : State) : Outcome State Fault Refusal :=
  s.fireElem 11 3 fun el h =>
    match dataHead h 0 with
    | none => []
    | some t =>
      let hd := hSetLs (hSetLr (hData el.cfg.ofmt 1 1 (hChn t.hdr) (hSrc t.hdr) (hEp t.hdr)) t.lr) t.ls
      match flagOf el (dieOf s.site.r) t with
      | none => noFlag el t
      | some f => [Firing.of [0] [(0, elemTok hd [if s.flag f != el.cfg.modeBit 14 then 1 else 0])] el 50]

/-- FLWAIT: the token passes at once where the flag holds the awaited value; else the element begins to wait, and
passes it once the flag has held that value. Log entry 23 (DEDUCED). -/
def execFlwait (s : State) : Outcome State Fault Refusal :=
  s.fireElem 11 4 fun el h =>
    match dataHead h 0 with
    | none => []
    | some t =>
      match flagOf el (dieOf s.site.r) t with
      | none => noFlag el t
      | some f =>
        let pass := [Firing.of [0] [(0, t)] { el with waited := none } 50]
        match el.waited with
        | some true => pass
        | some false => []
        | none =>
          if s.flag f != el.cfg.modeBit 14 then pass
          else [Firing.of [] [] { el with waited := some false, cnt := f % 4096 } 0]

def execFlgate (s : State) : Outcome State Fault Refusal :=
  s.fireElem 11 5 fun el h =>
    match dataHead h 0 with
    | none => []
    | some t =>
      match flagOf el (dieOf s.site.r) t with
      | none => noFlag el t
      | some f => [Firing.of [0] [(if s.flag f != el.cfg.modeBit 14 then 0 else 1, t)] el 50]

end Sys2Proof.Machine
end

