-- ==== Sys2Proof/Machine/Sha3.lean ====
section
/-! DEFINITION. SHA3-512 (FIPS 202), the digest of configuration images and of measurements (R40, R400), and the SHAKE
functions that ML-DSA-87 draws on. -/

namespace Sys2Proof.Machine

/-- Round constants of Keccak-f[1600]. -/
def keccakRC : List Word :=
  [0x0000000000000001, 0x0000000000008082, 0x800000000000808A, 0x8000000080008000, 0x000000000000808B,
   0x0000000080000001, 0x8000000080008081, 0x8000000000008009, 0x000000000000008A, 0x0000000000000088,
   0x0000000080008009, 0x000000008000000A] ++
  [0x000000008000808B, 0x800000000000008B, 0x8000000000008089, 0x8000000000008003, 0x8000000000008002,
   0x8000000000000080, 0x000000000000800A, 0x800000008000000A, 0x8000000080008081, 0x8000000000008080,
   0x0000000080000001, 0x8000000080008008]

/-- Rotation of lane x + 5 y. -/
def keccakRot : List Nat :=
  [0, 1, 62, 28, 27, 36, 44, 6, 55, 20, 3, 10, 43, 25, 39, 41, 45, 15, 21, 8, 18, 2, 61, 56, 14]

/-- One round on the 25 lanes x + 5 y. -/
def keccakRound (a : List Word) (rc : Word) : List Word :=
  let g (l : List Word) (i : Nat) : Word := l.getD i 0
  let c := (List.range 5).map fun x => g a x ^^^ g a (x + 5) ^^^ g a (x + 10) ^^^ g a (x + 15) ^^^ g a (x + 20)
  let d := (List.range 5).map fun x => g c ((x + 4) % 5) ^^^ (g c ((x + 1) % 5)).rotateLeft 1
  let a := (List.range 25).map fun i => g a i ^^^ g d (i % 5)
  -- lane (x, y) moves to (y, 2x + 3y)
  let b := (List.range 25).map fun i =>
    let X := i % 5
    let Y := i / 5
    let x := (X + 3 * Y) % 5
    let j := x + 5 * X
    (g a j).rotateLeft (keccakRot.getD j 0)
  (List.range 25).map fun i =>
    let y := i / 5 * 5
    let v := g b i ^^^ (~~~ (g b (y + (i + 1) % 5)) &&& g b (y + (i + 2) % 5))
    if i = 0 then v ^^^ rc else v

def keccakF (a : List Word) : List Word := keccakRC.foldl keccakRound a

/-- One block of nine words is absorbed. -/
def keccakAbsorb (a : List Word) (blk : List Word) : List Word :=
  keccakF ((List.range 25).map fun i => a.getD i 0 ^^^ blk.getD i 0)

/-- A message padded to whole blocks of so many bytes, with the bits that tell a hash from an extendable output. -/
def keccakPad (rate : Nat) (suffix : Byte) (m : List Byte) : List Byte :=
  let k := rate - m.length % rate
  if k = 1 then m ++ [suffix ||| 0x80] else m ++ [suffix] ++ List.replicate (k - 2) 0 ++ [0x80]

/-- The lanes after a message. -/
def keccakOf (rate : Nat) (suffix : Byte) (m : List Byte) : List Word :=
  (chunks (rate / 8) (bytesToWords (keccakPad rate suffix m))).foldl keccakAbsorb (List.replicate 25 0)

/-- SHA3-512 of a message: 64 bytes. -/
def sha3_512 (m : List Byte) : List Byte := wordsToBytes ((keccakOf 72 0x06 m).take 8)

/-- So many blocks of output. -/
def keccakBlocks (rate : Nat) : Nat → List Word → List Word
  | 0, _ => []
  | f + 1, a => a.take (rate / 8) ++ keccakBlocks rate f (keccakF a)

/-- The first n bytes of SHAKE128 (rate 168) or SHAKE256 (rate 136) of a message. -/
def shake (rate : Nat) (m : List Byte) (n : Nat) : List Byte :=
  (wordsToBytes (keccakBlocks rate ((n + rate - 1) / rate) (keccakOf rate 0x1F m))).take n

end Sys2Proof.Machine
end

