-- ==== Sys2Proof/Machine/SiteCheck.lean ====
section
/-! DEFINITION. What the loader checks in one site word and one switch word (R25-R28, R31, R32): what each opcode
uses, its formats and its parameters, from the entries of the opcodes. -/

namespace Sys2Proof.Machine

/-! ## Site words -/

/-- The fields of a site word (R25).  A ROUTE word whose ISEL fields are zero, as R74 writes it, has no inputs.
Log entry 11 (DEDUCED). -/
def siteOf (w : BitVec 256) : SiteCfg :=
  let v := w.toNat
  let bare := v % 4096 = 0x019 && field v 63 48 = 0
  { kind := field v 3 0
    op := field v 11 4
    mode := field v 15 12
    ofmt := field v 20 16
    ifmt := (List.range 4).map fun k => field v (25 + 5 * k) (21 + 5 * k)
    isel := (List.range 4).map fun k => if bare then 15 else field v (51 + 4 * k) (48 + 4 * k)
    oslot := (List.range 4).map fun k => field v (67 + 4 * k) (64 + 4 * k)
    p := (List.range 5).map fun k => w.extractLsb' (96 + 32 * k) 32 }

/-- The lowest bit of a number. -/
def lowBit (v : Nat) : Nat := ((List.range 256).find? fun i => v.testBit i).getD 0

/-- A failed check: its code and the failing bit (R32, R33). -/
abbrev Fail := Nat × Nat

/-- A check that fails when a condition holds. -/
def failIf (b : Bool) (code bit : Nat) : List Fail := if b then [(code, bit)] else []

/-- The check reported: the least code, then the lowest bit. Log entry 10 (DESIGN CHOICE). -/
def firstFail : List Fail → Option Fail
  | [] => none
  | f :: t =>
    match firstFail t with
    | none => some f
    | some g => if f.1 < g.1 || (f.1 == g.1 && f.2 ≤ g.2) then some f else some g

/-! ## What the opcodes use -/

/-- What an opcode uses (R26): inputs, outputs, MODE bits as a mask over MODE[15:12], bits of P0 to P4, and whether
F64 may stand in its fields (R24). -/
structure Uses where
  ins : List Nat
  outs : List Nat
  mode : Nat
  pars : List Nat
  f64 : Bool

def allBits : Nat := 2 ^ 32 - 1

/-- A vector operation of n inputs. -/
def vecUses (n : Nat) (mode : Nat) (pars : List Nat) (f64 : Bool) : Uses := ⟨List.range n, [0], mode, pars, f64⟩

/-- The parameters under stochastic rounding (R184, R205). Log entry 35 (DEDUCED). -/
def srPars : List Nat := [allBits, allBits, allBits, 0, allBits]

/-- What an opcode of a kind uses; none where the opcode is not listed (R31).
Log entries 7 (DEDUCED), 12 (DEDUCED), 35 (DEDUCED). -/
def usesOf (c : SiteCfg) : Option Uses :=
  let rmode := if isIeee c.ofmt then 6 else 0
  let sr := c.mode / 2 = 4
  match c.kind with
  | 0 =>
    match c.op with
    | 0x01 | 0x02 | 0x03 | 0x04 | 0x05 => some (vecUses 2 rmode [] true)
    | 0x06 | 0x07 => some (vecUses 1 rmode [] true)
    | 0x08 | 0x09 | 0x0A | 0x0B | 0x0C | 0x0D | 0x0E | 0x0F => some (vecUses 2 0 [] true)
    | 0x10 => some (vecUses 2 14 [] true)
    | 0x11 => some (vecUses 1 14 [allBits] true)
    | 0x12 => some (vecUses 3 0 [] true)
    | 0x13 => some (vecUses 1 0 [allBits] true)
    | 0x18 => some (vecUses (if sr then 2 else 1) 14 (if sr then srPars else []) true)
    | 0x19 => some (vecUses 1 rmode [0x1FF] true)
    | 0x1A => some (vecUses 3 rmode [] true)
    | 0x20 | 0x21 | 0x22 | 0x23 | 0x24 | 0x25 => some (vecUses 1 0 [] false)
    | 0x28 => some (vecUses 1 rmode [] false)
    | 0x29 => some (vecUses 1 0 [] false)
    | 0x2A => some (vecUses 1 0 [] true)
    | 0x30 => some (vecUses 1 2 [allBits, allBits, allBits, 0x1F01FF, allBits] false)
    | 0x31 => some (vecUses 2 6 [allBits] false)
    | 0x40 => some ⟨[0, 1, 2], [0], 0, [allBits], false⟩
    | 0x41 => some ⟨[0, 1, 2], [0, 1], 1, [allBits], false⟩
    | 0x42 => some ⟨[0], [0], 0, [0x1F, 0xFFF], false⟩
    | 0x43 => some ⟨if sr then [0, 1] else [0], [0], 14, if sr then srPars else [], false⟩
    | 0x44 => some ⟨[0], [0], 0, [], false⟩
    | 0x45 => some ⟨[0], [0, 1], 14, [allBits], false⟩
    | 0x46 | 0x47 => some ⟨[0], [0], 0, [], false⟩
    | 0x48 => some ⟨if c.mode.testBit 1 then [0] else [0, 1], [0], 2, [], false⟩
    | 0x50 => some ⟨[0, 1], [0], 14, [], false⟩
    | 0x51 => some ⟨[0], [0], 0, [allBits], true⟩
    | 0x52 => some ⟨[0, 1], [0], 0, [], false⟩
    | _ => none
  | 1 =>
    match c.op with
    | 0x01 => some ⟨[0], [], 0, [allBits, allBits, allBits], false⟩
    | 0x02 => some ⟨[0], [0], 0, [allBits, allBits, allBits], false⟩
    | 0x03 => some ⟨[0], [0], 0, [allBits, allBits, allBits, allBits], false⟩
    | 0x04 => some ⟨[0, 1], [0], 0, [allBits, allBits, allBits], false⟩
    | 0x05 => some ⟨[0, 1], [], 0, [allBits, allBits], false⟩
    | 0x06 => some ⟨[0], [0], 0, [allBits, allBits, 0x3FF], false⟩
    | 0x07 => some ⟨[], [], 0, [allBits, allBits, 0xFF], false⟩
    | _ => none
  | 2 =>
    let walk := c.mode.testBit 1
    let ps := [0xFFFFFFC0, 0xFFFFF, 0xFF]
    match c.op with
    | 0x01 => some ⟨if walk then [0] else [], [0], 2, ps, false⟩
    | 0x02 => some ⟨if walk then [0] else [], [0], 2, ps, false⟩
    | 0x03 => some ⟨if walk then [0, 1] else [0], [], 2, ps, false⟩
    | 0x04 => some ⟨[0], [0], 0, ps, false⟩
    | 0x05 => some ⟨[0, 1], [], 0, ps, false⟩
    | 0x06 => some ⟨[0, 1], [0], 14, ps, false⟩
    | _ => none
  | 3 =>
    match c.op with
    | 0x01 => some ⟨if c.mode % 4 = 3 then [0] else [0, 1], [0, 1], 3, [], true⟩
    | 0x02 => some ⟨[0, 1], [0, 1, 2, 3], 0, [], true⟩
    | 0x03 => some ⟨[0], [], 0, [], true⟩
    | _ => none
  | 4 =>
    match c.op with
    | 0x01 => some ⟨[0, 1, 2], [0], 3, [], true⟩
    | 0x02 => some ⟨[0, 1, 2, 3], [0], 0, [], true⟩
    | 0x03 => some ⟨[0, 1, 2, 3], [0], 0, [0xFFFFFF], true⟩
    | _ => none
  | 5 =>
    match c.op with
    | 0x01 => some ⟨[0, 1, 2], [0], 7, [], true⟩
    | 0x02 => some ⟨[0, 1], [0], 7, [], true⟩
    | _ => none
  | 6 =>
    match c.op with
    | 0x01 => some ⟨[0, 1], [0], 0, [7], true⟩
    | 0x02 => some ⟨[0], [0], 0, [7, allBits], true⟩
    | 0x03 => some ⟨[0], [0], 0, [allBits, allBits, allBits, 0xFF], false⟩
    | 0x04 => some ⟨[0], [0], 0, [allBits, allBits, allBits, 0xFFFF], false⟩
    | _ => none
  | 7 =>
    match c.op with
    | 0x01 | 0x03 => some ⟨[0, 1], [0], 0, [], false⟩
    | 0x02 => some ⟨[0], [0, 1], 0, [], false⟩
    | _ => none
  | 8 =>
    let ins := if c.mode.testBit 0 then [0] else [0, 1, 2, 3]
    match c.op with
    | 0x01 => some ⟨ins, [0], 15, [], false⟩
    | 0x02 | 0x03 => some ⟨ins, [0], 1, [], false⟩
    | _ => none
  | 9 =>
    match c.op with
    | 0x01 => some ⟨[], [], 0, [], true⟩
    | 0x02 => some ⟨[0], [0, 1, 2, 3], 0, [], true⟩
    | _ => none
  | 10 =>
    match c.op with
    | 0x01 => some ⟨[], [0], 0, [allBits], false⟩
    | 0x02 => some ⟨[0], [], 0, [allBits], false⟩
    | 0x03 => some ⟨[], [0], 0, [0xFF], true⟩
    | 0x04 => some ⟨[0], [], 3, [], true⟩
    | _ => none
  | 11 =>
    match c.op with
    | 0x01 | 0x02 => some ⟨[0], [0], 2, [0xFFF], false⟩
    | 0x03 | 0x04 => some ⟨[0], [0], 6, [0xFFF], false⟩
    | 0x05 => some ⟨[0], [0, 1], 6, [0xFFF], false⟩
    | _ => none
  | _ => none

/-- The sites a kind may stand at (R3, R31). -/
def kindAt (kind site : Nat) : Bool :=
  let x := site % 12
  let y := site / 12
  let ce := [2, 3, 5, 6, 8, 9].contains x
  let edge := x = 0 || x = 11
  match kind with
  | 0 => ce
  | 1 => [1, 4, 7, 10].contains x
  | 2 => x = 0 && y ≥ 4
  | 10 => x = 11 && y ≥ 4
  | 9 => true
  | _ => ce || (edge && y < 4)

/-! ## Formats (code 0x06) -/

def SiteCfg.inFmt (c : SiteCfg) (k : Nat) : Nat := c.ifmt.getD k 0

/-- Integer or IEEE. -/
def isNum (f : Nat) : Bool := isInt f || isIeee f

/-- The formats an address generator moves (R223). -/
def isMoved (f : Nat) : Bool := isInt f || f = fmtF16 || f = fmtBF16 || f = fmtF32 || isMx f

/-- Any listed format that data may have. -/
def isData (f : Nat) : Bool := isListed f && f != 0

/-- A predicate input takes an integer format or ANY (R62); a selector, count or index input an integer format alone
(R64, R210, R270). Log entry 8 (DEDUCED). -/
def isPredicate (f : Nat) : Bool := isInt f || f = fmtANY

/-- A used input's format meets a test, or the check fails at its field. -/
def needIn (c : SiteCfg) (k : Nat) (p : Nat → Bool) : List Fail := failIf (c.uses k && !p (c.inFmt k)) 0x06 (21 + 5 * k)

/-- OFMT meets a test. -/
def needOut (c : SiteCfg) (p : Nat → Bool) : List Fail := failIf (!p c.ofmt) 0x06 16

/-- OFMT equals the formats of the used inputs among some (R32). -/
def sameAsOut (c : SiteCfg) (ks : List Nat) : List Fail :=
  failIf (ks.any fun k => c.uses k && c.inFmt k != c.ofmt) 0x06 16

def isNone (f : Nat) : Bool := f = 0
def isImgOrAny (f : Nat) : Bool := isImg f || f = fmtANY
def isReal (f : Nat) : Bool := f = fmtF16 || f = fmtBF16 || f = fmtF32
/-- The integer and IEEE formats of at most 32 bits (R195). -/
def isTile32 (f : Nat) : Bool := (isInt f && f != 0x04 && f != 0x08) || isReal f

/-- The format rules of an entry: an element that passes its inputs on unchanged has them in its OFMT, STEERN, MERGEA, MERGEC
and INV among them. Log entries 9 (DEDUCED), 36 (DESIGN CHOICE), 124 (DESIGN CHOICE). -/
def formatFails (c : SiteCfg) : List Fail :=
  match c.kind with
  | 0 =>
    match c.op with
    | 0x01 | 0x02 | 0x03 | 0x04 | 0x05 | 0x06 | 0x07 => needOut c isNum ++ sameAsOut c [0, 1]
    | 0x08 | 0x09 | 0x0A | 0x0B | 0x0C | 0x0D | 0x0E | 0x0F | 0x13 => needOut c isInt ++ sameAsOut c [0, 1]
    | 0x10 | 0x11 =>
      needOut c isInt ++ needIn c 0 isNum ++ needIn c 1 isNum ++
        failIf (c.uses 1 && c.inFmt 1 != c.inFmt 0) 0x06 26
    | 0x12 => needIn c 0 isInt ++ needOut c isNum ++ sameAsOut c [1, 2]
    | 0x18 => needIn c 0 (fun f => isNum f || isMx f) ++ needIn c 1 isInt ++ needOut c fun f => isNum f || isMx f
    | 0x19 => needOut c (fun f => isIeee f || isMx f) ++ sameAsOut c [0]
    | 0x1A => needOut c isNum ++ sameAsOut c [0, 1, 2]
    | 0x20 | 0x21 | 0x22 | 0x23 | 0x24 | 0x25 => needIn c 0 isReal ++ needOut c isReal
    | 0x28 => needIn c 0 isNum ++ needOut c isNum ++ failIf (isIeee (c.inFmt 0) && isInt c.ofmt) 0x06 16
    | 0x29 => needOut c isNum ++ sameAsOut c [0]
    | 0x2A => needOut c isNum ++ sameAsOut c [0]
    | 0x30 => needIn c 0 isInt ++ needOut c (· == 0x07)
    | 0x31 => needIn c 1 (· == 0x07) ++ needOut c isReal ++ sameAsOut c [0]
    | 0x40 => needIn c 2 isImgOrAny ++ needOut c (· == fmtCSIMG)
    | 0x41 => needIn c 1 isImgOrAny ++ needOut c (· == fmtCSIMG)
    | 0x42 => needIn c 0 isData ++ needOut c (· == fmtCSIMG)
    | 0x43 => needIn c 0 isImgOrAny ++ needIn c 1 isInt ++ needOut c fun f => isNum f || isMx f
    | 0x44 => needIn c 0 isImgOrAny ++ needOut c (· == fmtNRIMG)
    | 0x45 => needIn c 0 isImgOrAny ++ needOut c (· == 0x07)
    | 0x46 => needIn c 0 isImgOrAny ++ needOut c isImg
    | 0x47 => needIn c 0 (fun f => isImg f || isInt f || isReal f || isMx f) ++
        needOut c (fun f => f == fmtCSIMG || (f == fmtNRIMG && isImg (c.inFmt 0)))
    | 0x48 => needIn c 0 isImgOrAny ++ needIn c 1 isImgOrAny ++ needOut c isImg
    | 0x50 => needOut c isTile32 ++ sameAsOut c [0, 1]
    | 0x51 => needOut c isData ++ sameAsOut c [0]
    | 0x52 => needIn c 0 isData ++ needOut c (fun f => isTile32 f || isMx f) ++ sameAsOut c [1]
    | _ => []
  | 1 =>
    match c.op with
    | 0x01 => needIn c 0 isData ++ needOut c isNone
    | 0x02 | 0x03 => needIn c 0 isData ++ needOut c fun f => isData f && f != fmtANY
    | 0x04 => needIn c 0 isData ++ needIn c 1 isInt ++ needOut c fun f => isData f && f != fmtANY
    | 0x05 => needIn c 0 isData ++ needIn c 1 (fun f => f = 0x07 || f = 0x08 || f = fmtANY) ++ needOut c isNone
    | 0x06 => needIn c 0 (fun f => f = 0x07 || f = 0x08 || f = fmtANY) ++ needOut c fun f => isData f && f != fmtANY
    | _ => needOut c isNone
  | 2 =>
    match c.op with
    | 0x01 => needIn c 0 (fun f => f = 0x08 || f = fmtANY) ++ needOut c (· == 0x08)
    | 0x02 => needIn c 0 (fun f => f = 0x08 || f = fmtANY) ++ needOut c fun f => isMoved f || f = fmtANY
    | 0x03 => needIn c 0 isData ++ needIn c 1 (fun f => f = 0x08 || f = fmtANY) ++ needOut c isNone
    | 0x04 => needIn c 0 isInt ++ needOut c fun f => isMoved f || f = fmtANY
    | 0x05 => needIn c 0 isData ++ needIn c 1 isInt ++ needOut c isNone
    | _ =>
      let ok (f : Nat) : Bool := f = 0x03 || f = 0x04 || f = 0x07 || f = 0x08 || f = fmtF32
      needIn c 0 ok ++ needIn c 1 isInt ++
        needOut c (fun f => f = c.inFmt 0 || (f = 0 && c.oslot.getD 0 0 = 0)) ++
        failIf (c.inFmt 0 = fmtF32 && !([1, 2, 5].contains (c.mode / 2))) 0x06 21
  | 3 =>
    match c.op with
    | 0x01 => needOut c isData ++ needIn c 1 isPredicate ++ sameAsOut c [0]
    | 0x02 => needOut c isData ++ needIn c 1 isInt ++ sameAsOut c [0]
    | _ => needIn c 0 isData ++ needOut c isNone
  | 4 =>
    match c.op with
    | 0x01 => needOut c isData ++ needIn c 0 isPredicate ++ sameAsOut c [1, 2]
    | _ => needOut c isData ++ sameAsOut c [0, 1, 2, 3]
  | 5 =>
    match c.op with
    | 0x01 => needOut c isData ++ needIn c 1 isPredicate ++ sameAsOut c [0, 2]
    | _ => needOut c isData ++ needIn c 1 isPredicate ++ sameAsOut c [0]
  | 6 =>
    match c.op with
    | 0x01 | 0x02 => needOut c isData ++ needIn c 1 isInt ++ sameAsOut c [0]
    | 0x03 => needIn c 0 isData ++ needOut c isNum
    | _ => needIn c 0 isData ++ needOut c isInt
  | 7 =>
    match c.op with
    | 0x02 => needOut c isMx ++ sameAsOut c [0]
    | _ => needOut c isMx ++ needIn c 1 (· == 0x05) ++ sameAsOut c [0]
  | 8 =>
    match c.op with
    | 0x01 =>
      ((List.range 4).flatMap fun k => needIn c k fun f => isNum f || isImgOrAny f) ++
        needOut c fun f => isNum f || f = fmtCSIMG
    | _ => needOut c isNum ++ sameAsOut c [0, 1, 2, 3]
  | 9 =>
    match c.op with
    | 0x02 => needOut c isData ++ sameAsOut c [0]
    | _ => needOut c isNone
  | 10 =>
    match c.op with
    | 0x01 => needOut c fun f => isData f && f != fmtANY
    | 0x02 => needIn c 0 isData ++ needOut c isNone
    | 0x03 => needOut c isNum
    | _ => needIn c 0 (fun f => isNum f || f = fmtANY) ++ needOut c isNone
  | _ =>
    match c.op with
    | 0x03 => needIn c 0 isData ++ needOut c isInt
    | _ => needIn c 0 isData ++ needOut c isNone

/-- A format code that is reserved, or F64 where the opcode does not take it (R24).
Log entries 10 (DESIGN CHOICE), 12 (DEDUCED), 36 (DESIGN CHOICE). -/
def codeFails (c : SiteCfg) (u : Uses) : List Fail :=
  let bad (f : Nat) : Bool := !isListed f || (f = fmtF64 && !u.f64)
  ((List.range 4).flatMap fun k => failIf (c.uses k && (bad (c.inFmt k) || c.inFmt k = 0)) 0x06 (21 + 5 * k)) ++
    failIf (bad c.ofmt) 0x06 16

/-! ## Values of parameters and fields (code 0x0C) -/

/-- How many inputs an element has. -/
def SiteCfg.fanIn (c : SiteCfg) : Nat := c.inputs.length

/-- The 128 KiB of a memory node (R218). -/
def nodeSize : Nat := 131072

/-- What an entry forbids beyond unused fields. Log entry 13 (DEDUCED). -/
def valueFails (c : SiteCfg) : List Fail :=
  let p (k : Nat) := c.par k
  let demand := failIf (c.oslot.getD 0 0 = 0) 0x0C 64
  let base := failIf (p 0 % 64 != 0) 0x0C 96
  let predSel := failIf (c.mode % 4 = 3) 0x0C 12
  match c.kind, c.op with
  | 0, 0x10 | 0, 0x11 | 0, 0x45 => failIf (c.mode / 2 ≥ 6) 0x0C 13
  | 0, 0x18 | 0, 0x43 => failIf (c.mode / 2 ≥ 5) 0x0C 13
  | 0, 0x19 => failIf (isMx c.ofmt && c.mode != 0) 0x0C 12
  | 0, 0x30 => failIf (p 3 % 512 > 256) 0x0C 192
  | 0, 0x50 => failIf (c.mode / 2 ≥ 5) 0x0C 13
  | 0, 0x51 => failIf (p 0 = 0 || p 0 ≥ 2 ^ 24) 0x0C 96
  | 1, 0x01 | 1, 0x02 | 1, 0x03 | 1, 0x04 =>
    base ++ failIf (p 1 % 64 != 0 || p 1 = 0) 0x0C 128 ++ failIf (p 2 = 0 || p 2 > 64) 0x0C 160 ++
      failIf (p 0 + p 1 * p 2 > nodeSize) 0x0C 96 ++ failIf (c.op = 3 && p 3 = 0) 0x0C 192 ++
      (if c.op = 1 then [] else demand)
  | 1, 0x05 | 1, 0x06 =>
    base ++ failIf (p 1 < 64 || p 1 > nodeSize || p 1 % 64 != 0) 0x0C 128 ++
      failIf (p 0 + c.allocSize > nodeSize) 0x0C 96 ++ (if c.op = 5 then [] else demand)
  | 1, 0x07 => base ++ failIf (p 0 + p 1 > nodeSize) 0x0C 96
  | 2, 0x02 | 2, 0x04 => demand
  | 2, 0x06 => failIf (c.mode / 2 ≥ 6) 0x0C 13
  | 3, 0x01 => failIf (c.oslot.getD 0 0 = 0 && c.oslot.getD 1 0 = 0) 0x0C 64
  | 4, 0x01 => predSel
  | 4, _ => failIf (c.fanIn < 2) 0x0C 48
  | 5, _ => predSel
  | 6, 0x01 | 6, 0x02 => failIf (p 0 % 8 = 0 || p 0 % 8 > 4) 0x0C 96
  | 8, 0x01 => failIf (c.mode / 2 ≥ 4) 0x0C 13 ++ failIf (!c.mode.testBit 0 && c.fanIn < 2) 0x0C 48
  | 8, _ => failIf (!c.mode.testBit 0 && c.fanIn < 2) 0x0C 48
  | 9, 0x02 => failIf c.outputs.isEmpty 0x0C 64
  | 10, 0x01 | 10, 0x02 => failIf (p 0 % (if (p 0).testBit 31 then 32 else 2048) != 0) 0x0C (96 + lowBit (p 0))
  | 10, 0x04 => predSel
  | _, _ => []

/-- Fields the opcode does not use (R26). Log entries 7 (DEDUCED), 10 (DESIGN CHOICE). -/
def useFails (c : SiteCfg) (u : Uses) : List Fail :=
  let extraMode := c.mode - (c.mode &&& u.mode)
  let m12 := c.kind = 0 && c.mode.testBit 0 && c.op != 0x41
  let extra := if m12 then extraMode - extraMode % 2 else extraMode
  ((List.range 4).flatMap fun k =>
    failIf (c.uses k && !u.ins.contains k) 0x0C (48 + 4 * k) ++
      failIf (!c.uses k && c.inFmt k != 0) 0x0C (21 + 5 * k) ++
      failIf (c.oslot.getD k 0 != 0 && !u.outs.contains k) 0x0C (64 + 4 * k) ++
      failIf (c.oslot.getD k 0 > 8) 0x05 (64 + 4 * k)) ++
    ((List.range 5).flatMap fun k =>
      let v := c.par k
      let x := v - (v &&& u.pars.getD k 0)
      failIf (x != 0) 0x0C (96 + 32 * k + lowBit x)) ++
    failIf (extra != 0) 0x0C (12 + lowBit extra) ++ failIf m12 0x0D 12

/-! ## The matrix rectangle (R265, R266) -/

/-- The corners of a region's part of the rectangle. -/
structure Rect where
  x0 : Nat
  x1 : Nat
  y0 : Nat
  y1 : Nat

/-- The rectangle of an MXMODE value whose EN is set. -/
def rectOf (m : Nat) : Option Rect :=
  if m.testBit 31 then some ⟨m % 16, field m 7 4, field m 10 8, field m 13 11⟩ else none

def inRect (r : Option Rect) (site : Nat) : Bool :=
  match r with
  | none => false
  | some r => r.x0 ≤ site % 12 && site % 12 ≤ r.x1 && r.y0 ≤ site / 12 && site / 12 ≤ r.y1

/-- What may stand inside and outside (R26, R266). Log entry 123 (DESIGN CHOICE). -/
def rectFails (c : SiteCfg) (r : Option Rect) (site : Nat) : List Fail :=
  let sysm := c.kind = 0 && c.op = 0x41
  let inside := inRect r site
  failIf (sysm && !(inside && c.mode.testBit 0)) 0x0D 12 ++
    failIf (inside && kindAt 0 site && !sysm && !(c.kind = 9 && c.op = 1)) 0x0D (if c.kind = 0 then 4 else 0)

/-- The checks of one site word (R32). Log entry 10 (DESIGN CHOICE). -/
def checkSite (raw : BitVec 256) (site : Nat) (r : Option Rect) : Option Fail :=
  if raw = 0 then none
  else
    let c := siteOf raw
    let v := raw.toNat
    let res := field v 95 80 * 2 ^ 80 + field v 47 41 * 2 ^ 41
    let one := failIf (res != 0) 0x01 (lowBit res) ++
      (List.range 4).flatMap fun k => failIf (12 ≤ c.isel.getD k 0 && c.isel.getD k 0 ≤ 14) 0x01 (48 + 4 * k)
    match firstFail one with
    | some f => some f
    | none =>
      if c.kind ≥ 12 then some (0x02, 0)
      else
        match usesOf c with
        | none => some (0x03, 4)
        | some u =>
          if !kindAt c.kind site then some (0x04, 0)
          else firstFail (useFails c u ++ codeFails c u ++ formatFails c ++ valueFails c ++ rectFails c r site)

/-! ## Switch words (R28, R29) -/

/-- The byte of an outgoing lane: its source and its slots. -/
def laneSrc (w : Nat) (L : Nat) : Nat := field w (8 * L + 3) (8 * L)
def laneSlots (w : Nat) (L : Nat) : Nat := field w (8 * L + 7) (8 * L + 4)

/-- The column and row of a site on the module, whose dies stand in a 2 x 2 grid (R41, R389). -/
def placeOf (r site : Nat) : Nat × Nat :=
  let d := r / 24
  let l := r % 24
  (d % 2 * 72 + l % 6 * 12 + site % 12, d / 2 * 32 + l / 6 * 8 + site / 12)

/-- The region and site of a place. -/
def siteAt (x y : Nat) : Nat × Nat :=
  ((x / 72 + 2 * (y / 32)) * 24 + y % 32 / 8 * 6 + x % 72 / 12, y % 8 * 12 + x % 12)

/-- The neighbour of a site on a side, 0 to 3 for N, E, S, W. -/
def neighbour (r site side : Nat) : Option (Nat × Nat) :=
  let (x, y) := placeOf r site
  match side with
  | 0 => if y = 0 then none else some (siteAt x (y - 1))
  | 1 => if x = 143 then none else some (siteAt (x + 1) y)
  | 2 => if y = 63 then none else some (siteAt x (y + 1))
  | _ => if x = 0 then none else some (siteAt (x - 1) y)

/-- The incoming lane as which an outgoing lane arrives (R29). -/
def arrives (L : Nat) : Nat := (L / 2 + 2) % 4 * 2 + L % 2

/-- The checks of one switch word; recs are the regions of the image. -/
def checkSwitch (recs : List Nat) (r site : Nat) (raw : BitVec 256) (hi lo : Word) : Option Fail :=
  if hi != 0 then some (0x01, 64 + lowBit hi.toNat)
  else
    let w := lo.toNat
    let c := siteOf raw
    let lanes := (List.range 8).flatMap fun L =>
      let src := laneSrc w L
      let n := laneSlots w L
      if src = 15 then failIf (n != 0) 0x01 (8 * L + 4)
      else if src ≥ 12 then [(0x01, 8 * L)]
      else
        failIf (n > 8) 0x05 (8 * L + 4) ++ failIf (src < 8 && src / 2 = L / 2) 0x0B (8 * L) ++
          failIf (8 ≤ src && c.oslot.getD (src - 8) 0 = 0) 0x08 (8 * L) ++
          failIf (match neighbour r site (L / 2) with
            | none => true
            | some (nr, _) => !recs.contains nr) 0x0B (8 * L)
    let fan := (List.range 12).flatMap fun src =>
      let ls := (List.range 8).filter fun L => laneSrc w L = src
      let is := if raw = 0 then [] else (List.range 4).filter fun k => c.isel.getD k 15 = src
      failIf (ls.length + is.length > 4) 0x0B (8 * (ls.head?.getD 0))
    firstFail (lanes ++ fan)

end Sys2Proof.Machine
end

