-- ==== Sys2Proof/Machine/Loader.lean ====
section
/-! DEFINITION. Configuration images: reading, placing and checking them (R32, R33, R40, R41, R56, R96-R98, R266,
R270, R303), and the arcs that their switch words make (R29, R30). -/

namespace Sys2Proof.Machine

/-- A rejection record (R33). Log entry 10 (DESIGN CHOICE). -/
def rejection (code site word bit edge region : Nat) : Word :=
  wd (code * 2 ^ 56 + site * 2 ^ 49 + word * 2 ^ 48 + bit * 2 ^ 40 + edge * 2 ^ 31 + region * 2 ^ 24)

/-- A record placed in a region: the region, the context slot, and what the slot takes. -/
structure Placed where
  region : Nat
  slot : Nat
  ctx : CtxSlot

/-! ## The file (R40, R41) -/

/-- Bytes lo to lo + n - 1 as a number. -/
def numAt (bs : List Byte) (lo n : Nat) : Nat := numOf ((bs.drop lo).take n)

def recordSize : Nat := 4672

/-- Total bytes of an image of n records. -/
def imageSize (n : Nat) : Nat := 128 + n * recordSize

/-- The header is one the loader accepts, its records apart (R40, R41). -/
def headerGood (h : List Byte) : Bool :=
  let n := numAt h 8 2
  h.length = 64 && h.take 4 == [0x4A, 0x43, 0x49, 0x34] && numAt h 4 2 = 1 && numAt h 6 2 = 4 && 1 ≤ n && n ≤ 96 &&
    numAt h 10 2 ≤ 1 && numAt h 12 2 ≤ 95 && numAt h 14 2 = 0 && numAt h 16 8 = imageSize n && numAt h 24 40 = 0

/-- The records of an image. -/
def recordsOf (bs : List Byte) : List (List Byte) :=
  let n := numAt bs 8 2
  chunks recordSize ((bs.drop 64).take (n * recordSize))

/-- No two of a list are equal. -/
def distinct {α : Type} [BEq α] : List α → Bool
  | [] => true
  | a :: t => !t.contains a && distinct t

/-- An image is well formed (R41). -/
def imageGood (bs : List Byte) : Bool :=
  let recs := recordsOf bs
  headerGood (bs.take 64) && bs.length ≥ imageSize (numAt bs 8 2) &&
    (numAt bs 10 2 == 1) == (recs.any fun r => numAt r 0 1 != 0) &&
    recs.all (fun r => numAt r 0 1 ≤ 3 && numAt r 3 1 ≤ 3 && numAt r 16 48 = 0) &&
    distinct (recs.map fun r => r.take 3) &&
    (bs.drop (imageSize (numAt bs 8 2) - 64)).take 64 == sha3_512 (bs.take (imageSize (numAt bs 8 2) - 64))

/-- The dies in ring order (R41). -/
def ringOrder : List Nat := [0, 1, 3, 2]

/-- The die k places on in ring order. -/
def ringDie (d k : Nat) : Nat := ringOrder.getD (((findIdx (· == d) ringOrder).getD 0 + k) % 4) 0

/-- Where a record lands (R41). -/
def landing (anchor : Nat) (r : List Byte) : Option Nat :=
  let d := ringDie (anchor / 24) (numAt r 0 1)
  let c : Int := (anchor % 24 % 6 : Nat) + signedOf 8 (numAt r 1 1)
  let w : Int := (anchor % 24 / 6 : Nat) + signedOf 8 (numAt r 2 1)
  if 0 ≤ c && c < 6 && 0 ≤ w && w < 4 then some (d * 24 + w.toNat * 6 + c.toNat) else none

/-- Switch word of an empty site (R28). -/
def idleLanes : Word := 0x0F0F0F0F0F0F0F0F

/-- What a record puts into a context slot.  The PRED value is taken whole, bits [63:33] with it.
Log entry 101 (DESIGN CHOICE). -/
def slotOf (r : List Byte) (loader : Nat) (image : Word) : CtxSlot where
  sites := (List.range 96).filterMap fun i =>
    let v := numAt r (0x40 + 32 * i) 32
    if v = 0 then none else some (i, BitVec.ofNat 256 v)
  switches := (List.range 96).filterMap fun i =>
    let v := wd (numAt r (0xC40 + 16 * i) 8)
    if v = idleLanes then none else some (i, v)
  mxmode := wd (numAt r 4 4)
  pred := wd (numAt r 8 8)
  loader := loader
  image := image
  record := 0
  marked := false

/-! ## Word checks in order (R32) -/

def CtxSlot.site (c : CtxSlot) (i : Nat) : BitVec 256 := c.sites.getD i 0
def CtxSlot.switch (c : CtxSlot) (i : Nat) : Word := c.switches.getD i idleLanes

/-- The rectangle rules of one region (R266), against the other records. Log entry 119 (DESIGN CHOICE). -/
def rectBroken (all : List (Nat × Nat)) (r m : Nat) : Bool :=
  if !m.testBit 31 then m != 0
  else
    let x0 := m % 16
    let x1 := field m 7 4
    let y0 := field m 10 8
    let y1 := field m 13 11
    let pos := field m 18 16
    let k := field m 21 19
    let col := r % 24 % 6
    m &&& 0x7FC0C000 != 0 || x0 ≥ 12 || x1 ≥ 12 || !kindAt 0 x0 || !kindAt 0 x1 || x0 > x1 || y0 > y1 || k > 5 || pos > k ||
      (pos > 0 && x0 != 2) || (pos < k && x1 != 9) || col < pos || col - pos + k > 5 ||
      (List.range (k + 1)).any fun j =>
        match Tab.find? all (r - pos + j) with
        | none => true
        | some o => !(o.testBit 31 && field o 18 16 = j && field o 21 19 = k && field o 13 8 = field m 13 8)

/-! ## Arcs (R29, R30) -/

/-- The regions and slots of a context. -/
abbrev Plan := List (Nat × CtxSlot)

def Plan.slot (p : Plan) (r : Nat) : Option CtxSlot := Tab.find? p r

/-- The elements of a context: region, site and fields, in order of region and site. -/
def Plan.elements (p : Plan) : List (Nat × Nat × SiteCfg) :=
  p.flatMap fun rc => rc.2.sites.map fun sw => (rc.1, sw.1, siteOf sw.2)

/-- The number of active lanes. -/
def Plan.lanes (p : Plan) : List (Nat × Nat × Nat) :=
  p.flatMap fun rc => rc.2.switches.flatMap fun sw =>
    ((List.range 8).filter fun L => laneSrc sw.2.toNat L != 15).map fun L => (rc.1, sw.1, L)

/-- The die boundary between two dies, in ring order of its first die. -/
def boundary (a b : Nat) : Nat := ((List.range 4).find? fun i =>
  let x := ringOrder.getD i 0
  let y := ringOrder.getD ((i + 1) % 4) 0
  (x == a && y == b) || (x == b && y == a)).getD 0

/-- A source traced back to the output that feeds it: producer port, lane at the producer, hops, hop slots, die
boundaries crossed, regions passed. Log entry 44 (DESIGN CHOICE). -/
structure Trace where
  src : Nat
  lane : Nat
  hops : Nat
  slots : Nat
  cross : List Nat
  via : List Nat

/-- The lane outgoing at a neighbour that arrives at a site as an incoming lane. -/
def upstream (r site code : Nat) : Option (Nat × Nat × Nat) :=
  (neighbour r site (code / 2)).map fun n => (n.1, n.2, arrives code)

/-- The output that a source code at a site leads back to (R27, R29). -/
def Plan.trace (p : Plan) : Nat → Nat → Nat → Nat → Nat → Option Trace
  | 0, _, _, _, _ => none
  | f + 1, r, site, code, lane =>
    if 8 ≤ code && code ≤ 11 then some ⟨(r * 96 + site) * 4 + (code - 8), lane, 0, 0, [], []⟩
    else if code ≥ 12 then none
    else
      match upstream r site code with
      | none => none
      | some (nr, ns, L) =>
        match p.slot nr with
        | none => none
        | some c =>
          let w := (c.switch ns).toNat
          if laneSrc w L = 15 then none
          else
            match p.trace f nr ns (laneSrc w L) L with
            | none => none
            | some t => some { t with
                hops := t.hops + 1
                slots := t.slots + laneSlots w L
                cross := if nr / 24 = r / 24 then t.cross else boundary (nr / 24) (r / 24) :: t.cross
                via := if nr = r then t.via else nr :: t.via }

/-- The source code at a site leads back through an outgoing lane of some site (R29). -/
def Plan.through (p : Plan) (goal : Nat × Nat × Nat) : Nat → Nat → Nat → Nat → Bool
  | 0, _, _, _ => false
  | f + 1, r, site, code =>
    if code ≥ 8 then false
    else
      match upstream r site code with
      | none => false
      | some (nr, ns, L) =>
        (nr, ns, L) == goal ||
          match p.slot nr with
          | none => false
          | some c => p.through goal f nr ns (laneSrc (c.switch ns).toNat L)

/-- EDGE of a lane rejected with code 0x08 (R33): the first input, by region, site and port, that the lane leads to; zero
where it leads to none. Log entry 10 (DESIGN CHOICE). -/
def Plan.laneEdge (p : Plan) (goal : Nat × Nat × Nat) : Nat :=
  (p.elements.findSome? fun e => (List.range 4).findSome? fun k =>
    if p.through goal (p.lanes.length + 1) e.1 e.2.1 (e.2.2.isel.getD k 15) then some (e.2.1 * 4 + k) else none).getD 0

/-- The checks of the words of one region (R32). Log entry 10 (DESIGN CHOICE). -/
def Plan.checkRegion (plan : Plan) (his : List (Nat × Word)) (p : Nat × CtxSlot) : Option Word :=
  let (r, c) := p
  let rect := rectOf c.mxmode.toNat
  (List.range 96).findSome? fun i =>
    match checkSite (c.site i) i rect with
    | some f => some (rejection f.1 i 0 f.2 0 r)
    | none =>
      match checkSwitch (plan.map (·.1)) r i (c.site i) (Tab.getD his i 0) (c.switch i) with
      | some f => some (rejection f.1 i 1 f.2 (if f.1 = 8 then plan.laneEdge (r, i, f.2 / 8) else 0) r)
      | none => none

/-- The outputs that emit on demand (R94). -/
def SiteCfg.demand (c : SiteCfg) (o : Nat) : Bool :=
  o = 0 && match c.kind, c.op with
    | 1, 2 | 1, 3 | 1, 4 | 1, 6 | 2, 2 | 2, 4 => true
    | _, _ => false

/-- The arcs of a context, with their consumers in order (R30, R86); an arc on a demand output starts with its
requests on their way (R94). Log entry 44 (DESIGN CHOICE). -/
def Plan.arcs (p : Plan) : List Arc :=
  let fuel := p.lanes.length + 1
  p.elements.flatMap fun e =>
    let (r, site, c) := e
    (List.range 4).filterMap fun k =>
      if !c.uses k then none
      else
        match p.trace fuel r site (c.isel.getD k 15) (8 + k) with
        | none => none
        | some t =>
          let key := t.src / 4
          match (p.slot (key / 96)).map fun q => siteOf (q.site (key % 96)) with
          | none => none
          | some pc =>
            let cap := pc.oslot.getD (t.src % 4) 0 + t.slots
            let dem := pc.demand (t.src % 4)
            some {
              src := t.src
              lane := t.lane
              dst := (r * 96 + site) * 4 + k
              cap := cap
              hops := t.hops
              cross := t.cross
              via := t.via
              demand := dem
              toks := []
              relReg := none
              req := 0
              reqFly := if dem then cap else 0
              back := [] }

/-! ## Checks of the whole graph (R96-R98, R270, R303) -/

/-- Following lanes upstream from a lane: whether the walk comes back to it, with the hop slots passed. -/
def Plan.back (p : Plan) (goal : Nat × Nat × Nat) : Nat → Nat × Nat × Nat → Option Nat
  | 0, _ => none
  | f + 1, (r, site, L) =>
    match p.slot r with
    | none => none
    | some c =>
      let w := (c.switch site).toNat
      let src := laneSrc w L
      if src ≥ 8 then none
      else
        match upstream r site src with
        | none => none
        | some u => if u == goal then some (laneSlots w L) else (p.back goal f u).map (· + laneSlots w L)

/-- A cycle of switch lanes without slots (R96). -/
def Plan.emptyCycle (p : Plan) : Option (Nat × Nat × Nat) :=
  let ls := p.lanes
  ls.find? fun l => p.back l (ls.length + 1) l == some 0

def Plan.cfgAt (p : Plan) (port : Nat) : SiteCfg :=
  let key := port / 4
  match p.slot (key / 96) with
  | some c => siteOf (c.site (key % 96))
  | none => siteOf 0

/-- The format of a producer's output (R270). Log entries 9 (DEDUCED), 116 (DESIGN CHOICE). -/
def SiteCfg.outFmt (c : SiteCfg) (o : Nat) : Nat :=
  let first := c.inFmt (c.inputs.headD 0)
  match c.kind, c.op with
  | 3, _ | 5, _ | 6, 1 | 6, 2 | 9, 2 | 0, 0x51 => c.inFmt 0
  | 4, 1 => c.inFmt 1
  | 4, _ => first
  | 0, 0x41 => if o = 0 then c.inFmt 0 else c.ofmt
  | 0, 0x45 => if o = 1 then c.inFmt 0 else c.ofmt
  | _, _ => c.ofmt

/-- Producer and consumer agree (R270). -/
def agrees (pf : Nat) (c : SiteCfg) (k : Nat) : Bool :=
  let cf := c.inFmt k
  if pf = fmtANY then true
  else if isImg pf then (imageInput c k || flowInput c k) && isImgOrAny cf
  else cf = fmtANY || pf = cf

/-- Operands that MMA and SYSM take (R198). -/
def matrixPair (a w : Nat) : Bool :=
  if isMx a then isMx w
  else if a = fmtF32 then w = fmtF32
  else (a = fmtF16 || a = fmtBF16) && (w = fmtF16 || w = fmtBF16)

/-- The operands of an MMA or SYSM whose tile port is used do not pair. Log entry 16 (DEDUCED). -/
def SiteCfg.mispaired (c : SiteCfg) : Bool :=
  let t := if c.op = 0x40 then 1 else 2
  c.kind = 0 && (c.op = 0x40 || c.op = 0x41) && c.uses 0 && c.uses t && !matrixPair (c.inFmt 0) (c.inFmt t)

/-- The elements whose output is read from memory (R270). -/
def SiteCfg.reads (c : SiteCfg) : Bool :=
  match c.kind, c.op with
  | 1, 2 | 1, 3 | 1, 4 | 1, 6 | 2, 2 | 2, 4 | 10, 1 => true
  | _, _ => false

/-- The consumers reached from some outputs through elements that meet a test, level by level. -/
def spread (arcs : List Arc) (through : Arc → Bool) : Nat → List Nat → List Arc
  | 0, _ => []
  | f + 1, keys =>
    let here := arcs.filter fun a => keys.contains (a.src / 4)
    let next := ((here.filter through).map fun a => a.dst / 4).eraseDups
    if here.isEmpty then [] else here ++ spread arcs through f next

/-- An edge rejected with a code: the bit is that of the consumer's IFMT or ISEL field. -/
def edgeReject (code base step : Nat) (dst : Nat) : Word :=
  let key := dst / 4
  rejection code (key % 96) 0 (base + step * (dst % 4)) (dst % 384) (key / 96)

/-- The format checks (R270). Log entry 16 (DEDUCED). -/
def Plan.formatReject (p : Plan) (arcs : List Arc) : Option Word :=
  match arcs.find? fun a => !agrees ((p.cfgAt a.src).outFmt (a.src % 4)) (p.cfgAt a.dst) (a.dst % 4) with
  | some a => some (edgeReject 0x07 21 5 a.dst)
  | none =>
    match p.elements.find? fun e => e.2.2.mispaired with
    | some e => some (edgeReject 0x07 21 5 ((e.1 * 96 + e.2.1) * 4))
    | none =>
      p.elements.findSome? fun e =>
        if e.2.2.reads && isImg e.2.2.ofmt then
          let flow (a : Arc) : Bool := flowInput (p.cfgAt a.dst) (a.dst % 4)
          let ald (a : Arc) : Bool := (p.cfgAt a.dst).kind = 0 && (p.cfgAt a.dst).op = 0x47
          match (spread arcs flow (p.elements.length + 1) [e.1 * 96 + e.2.1]).find? fun a => !flow a && !ald a with
          | some a => some (edgeReject 0x07 21 5 a.dst)
          | none => none
        else none

/-- An input that selects an unused output of its own site (R96). -/
def Plan.unusedSource (p : Plan) : Option Word :=
  p.elements.findSome? fun e =>
    (List.range 4).findSome? fun k =>
      let src := e.2.2.isel.getD k 15
      if 8 ≤ src && src ≤ 11 && e.2.2.oslot.getD (src - 8) 0 = 0 then
        some (edgeReject 0x08 48 4 ((e.1 * 96 + e.2.1) * 4 + k))
      else none

/-- A demand output that has slots and no arc (R95). Log entry 10 (DESIGN CHOICE). -/
def Plan.unheard (p : Plan) (arcs : List Arc) : Option Word :=
  p.elements.findSome? fun e =>
    if e.2.2.demand 0 && arcs.all fun a => a.src != (e.1 * 96 + e.2.1) * 4 then some (rejection 0x0C e.2.1 0 64 0 e.1)
    else none

/-- A MERGEA whose order of arrival reaches another consumer than a reduction or MERGEC (R67, R97).
Log entry 14 (DESIGN CHOICE). -/
def Plan.rateDependent (p : Plan) (arcs : List Arc) : Option Word :=
  p.elements.findSome? fun e =>
    if e.2.2.kind = 4 && e.2.2.op = 2 then
      let fan (a : Arc) : Bool := (p.cfgAt a.dst).kind = 9
      let ok (a : Arc) : Bool := let c := p.cfgAt a.dst; c.kind = 8 || (c.kind = 4 && c.op = 3) || c.kind = 9
      if (spread arcs fan (p.elements.length + 1) [e.1 * 96 + e.2.1]).all ok then none
      else some (rejection 0x09 e.2.1 0 0 0 e.1)
    else none

/-! ### Unbalanced joins (R98) -/

/-- The inputs that every firing of an element consumes together. Log entry 15 (DEDUCED). -/
def SiteCfg.joined (c : SiteCfg) : List Nat :=
  match c.kind, c.op with
  | 0, 0x40 | 0, 0x50 | 0, 0x51 | 0, 0x52 => []
  | 0, 0x41 => c.inputs.filter (· ≤ 1)
  | 0, _ => c.inputs
  | 1, 5 | 2, 5 | 2, 6 | 3, _ | 7, 3 => c.inputs
  | 8, _ => if c.mode.testBit 0 then [] else c.inputs
  | _, _ => []

/-- The tokens an output of an element has for each token of an input, where that ratio is fixed.
Log entry 15 (DEDUCED). -/
def SiteCfg.ratio (c : SiteCfg) (k : Nat) : Option (Nat × Nat) :=
  match c.kind, c.op with
  | 0, 0x40 => none
  | 0, 0x41 => if k ≤ 1 then some (1, 1) else none
  | 0, 0x48 => if c.mode.testBit 1 then none else some (1, 1)
  | 0, 0x50 => if k = 1 then some (1, 1) else none
  | 0, 0x51 => some (c.par 0 + 1, c.par 0)
  | 0, 0x52 => if k = 0 then some (1, 1) else none
  | 0, _ => some (1, 1)
  | 1, 2 => some (1, 1)
  | 1, 3 => some (c.par 3, 1)
  | 1, 6 | 2, 4 | 2, 6 => some (1, 1)
  | 6, 2 => some (c.par 1, 1)
  | 6, 3 | 6, 4 => some (1, 1)
  | 7, 1 => if k = 0 then some (1, 1) else none
  | 7, _ => some (1, 1)
  | 8, _ => if c.mode.testBit 0 then none else some (1, 1)
  | 9, 2 => some (1, 1)
  | 11, 5 => none
  | 11, _ => some (1, 1)
  | _, _ => none

/-- An output reached backward with the product of ratios from it. -/
abbrev Reach := Nat × Nat × Nat

/-- The outputs behind one output, one element further back. -/
def Plan.behind (p : Plan) (arcs : List Arc) (x : Reach) : List Reach :=
  let c := p.cfgAt x.1
  c.inputs.flatMap fun k =>
    match c.ratio k with
    | none => []
    | some (n, d) =>
      (arcs.filter fun a => a.dst == x.1 / 4 * 4 + k).map fun a =>
        let g := Nat.gcd (x.2.1 * n) (x.2.2 * d)
        (a.src, x.2.1 * n / g, x.2.2 * d / g)

/-- Every output reached backward from some, through elements of fixed ratio. -/
def Plan.reach (p : Plan) (arcs : List Arc) : Nat → List Reach → List Reach
  | 0, _ => []
  | f + 1, xs => if xs.isEmpty then [] else xs ++ p.reach arcs f (xs.flatMap (p.behind arcs)).eraseDups

/-- The outputs reached backward from an input. -/
def Plan.reachIn (p : Plan) (arcs : List Arc) (dst : Nat) : List Reach :=
  p.reach arcs (p.elements.length + 1) ((arcs.filter fun a => a.dst == dst).map fun a => (a.src, 1, 1))

/-- The outputs that feed some inputs, level by level backward through every input of the elements that meet a test. -/
def Plan.feeders (p : Plan) (arcs : List Arc) (through : Nat → SiteCfg → Bool) : Nat → List Nat → List Nat
  | 0, _ => []
  | f + 1, dsts =>
    let srcs := ((arcs.filter fun a => dsts.contains a.dst).map (·.src)).eraseDups
    let next := (srcs.filter fun o => through o (p.cfgAt o)).flatMap fun o => (p.cfgAt o).inputs.map fun k => o / 4 * 4 + k
    if srcs.isEmpty then [] else (srcs ++ p.feeders arcs through f next.eraseDups).eraseDups

/-- An output is a way of a STEER or STEERN. -/
def SiteCfg.steers (c : SiteCfg) : Bool := c.kind = 3

/-- The ways of steers through one of which alone an input is reached, with no merge in between (R98): behind the input
every path ends at the way, and none at an element without inputs. Log entry 15 (DEDUCED). -/
def Plan.onlyWays (p : Plan) (arcs : List Arc) (dst : Nat) : List Nat :=
  let behind (w : Nat) := p.feeders arcs (fun o _ => o != w) (p.elements.length + 1) [dst]
  let ways := (p.feeders arcs (fun _ _ => true) (p.elements.length + 1) [dst]).filter fun o => (p.cfgAt o).steers
  ways.filter fun w =>
    let os := behind w
    os.contains w && os.all fun o => o == w || ((p.cfgAt o).kind != 4 && !(p.cfgAt o).inputs.isEmpty)

/-- A join of two inputs is unbalanced by one of the two patterns (R98). Log entry 15 (DEDUCED). -/
def Plan.unbalanced (p : Plan) (arcs : List Arc) (a b : Nat) : Bool :=
  let ra := p.reachIn arcs a
  let rb := p.reachIn arcs b
  let byRatio := ra.any fun x => rb.any fun y => x.1 == y.1 && x.2 != y.2
  let plain (dst : Nat) :=
    p.feeders arcs (fun _ c => c.kind != 3 && c.kind != 4) (p.elements.length + 1) [dst]
  let bySteer (u v : Nat) : Bool :=
    (p.onlyWays arcs u).any fun w => arcs.any fun e => e.dst == w / 4 * 4 && (plain v).contains e.src
  byRatio || bySteer a b || bySteer b a

/-- A join that is unbalanced (R98). -/
def Plan.unbalancedJoin (p : Plan) (arcs : List Arc) : Option Word :=
  p.elements.findSome? fun e =>
    let key := (e.1 * 96 + e.2.1) * 4
    let js := e.2.2.joined
    js.findSome? fun k =>
      if js.any fun j => j < k && p.unbalanced arcs (key + j) (key + k) then some (edgeReject 0x0A 48 4 (key + k))
      else none

/-- The bytes one 32x32 token of a format takes in a stream buffer (R303). -/
def fullToken (f : Nat) : Nat := if f = fmtANY then 29256 else ringSize (hSetShape (hSetFmt 0 f) 32 32)

/-- The capacity of the buffer a handle names, declared by the image or live (R301, R303). -/
def Plan.bufferCap (p : Plan) (live : Tab SBuf) (h : Nat) : Option Nat :=
  let site := (field h 23 19 % 8) * 12 + 3 * (field h 23 19 / 8) + 1
  let here := (p.slot (field h 30 24)).bind fun c =>
    let e := siteOf (c.site site)
    if e.kind = 1 && e.op = 7 && e.par 2 = field h 18 11 then some (e.par 1) else none
  match Tab.find? live h with
  | some b => some b.cap
  | none => here

/-- An EGR whose buffer cannot hold one full token (R303). -/
def Plan.smallBuffer (p : Plan) (live : Tab SBuf) : Option Word :=
  p.elements.findSome? fun e =>
    let c := e.2.2
    if c.kind = 10 && c.op = 2 && !(c.par 0).testBit 31 then
      match p.bufferCap live (c.par 0) with
      | some n => if n < fullToken (c.inFmt 0) then some (edgeReject 0x0E 96 0 ((e.1 * 96 + e.2.1) * 4)) else none
      | none => none
    else none

/-- The checks of the whole graph, in order of their codes' groups. Log entry 10 (DESIGN CHOICE). -/
def Plan.graphReject (p : Plan) (live : Tab SBuf) : Option Word :=
  match p.emptyCycle with
  | some (r, site, L) => some (rejection 0x08 site 1 (8 * L) (p.laneEdge (r, site, L)) r)
  | none =>
    let arcs := p.arcs
    match p.formatReject arcs with
    | some w => some w
    | none =>
      match p.unusedSource with
      | some w => some w
      | none =>
        match p.rateDependent arcs with
        | some w => some w
        | none =>
          match p.unbalancedJoin arcs with
          | some w => some w
          | none =>
            match p.unheard arcs with
            | some w => some w
            | none => p.smallBuffer live

/-! ## Loading (R41, R56) -/

/-- Every record placed from an anchor, or none where one falls outside the grid or the regions offered. -/
def placeRecords (bs : List Byte) (anchor : Nat) (offered : List Nat) (slotAdd loader : Nat) (image : Word) :
    Option (List Placed) :=
  (recordsOf bs).zipIdx.mapM fun rk =>
    match landing anchor rk.1 with
    | none => none
    | some g =>
      if offered.contains g then some ⟨g, (numAt rk.1 3 1 + slotAdd) % 4, { slotOf rk.1 loader image with record := rk.2 }⟩
      else none

/-- The upper halves of a record's switch words that are not zero (R28). -/
def upperHalves (r : List Byte) : List (Nat × Word) :=
  (List.range 96).filterMap fun i =>
    let v := wd (numAt r (0xC40 + 16 * i + 8) 8)
    if v = 0 then none else some (i, v)

/-- The words of a context are checked, region by region (R26, R32); the upper halves of a record's switch words beside
them. -/
def Plan.wordReject (p : Plan) (his : List (List (Nat × Word))) : Option Word :=
  let mxs := p.map fun rc => (rc.1, rc.2.mxmode.toNat)
  (his.zip p).findSome? fun hp =>
    if rectBroken mxs hp.2.1 hp.2.2.mxmode.toNat then some (rejection 0x0D 0 0 0 0 hp.2.1) else p.checkRegion hp.1 hp.2

/-- The checks of a context (R32): of its words, then of its graph. -/
def Plan.reject (p : Plan) (his : List (List (Nat × Word))) (live : Tab SBuf) : Option Word :=
  match p.wordReject his with
  | some w => some w
  | none => p.graphReject live

/-- The checks of a context that stands in slots, which hold no upper halves (R32). Log entry 104 (DEDUCED). -/
def Plan.slotReject (p : Plan) (live : Tab SBuf) : Option Word := p.reject (p.map fun _ => []) live

/-- The checks of placed records (R32). Log entry 10 (DESIGN CHOICE). -/
def checkPlaced (recs : List (List Byte)) (ps : List Placed) (live : Tab SBuf) : Option Word :=
  Plan.reject (ps.map fun p => (p.region, p.ctx)) (recs.map upperHalves) live

/-- An image as bytes is loaded from an anchor (R41): the placed records, or the rejection record.
Log entries 6 (DEDUCED), 108 (DESIGN CHOICE). -/
def loadBytes (bs : List Byte) (anchor : Nat) (offered : List Nat) (slotAdd loader : Nat) (image : Word)
    (live : Tab SBuf) : Except Word (List Placed) :=
  if !imageGood bs then .error (rejection 0x0F 0 0 0 0 anchor)
  else
    match placeRecords bs anchor offered slotAdd loader image with
    | none => .error (rejection 0x10 0 0 0 0 anchor)
    | some ps =>
      match checkPlaced (recordsOf bs) ps live with
      | some w => .error w
      | none => .ok ps

/-- What reading an image meets. -/
inductive ImageRead where
  | wait
  | fail (e : AccErr) (va : Nat)
  | bytes (bs : List Byte) (pieces : List (Nat × Nat))

/-- An image read from memory: its header, and all of it where the header is one the loader accepts. -/
def State.readImage (s : State) (tr : Perm → Nat → Except AccErr Nat) (a : Nat) : ImageRead :=
  match s.runAt tr .read a 64 with
  | .error .wait => .wait
  | .error (.fail e va) => .fail e va
  | .ok ps =>
    let h := s.loadRuns ps
    if !headerGood h then .bytes h ps
    else
      match s.runAt tr .read a (imageSize (numAt h 8 2)) with
      | .error .wait => .wait
      | .error (.fail e va) => .fail e va
      | .ok ps => .bytes (s.loadRuns ps) ps

end Sys2Proof.Machine
end

