-- ==== Sys2Proof/Machine/Arm.lean ====
section
/-! DEFINITION. Arming, draining and ending a context, and the passage of WEIR and SLUICE (R57-R59, R302, R316, R342,
R355, R357, R359). -/

namespace Sys2Proof.Machine

open Host (Outcome)

/-! ## Initial state of an element -/

/-- An element right after arming (R57): its entry gives the state it starts from. -/
def Elem.initial (c : SiteCfg) : Elem where
  cfg := c
  busy := false
  chn := if c.kind = 4 && c.op = 3 then c.par 0 % 2 ^ 24 else 0
  ep := false
  kept := none
  held := []
  cnt := if c.kind = 0 && (c.op = 0x40 || c.op = 0x41) then c.par 0 else 0
  pos := 0
  ptr := 0
  expired := false
  ta := none
  tl := none
  acc := none
  rows := 0
  flag := false
  desc := .fetching
  walk := none
  tile := none
  wq := []
  wdone := 0
  rdone := 0
  stall := none
  fault := none
  waited := none
  park := []
  passage := .open
  lsSeen := false
  starve := []

/-! ## Stream buffers at arming (R301, R302) -/

/-- The handle of the buffer that an SBUF site declares. -/
def sbufHandle (r site : Nat) (c : SiteCfg) : Nat := r * 2 ^ 24 + mnOfSite site * 2 ^ 19 + c.par 2 * 2 ^ 11

/-- A site of a context declares its buffer: it joins one of the same place and size, and is ignored and logged
against another (R302). -/
def State.declare (s : State) (task : Option Nat) (r site : Nat) (c : SiteCfg) : State :=
  let h := sbufHandle r site c
  match s.sbufs.find? h with
  | some b =>
    if b.base = c.par 0 && b.cap = c.par 1 then s else s.log r (some site) 0x07 0 (wd h) 0
  | none =>
    let b : SBuf := {
      base := c.par 0
      cap := c.par 1
      head := 0
      occ := 0
      toks := []
      ready := 0
      popped := 0
      taken := 0
      skipping := false
      owner := task
      egr := none
      ingr := none }
    s.setSbuf h b

/-- The armed elements in ascending site keys that hold an opcode of a port node with a handle. -/
def State.portUsers (s : State) (op h : Nat) : List Nat :=
  s.ctxs.flatMap fun kc => kc.2.elems.filterMap fun ke =>
    if ke.2.cfg.kind = 10 && ke.2.cfg.op = op && ke.2.cfg.par 0 = h &&
        s.partOf (field h 30 24) == s.partOf (ke.1 / 96) then some ke.1 else none

/-- A role of a buffer stays with its holder while that is armed, and goes to the first armed element otherwise
(R302). Log entry 41 (DEDUCED). -/
def State.roleOf (s : State) (op h : Nat) (old : Option Nat) : Option Nat :=
  let us := s.portUsers op h
  match old with
  | some k => if us.contains k then some k else us.head?
  | none => us.head?

/-- The roles of every live buffer. Log entry 41 (DEDUCED). -/
def State.assignRoles (s : State) : State :=
  { s with sbufs := s.sbufs.map fun kb =>
      (kb.1, { kb.2 with egr := s.roleOf 2 kb.1 kb.2.egr, ingr := s.roleOf 1 kb.1 kb.2.ingr }) }

/-! ## Arming (R57) -/

/-- The words of a slot in some regions that hold one. -/
def State.planOf (s : State) (regions : List Nat) (slot : Nat) : Plan :=
  regions.filterMap fun r => ((s.region r).slots.find? slot).map fun c => (r, c)

/-- A context is armed in regions that are unarmed: every element in its initial state, rg.ctx, rg.mxmode and rg.pred
from the image, ARM in the latches (R57, R145). -/
def State.armNow (s : State) (regions : List Nat) (slot : Nat) (task : Option Nat) : State :=
  let plan := s.planOf regions slot
  if plan.isEmpty then s
  else
    let id := s.nextCtx
    let els : Tab Elem := plan.elements.map fun e => (e.1 * 96 + e.2.1, Elem.initial e.2.2)
    let c : Ctx := {
      slot := slot
      regions := plan.map (·.1)
      task := task
      arcs := plan.arcs
      elems := els
      mode := .run
      ended := false
      copies := [] }
    let s := { s with nextCtx := id + 1, ctxs := s.ctxs.put id c }
    let s := plan.foldl (fun s rc =>
      (s.updRegion rc.1 fun x => { x with
        armed := some id
        ctx := slot
        pred := rc.2.pred
        mxmode := rc.2.mxmode }).latch rc.1 0x200) s
    let s := plan.elements.foldl (fun s e =>
      if e.2.2.kind = 1 && e.2.2.op = 7 then s.declare task e.1 e.2.1 e.2.2 else s) s
    s.assignRoles

/-! ## Draining (R58, R59, R316, R359) -/

/-- A record is in progress: it has been read, and its final write is still due (R316, R372). -/
def Chan.inRecord (x : Chan) : Bool := x.mode == .run && x.phase != .read

/-- The copy channels whose record in progress writes into a region (R316), given the test of a record.
Log entry 71 (DEDUCED). -/
def State.copiesInto (s : State) (regions : List Nat) (writes : State → Nat → Nat → Bool) : List Nat :=
  (s.chans.filter fun kc => kc.2.inRecord && regions.any fun r => writes s kc.1 r).map (·.1)

/-- A destination word of a transfer record is a memory node of a region (R291). -/
def nodeDest (w : Word) (r : Nat) : Bool := w.getLsbD 63 && bitsOf w 56 7 = r

/-- A destination of a channel's record is a memory node of a region (R291): word 2, and as many of words 8 to 10 as
MCM1 says. -/
def chanWrites (s : State) (ch r : Nat) : Bool :=
  let d := (s.chan ch).data
  let n := bitsOf (d.getD 6 0) 8 2
  nodeDest (d.getD 2 0) r || ((d.drop 8).take n).any fun w => nodeDest w r

/-- A WEIR or a SLUICE is placed at every ingress element of an armed context: it drains or is saved (R58, R357).  The
queue entries that stand ahead of a WEIR are those of the moment (R59). Log entries 56 (DEDUCED), 57 (DEDUCED). -/
def State.close (s : State) (cid : Nat) (mode : CtxMode) : State :=
  match s.ctxs.find? cid with
  | none => s
  | some c =>
    if c.mode != .run then s
    else
      let queue (key : Nat) : Nat := ((s.region (key / 96)).ing.getD (portOf (key % 96)) []).length
      let els : Tab Elem := c.elems.map fun ke =>
        (ke.1, if ke.2.cfg.kind = 10 && ke.2.cfg.op = 3 then { ke.2 with cnt := queue ke.1 } else ke.2)
      { s with ctxs := s.ctxs.put cid { c with
          mode := mode
          elems := els
          copies := s.copiesInto c.regions chanWrites } }

/-- The context armed in a region drains where a later arming awaits that region (R57). Log entry 56 (DEDUCED). -/
def State.yieldTo (s : State) (regions : List Nat) : State :=
  match ((regions.head?.bind fun r => (s.region r).armed)) with
  | some c => if s.armings.any fun b => b.regions.any fun r => regions.contains r then s.close c .drain else s
  | none => s

/-- CONTEXT_ARM (R57): an arming whose regions are all unarmed, with no earlier one among them, takes place.
Log entry 56 (DEDUCED). -/
def execContextArm (k : Nat) (s : State) : Outcome State Fault Refusal :=
  match s.armings[k]? with
  | none => .next s
  | some a =>
    let busy := a.regions.any fun r => (s.region r).armed.isSome || ((s.region r).slots.find? a.slot).any (·.marked)
    let earlier := (s.armings.take k).any fun b => b.regions.any fun r => a.regions.contains r
    if busy || earlier then .next s
    else
      .next (({ s with armings := s.armings.eraseIdx k }.armNow a.regions a.slot a.task).yieldTo a.regions)

/-- A context is no longer armed: its regions are left unarmed, its buffers' roles are free, and HELD falls (R108). -/
def State.disarm (s : State) (cid : Nat) : State :=
  match s.ctxs.find? cid with
  | none => s
  | some c =>
    let s := { s with ctxs := s.ctxs.del cid }
    let s := (c.regions.foldl (fun s r => s.updRegion r fun x => { x with armed := none }) s).assignRoles
    c.regions.foldl State.refreshHeld s

/-- A sequencer held between blocks goes on once nothing holds it (R58, R281). Log entry 56 (DEDUCED). -/
def Seq.unhold (x : Seq) : Seq :=
  match x.cond with
  | .held a => if !x.waitDrain && x.awaits.isEmpty then { x with cond := .fetch a } else x
  | _ => x

/-- A drain of a context ends in its regions: ARM in the latches, and a sequencer that a DRAIN holds goes on (R58,
R145). -/
def State.drainEnds (s : State) (regions : List Nat) : State :=
  regions.foldl (fun s r => (s.latch r 0x200).updSeq r fun x => { x with waitDrain := false }.unhold) s

/-- No access of an element is outstanding: writes performed, no fetch or flag access in progress. -/
def Elem.quiet (el : Elem) : Bool := el.wq.isEmpty

/-- The passage of the control tokens is complete (R316, R359). -/
def Ctx.closedOut (c : Ctx) : Bool :=
  c.empty && c.copies.isEmpty && c.elems.all fun ke => (ke.2.passage == .passed || !ke.2.hasPorts) && ke.2.quiet

/-! ## Phase end (R355) -/

/-- The slot the predicate network of a region names, where it is enabled (R36, R355). Log entry 69 (DEDUCED). -/
def State.predicted (s : State) (r : Nat) : Option Nat :=
  let p := (s.region r).pred.toNat
  if p.testBit 32 then
    let flag (f : Nat) : Nat := if s.flag (dieOf r * 4096 + f) then 1 else 0
    let j := 2 * flag (field p 23 12) + flag (field p 11 0)
    some (field p (25 + 2 * j) (24 + 2 * j))
  else none

/-- The regions whose slot was loaded by the CFGL that loaded a region's slot (R57). -/
def State.loadedWith (s : State) (loader slot : Nat) : List Nat :=
  (s.regions.filter fun kr => match kr.2.slots.find? slot with
    | some c => c.loader == loader && !c.marked
    | none => false).map (·.1)

/-! ## Passage of WEIR and SLUICE (R106, R357) -/

/-- The source id an ingress element stamps. Log entry 41 (DEDUCED). -/
def SiteCfg.srcId (c : SiteCfg) : Nat :=
  match c.kind with
  | 10 => if c.op = 3 then c.par 0 % 256 else 0
  | 2 => c.par 2 % 256
  | 6 => c.par 3 % 256
  | _ => 0

/-- The chainage that the next data token of an ingress element would take (R106): that of its counter; of an INGR, that
of the next buffered token, and with none buffered the one that follows the last. Log entry 41 (DEDUCED). -/
def State.nextChn (s : State) (r : Nat) (el : Elem) : Nat :=
  if el.cfg.kind = 10 && el.cfg.op = 1 then
    (((s.bufferFor r el.cfg.handle).bind fun b => (b.toks.drop b.popped).find? (·.isData)).map fun t => hChn t.hdr).getD el.chn
  else el.chn

/-- The control token an ingress element emits (R106, R357). Log entry 57 (DEDUCED). -/
def State.closer (s : State) (r : Nat) (el : Elem) (mode : CtxMode) : Token :=
  ctlTok (hControl (if mode == .save then 3 else 2) (s.nextChn r el) el.cfg.srcId el.ep)

/-- The inputs whose closing lets an element pass: CARRY closes on i0 and i1, then on i2 (R357). -/
def Elem.closers (el : Elem) : List Nat :=
  if el.cfg.kind = 5 && el.cfg.op = 1 then
    if el.passage == .half then el.cfg.inputs.filter (· == 2) else el.cfg.inputs.filter (· ≤ 1)
  else el.cfg.inputs

/-- The element after passing (R357): kept for a save, reset by a WEIR, which ends its reads; CARRY still awaits i2. -/
def Elem.afterPassage (el : Elem) (weir : Bool) : Elem :=
  let p : Passage := if el.cfg.kind = 5 && el.cfg.op = 1 && el.passage == .open && el.cfg.uses 2 then .half else .passed
  if weir then { Elem.initial el.cfg with
      passage := p
      desc := if el.desc == .fetching then .bad else el.desc
      wq := el.wq
      wdone := el.wdone
      rdone := el.rdone + el.readsDue
      lsSeen := el.lsSeen }
  else { el with passage := p }

/-- An element that has still to emit tokens of its own before the control token (R197, R357). -/
def Elem.owes (el : Elem) : Bool := (el.cfg.kind = 6 && el.cfg.op ≤ 2 && el.busy) || (el.cfg.kind = 0 && el.cfg.op = 0x51 && el.kept.isSome)

/-- CONTROL_TOKEN_PASSAGE (R357): the element at the site in focus passes the control tokens, with the header of the one at
its lowest input as it receives it (R23); a CARRY that has emitted
discards, under a WEIR, the data that reaches i2 before its control token. Log entries 42 (DEDUCED), 57 (DEDUCED). -/
def execControlTokenPassage (s : State) : Outcome State Fault Refusal :=
  let r := s.site.r
  match s.elemAt r s.site.s with
  | none => .next s
  | some (cid, c, el) =>
    let key := siteKey r s.site.s
    if !s.canMove r || el.passage == .passed || el.owes || !el.hasPorts then .next s
    else
      let outs := el.cfg.outputs
      let room := outs.all fun o => c.room key o false
      if el.cfg.ingress then
        if c.mode == .run || (c.mode == .drain && !el.closing .drain) || !room then .next s
        else
          let t := s.closer r el c.mode
          .next (s.applyFiring r s.site.s cid c el
            (Firing.of [] (outs.map fun o => (o, t)) (el.afterPassage (c.mode == .drain)) 0))
      else
        let ins := el.closers
        let heads := ins.map fun i => (i, s.headOf c key i)
        let closed (x : Nat × Option Token) : Bool := x.2.any (·.closed)
        match heads.head?.bind (·.2) with
        | none => .next s
        | some t =>
          if heads.all closed then
            let u := received el.cfg (ins.headD 0) t
            let emits := if el.passage == .half then [] else outs.map fun o => (o, ctlTok u.hdr)
            if !emits.isEmpty && !room then .next s
            else
              .next (s.applyFiring r s.site.s cid c el (Firing.of ins emits (el.afterPassage (t.kind == .weir)) 0))
          else if el.passage == .half && c.mode == .drain && t.isData then
            .next (s.applyFiring r s.site.s cid c el (Firing.of [2] [] el 0))
          else .next s

/-! ## Park slots (R357) -/

/-- The inputs the firing that would take the head of input i needs, from the element's state and its open heads. -/
def Elem.needs (el : Elem) (h : Nat → Option Token) (i : Nat) : List Nat :=
  let c := el.cfg
  let xch (k : Nat) : Bool := (h k).any fun t => t.kind == .xch
  match tilePorts c with
  | some (x, t) =>
    if i = t then (if xch t then [t, x] else [t])
    else if i = x && xch x then [x, t]
    else if c.op = 0x40 then
      (if el.ta.isNone then [t] else []) ++ [x] ++ (if el.busy || !c.uses 2 then [] else [2])
    else c.inputs.filter (· != t)
  | none =>
    match c.kind, c.op with
    | 4, 1 =>
      match dataHead h 0 with
      | some k => [0, if predicate c k then 2 else 1]
      | none => [0]
    | 4, _ => []
    | 5, 1 =>
      if el.passage == .half then [2]
      else if !el.busy then [0]
      else match dataHead h 1 with
        | some k => if predicate c k == c.modeBit 14 then [1, 2] else [1]
        | none => [1]
    | 5, _ => if el.busy then [1] else [0]
    | 6, 1 => if el.flag || xch 0 then [0] else [0, 1]
    | 7, 1 => if xch 0 then [0] else [0, 1]
    | 1, 4 => if el.busy then [1] else [0]
    | 2, 3 => if c.modeBit 13 && el.walk.isNone then [1] else [0]
    | _, _ => c.inputs

/-- The park slots of an element that are taken, those of an earlier save among them whose tokens still wait for a slot of
their arc (R357, R360); a token parked at such an input leaves its slot to one of them. Log entry 71 (DEDUCED). -/
def Ctx.parked (c : Ctx) (key i : Nat) (el : Elem) : Nat :=
  el.park.length + (c.arcs.map fun a => if a.dst / 4 = key then a.back.length else 0).sum -
    if c.arcs.any fun a => a.dst == key * 4 + i && !a.back.isEmpty then 1 else 0

/-- SLUICE_PARK (R357): a stuck head of an element that a SLUICE has closed in part takes a park slot. -/
def execSluicePark (p : Port) (s : State) : Outcome State Fault Refusal :=
  let site := p.p / 4
  let i := p.p % 4
  match s.elemAt p.r site with
  | none => .next s
  | some (cid, c, el) =>
    let key := siteKey p.r site
    let h := fun (k : Nat) => if el.cfg.uses k then s.headOf c key k else none
    let closed (k : Nat) : Bool := (h k).any fun t => t.kind == .sluice
    match h i with
    | none => .next s
    | some t =>
      let waits := if el.passage == .half then i == 2
        else (List.range 4).any closed && (el.needs h i).any closed
      if c.mode != .save || !s.canMove p.r || el.passage == .passed || t.closed || !waits || c.parked key i el ≥ 8 then
        .next s
      else .next (s.applyFiring p.r site cid c el (Firing.of [i] [] { el with park := el.park ++ [(i, t)] } 0))

end Sys2Proof.Machine
end

