-- ==== Sys2Proof/Machine/Operands.lean ====
section
/-! DEFINITION. Operand slots, predicates, immediates and targets of a block's instructions (R13, R14, R19, R45),
and the one way an instruction of a block fires. -/

namespace Sys2Proof.Machine

open Host (Outcome)

/-- Instruction k of a block, decoded (R18). -/
def Blk.instr (b : Blk) (k : Nat) : Option Instr :=
  match b.words[k]? with
  | none => none
  | some w => (decode w).toOption

/-- The slots of an instruction, by the slot numbers of R14. -/
def slotL : Nat := 0
def slotR : Nat := 1
def slotP : Nat := 2
def slotX : Nat := 3

/-- What a slot of an instruction holds. -/
def Blk.slot (b : Blk) (ix slot : Nat) : Option Val := b.slots.find? (ix * 4 + slot)

/-- A word operand. -/
def Blk.operand (b : Blk) (ix slot : Nat) : Option Word :=
  match b.slot ix slot with
  | some (.word w) => some w
  | _ => none

/-- A trap condition is raised (R156). Log entry 18 (DEDUCED). -/
def Blk.raise (b : Blk) (ix : Nat) (cause : BitVec 8) (tval : Word) : Blk :=
  { b with traps := b.traps ++ [⟨ix, cause, tval⟩] }

/-- A target slot receives a value, or a second one, which raises ILLINS on the receiver (R19, R45).  The number of
a target is its instruction times four plus its slot (R14).  Predicates are kept in their order of arrival (R80).
Log entry 18 (DEDUCED). -/
def Blk.deliver1 (b : Blk) (v : Val) (t : Target) : Blk :=
  if t = noTarget then b
  else if b.slots.has t.toNat then b.raise (t.toNat / 4) causeILLINS (wd (t.toNat / 4))
  else { b with
    slots := b.slots.put t.toNat v
    arrived := if t.toNat % 4 = slotP then b.arrived ++ [t.toNat / 4] else b.arrived }

/-- Every target receives a copy of the result (R45). -/
def Blk.deliver (b : Blk) (ts : List Target) (v : Val) : Blk := ts.foldl (fun b t => b.deliver1 v t) b

/-- The predicate lets an instruction fire (R45). -/
def Blk.predOk (b : Blk) (ix : Nat) : Pr → Bool
  | .always => true
  | .onTrue => match b.operand ix slotP with
    | some w => w != 0
    | none => false
  | .onFalse => match b.operand ix slotP with
    | some w => w == 0
    | none => false

/-- An instruction has fired: it does not fire again, and one event of its energy class is counted (R45, R382). -/
def Blk.fire (b : Blk) (ix cls : Nat) : Blk :=
  { b with
    fired := ix :: b.fired
    events := b.events.put cls (b.events.getD cls 0 + 1) }

/-- The exit an instruction names. -/
def exitOf : Instr → Option Nat
  | .br f | .bri f | .call f | .calli f | .ret f | .jtab f | .loop f | .scall f | .trap f | .eret f => some f.x.toNat
  | _ => none

/-- Another instruction of a block than ix has fired and meets a test. Log entry 18 (DEDUCED). -/
def Blk.otherFired (b : Blk) (ix : Nat) (p : Instr → Bool) : Bool := b.fired.any fun k => k != ix && (b.instr k).any p

/-- The block in which an instruction of a sequencer fires. -/
def State.blk (s : State) (q n : Nat) : Option Blk := (s.seq q).blocks[n]?

/-- The block with which another takes its place. -/
def State.setBlk (s : State) (q n : Nat) (b : Blk) : State :=
  s.updSeq q fun x => { x with blocks := x.blocks.set n b }

/-- The instruction at the focus fires if it may: it has not fired, its predicate matches, and it is in the oldest
block or is one that runs ahead (R45, R171).  Otherwise it waits, and nothing changes. -/
def State.fireBlk (s : State) (pr : Pr) (ahead : Bool) (g : Blk → Option Blk) : Outcome State Fault Refusal :=
  match s.blk s.cur s.curBlk with
  | none => .next s
  | some b =>
    if b.fired.contains s.curIx || !b.predOk s.curIx pr || !(s.curBlk == 0 || ahead) then .next s
    else
      match g b with
      | none => .next s
      | some b' => .next (s.setBlk s.cur s.curBlk b')

/-- An instruction fires where it may, with an effect outside its block at its firing (R45). -/
def State.fireWith (s : State) (pr : Pr) (ahead : Bool) (g : Blk → Option (Blk × (State → State))) :
    Outcome State Fault Refusal :=
  match s.blk s.cur s.curBlk with
  | none => .next s
  | some b =>
    if b.fired.contains s.curIx || !b.predOk s.curIx pr || !(s.curBlk == 0 || ahead) then .next s
    else
      match g b with
      | none => .next s
      | some (b', post) => .next (post (s.setBlk s.cur s.curBlk b'))

/-- An instruction of one operand that only computes (R45). -/
def State.fire1 (s : State) (pr : Pr) (a : Bool) (cls : Nat) (ts : List Target) (f : Word → Word) :
    Outcome State Fault Refusal :=
  s.fireBlk pr a fun b =>
    match b.operand s.curIx slotL with
    | some x => some ((b.fire s.curIx cls).deliver ts (.word (f x)))
    | none => none

/-- An instruction of two operands that only computes (R45). -/
def State.fire2 (s : State) (pr : Pr) (a : Bool) (cls : Nat) (ts : List Target) (f : Word → Word → Word) :
    Outcome State Fault Refusal :=
  s.fireBlk pr a fun b =>
    match b.operand s.curIx slotL, b.operand s.curIx slotR with
    | some x, some y => some ((b.fire s.curIx cls).deliver ts (.word (f x y)))
    | _, _ => none

/-- An instruction of three operands that only computes (R45). -/
def State.fire3 (s : State) (pr : Pr) (a : Bool) (cls : Nat) (ts : List Target)
    (f : Word → Word → Word → Word) : Outcome State Fault Refusal :=
  s.fireBlk pr a fun b =>
    match b.operand s.curIx slotL, b.operand s.curIx slotR, b.operand s.curIx slotX with
    | some x, some y, some z => some ((b.fire s.curIx cls).deliver ts (.word (f x y z)))
    | _, _, _ => none

/-- IMM12, IMM5 and IMM14 sign-extended (R14). -/
def imm12 (i : BitVec 12) : Word := i.signExtend 64
def imm5 (i : BitVec 5) : Word := i.signExtend 64
def imm14 (i : BitVec 14) : Word := i.signExtend 64

/-- The address an OFF18 names from a block's header (R12). -/
def Blk.offTarget (b : Blk) (off : BitVec 18) : Word := b.addr + off.signExtend 64 * 16

/-- A block's fall-through address (R12). -/
def Blk.fallThrough (b : Blk) : Word := b.addr + wd ((b.size + 15) / 16 * 16)

/-- The instruction that a target names, where it names one (R14). -/
def targetIx (t : Target) : List Nat := if t = noTarget then [] else [t.toNat / 4]

/-- Whether the WRGs named by their indices have fired: the register of each that has (R48, R271).
Log entry 54 (DEDUCED). -/
def Blk.wrgRegs (b : Blk) (ixs : List Nat) : List Nat :=
  ixs.flatMap fun ix =>
    if b.fired.contains ix then
      match b.instr ix with
      | some (.wrg f) => [f.g.toNat]
      | _ => []
    else []

/-- The target fields of a word of a format (R13). -/
def formTargets (w : BitVec 32) : Form → List Target
  | .rd _ => [w.extractLsb' 9 9, w.extractLsb' 0 9]
  | .t2 _ | .tb _ => [w.extractLsb' 12 9, w.extractLsb' 3 9]
  | .ti _ | .tc _ => [w.extractLsb' 12 9]
  | .ls _ | .am _ => [w.extractLsb' 7 9]
  | _ => []

/-- The slots that the CFGLs fired in a block write. -/
def Blk.cfglSlots (b : Blk) : List (Nat × Nat) :=
  b.effs.flatMap fun e => match e.2 with
    | .cfgl rs => rs
    | _ => []

/-- Slots are emptied. -/
def State.emptySlots (s : State) (rs : List (Nat × Nat)) : State :=
  rs.foldl (fun s p => s.updRegion p.1 fun x => { x with slots := x.slots.del p.2 }) s

/-! ## Firings taken back (R132, R172, R310)

A load is repeated when what it has read may no longer stand: it fires again, and so does every instruction that what it
delivered has fed. -/

/-- The numbers of the targets that word k of a block names. -/
def Blk.targetsOf (b : Blk) (k : Nat) : List Nat :=
  match b.words[k]? with
  | none => []
  | some w => match formOf (w.extractLsb' 24 8).toNat with
    | none => []
    | some f => ((formTargets w f).filter (· != noTarget)).map (·.toNat)

/-- An instruction that takes something in turn: an entry of a queue, or a tag (R80, R286). -/
def takesTurn : Instr → Bool
  | .spop _ | .tagf _ => true
  | _ => false

def isCfgl : Instr → Bool
  | .cfgl _ => true
  | _ => false

/-- An effect on memory other than a FENCE's. -/
def MemEff.stores : MemEff → Bool
  | .fence _ _ _ => false
  | _ => true

/-- What must fire again with the instructions ks: those they have fed and those that fed the same slots; with an
instruction that takes its turn, the others of its kind; with a store, the loads of higher positions that have delivered,
which may have taken its bytes; and every one that a trap condition concerns, since the conditions are taken back.
Log entry 94 (DEDUCED). -/
def Blk.again (b : Blk) (ks : List Nat) : List Nat :=
  let ts := ks.flatMap b.targetsOf
  let turn (k : Nat) : Bool := (b.instr k).any takesTurn
  b.fired.filter fun k =>
    ks.contains k || ts.any (fun t => t / 4 == k) || (b.targetsOf k).any ts.contains ||
      (ks.any turn && turn k && b.slots.has (k * 4 + slotP)) ||
      (b.loads.any fun l => l.ix == k && l.done && !l.table && b.mem.any fun m =>
        ks.contains m.ix && m.eff.stores && m.lsid < l.lsid) ||
      b.traps.any fun t => !(b.instr t.ix).any isCfgl && (t.ix == k || (b.targetsOf k).any fun u => u / 4 == t.ix)

/-- Everything that must fire again with some instructions. -/
def Blk.closure (b : Blk) : Nat → List Nat → List Nat
  | 0, ks => ks
  | n + 1, ks => if (b.again ks).length = ks.length then ks else b.closure n (b.again ks)

/-- Firings are taken back: what they delivered, held for the commit and raised.  Their events stay counted (R172); a
condition that a rejected image or word raised stays while its CFGL does. Log entry 94 (DEDUCED). -/
def Blk.unfire (b : Blk) (ks : List Nat) : Blk :=
  let ts := ks.flatMap b.targetsOf
  { b with
    slots := b.slots.filter fun e => !ts.contains e.1
    arrived := b.arrived.filter fun k => !ts.contains (k * 4 + slotP)
    fired := b.fired.filter fun k => !ks.contains k
    waits := b.waits.filter fun w => !ks.contains w.ix
    traps := b.traps.filter fun t => (b.instr t.ix).any isCfgl && !ks.contains t.ix
    regs := b.regs.filter fun e => !(b.wrgRegs ks).contains e.1
    mem := b.mem.filter fun m => !ks.contains m.ix
    loads := b.loads.filter fun l => !ks.contains l.ix
    effs := b.effs.filter fun e => !ks.contains e.1
    exits := b.exits.filter fun e => !ks.contains e.ix }

/-- The RDGs of a block that have read one of some registers. -/
def Blk.readersOf (b : Blk) (gs : List Nat) : List Nat := b.fired.filter fun k => match b.instr k with
  | some (.rdg f) => gs.contains f.g.toNat
  | _ => false

/-- The blocks of a sequencer from the n-th on after firings are taken back: those sel names in each, and in a younger
block the RDGs of registers whose values an older one has taken back (R171). -/
def unfireFrom (sel : Nat → Blk → List Nat) : Nat → List Nat → List Blk → List Blk
  | _, _, [] => []
  | n, gs, b :: rest =>
    let ks := b.fired.filter (sel n b ++ b.readersOf gs).contains
    let ks := if ks.isEmpty then [] else b.closure (b.words.length + 1) ks
    let gs := (gs.filter fun g => match b.regs.find? g with
      | some (.word _) => false
      | _ => true) ++ b.wrgRegs ks
    (if ks.isEmpty then b else b.unfire ks) :: unfireFrom sel (n + 1) gs rest

end Sys2Proof.Machine
end

