-- ==== Sys2Proof/Machine/MemAccess.lean ====
section
/-! DEFINITION. Loads, stores, SNUL, atomics and FENCE of the control thread, as they fire, and the delivery of a
load (R132-R136, R147, R171, R172, R274-R277, R402). -/

namespace Sys2Proof.Machine

open Host (Outcome)

/-- The checks of an access of n bytes, in the order of R134 up to the data itself, given what the translation of its
address answers: the physical address, or the trap. -/
def State.checkOrder (s : State) (tr : Except AccErr Nat) (perm : Perm) (va : Word) (n : Nat) : Except (BitVec 8) Nat :=
  if va.toNat % n != 0 then .error causeALIGN
  else if bitsOf va 52 12 != 0 then .error causeACCESS
  else
    match tr with
    | .error e => .error e.cause
    | .ok pa =>
      match s.windowAt pa n (perm != .read) with
      | .violation => .error causeACCESS
      | .bufw _ _ _ _ => if perm == .read then .ok pa else .error causeACCESS
      | .plain => .ok pa

/-- The checks of an access of n bytes by sequencer q (R134). -/
def State.checkAccess (s : State) (q : Nat) (perm : Perm) (va : Word) (n : Nat) : Except (BitVec 8) Nat :=
  s.checkOrder (s.seqTranslate q perm va.toNat) perm va n

/-- A load/store id has been stored in the block (R132, R136). -/
def Blk.stored (b : Blk) (id : Nat) : Bool := b.mem.any fun m => m.lsid == id && m.eff.stores

/-- Every SMASK id below a position has been stored (R132). -/
def Blk.lowerStored (b : Blk) (pos : Nat) : Bool :=
  (List.range pos).all fun i => !b.smask.getLsbD i || b.stored i

/-- The byte that stores of lower positions leave at a physical address, the highest position first (R132).
Log entry 95 (DESIGN CHOICE). -/
def Blk.forwarded (b : Blk) (pos a : Nat) : Option Byte :=
  b.mem.foldl (fun (best : Option (Nat × Byte)) m =>
    match m.eff with
    | .store _ pa bs =>
      if m.lsid < pos && pa.toNat ≤ a && a < pa.toNat + bs.length then
        match best with
        | some (p, _) => if p ≤ m.lsid then some (m.lsid, bs.getD (a - pa.toNat) 0) else best
        | none => some (m.lsid, bs.getD (a - pa.toNat) 0)
      else best
    | _ => best) none |>.map (·.2)

/-- The bytes a load returns: of lower stores of its block, else of memory (R132). -/
def State.loadBytes (s : State) (b : Blk) (l : LoadRec) : List Byte :=
  (List.range l.n).map fun i =>
    match b.forwarded l.lsid (l.pa.toNat + i) with
    | some v => v
    | none => Memory.byte s.mem (l.pa + i).toNat

/-- The result of a load, extended (R133). -/
def loadResult (signed : Bool) (bs : List Byte) : Word :=
  if signed then wdi (signedOf (8 * bs.length) (numOf bs)) else wd (numOf bs)

/-- A load may deliver: its lower ids are stored, and no byte that it takes from a BUFW entry is awaited (R132,
R299). Log entry 46 (DEDUCED). -/
def State.loadReady (s : State) (b : Blk) (l : LoadRec) : Bool :=
  b.lowerStored l.lsid &&
  match s.windowAt l.pa.toNat l.n false with
  | .bufw c site e e' =>
    match (s.ctxs.find? c).bind fun x => x.elems.find? site with
    | some el => el.entryFull e && el.entryFull e'
    | none => true
  | _ => true

/-- The value a load returns at this moment. -/
def State.loadValue (s : State) (b : Blk) (l : LoadRec) : Word := loadResult l.signed (s.loadBytes b l)

/-- The data a load reads from memory holds an uncorrectable error (R134, check 5, R340). -/
def State.loadFails (s : State) (b : Blk) (l : LoadRec) : Bool :=
  s.poisoned l.pa.toNat l.n && (List.range l.n).any fun i => (b.forwarded l.lsid (l.pa.toNat + i)).isNone

/-- A load delivers the value that stands at this moment. Log entry 46 (DEDUCED). -/
def State.deliverLoad (s : State) (b : Blk) (l : LoadRec) : Blk :=
  let v := s.loadValue b l
  let b := { b with loads := b.loads.map fun (k : LoadRec) => if k.ix == l.ix then { l with done := true, value := v } else k }
  b.deliver [l.t1] (.word v)

/-- An effect at commit meets n bytes at a physical address (R132, R172, R275). Log entry 95 (DESIGN CHOICE). -/
def MemOp.meets (m : MemOp) (a n : Nat) : Bool :=
  match m.eff with
  | .store _ pa bs => overlaps pa.toNat bs.length a n
  | .amo _ _ pa k _ _ _ _ => overlaps pa.toNat k a n
  | _ => false

/-! ## Repeats (R132, R172, R273, R310) -/

/-- A read of memory that has delivered, or that a JTAB has made, would no longer find what it found. -/
def State.outdated (s : State) (q : Nat) (b : Blk) (l : LoadRec) : Bool :=
  l.done && ((s.checkAccess q .read l.va l.n).toOption != some l.pa.toNat || s.loadValue b l != l.value)

/-- A sequencer's firings are taken back from some instructions on (R172). -/
def State.retake (s : State) (q : Nat) (sel : Nat → Blk → List Nat) : State :=
  let bs := unfireFrom sel 0 [] (s.seq q).blocks
  let slots (l : List Blk) : List (Nat × Nat) := (l.take 1).flatMap Blk.cfglSlots
  if bs == (s.seq q).blocks then s
  else
    (s.emptySlots ((slots (s.seq q).blocks).filter fun p => !(slots bs).contains p)).updSeq q fun x => { x with blocks := bs }

/-- A store or atomic has fired on some bytes: the loads of younger blocks that have read any of them are repeated
(R172). -/
def State.afterStore (s : State) (q pa n : Nat) : State :=
  s.retake q fun k b => if k = 0 then [] else
    (b.loads.filter fun l => l.done && overlaps l.pa.toNat l.n pa n).map (·.ix)

/-- An acquire has delivered: the loads of younger blocks that have read what has changed since are repeated, for they are
ordered after it (R273, R312, R313). Log entry 94 (DEDUCED). -/
def State.afterAcquire (s : State) (q : Nat) : State :=
  s.retake q fun k b => if k = 0 then [] else (b.loads.filter (s.outdated q b)).map (·.ix)

/-- The place of a read among the positions of its block: a table read stands ahead of every id (R132, R141). -/
def LoadRec.place (l : LoadRec) : Nat := if l.table then 0 else l.lsid + 1

/-- A read of block n has been made: those that have read before it and yet stand after it, in a younger block or at a
higher position, of the same bytes, are repeated where these have changed since, and so are those of its own
position, which read the same state (R132, R310). Log entry 94 (DEDUCED). -/
def State.afterRead (s : State) (q n : Nat) (l : LoadRec) : State :=
  s.retake q fun k b =>
    (b.loads.filter fun m => s.outdated q b m &&
      if k = n then
        m.ix != l.ix && (m.place == l.place || (l.place < m.place && overlaps m.pa.toNat m.n l.pa.toNat l.n))
      else n < k && overlaps m.pa.toNat m.n l.pa.toNat l.n).map (·.ix)

/-- An instruction that a run-ahead load waits for while it is not performed: an atomic with acq or sc, or a FENCE
with R among its successors (R172). -/
def holdsLoads : Instr → Bool
  | .amoadd f | .amoswp f | .amocas f | .amomin f | .amomax f | .amoand f | .amoor f => f.ord == 1 || f.ord == 3
  | .fence f => f.succ.getLsbD 0
  | _ => false

/-- The position of such an instruction. -/
def positionOf : Instr → Nat
  | .amoadd f | .amoswp f | .amocas f | .amomin f | .amomax f | .amoand f | .amoor f => f.lsid.toNat
  | .fence f => f.lsid.toNat
  | _ => 0

/-- A run-ahead load of block n must wait (R172): for such an instruction of an older block or of a lower position
of its own, for a fired store or atomic of an older block that it overlaps, and always at an MN window (R299).
Log entry 47 (DEDUCED). -/
def State.aheadWaits (s : State) (q n : Nat) (pos : Nat) (pa k : Nat) : Bool :=
  !inHbm pa ||
  ((s.seq q).blocks.take n).any (fun b =>
    (List.range b.words.length).any (fun i => (b.instr i).any holdsLoads) || b.mem.any (·.meets pa k)) ||
  match s.blk q n with
  | some b => (List.range b.words.length).any fun i => (b.instr i).any fun x => holdsLoads x && positionOf x < pos
  | none => false

/-- A load that has raised a trap condition delivers nothing (R156). -/
def Blk.giveUp (b : Blk) (ix : Nat) : Blk := { b with loads := b.loads.filter fun l => l.ix != ix }

/-- The id that a load or a FENCE names. -/
def loadId : Instr → Option Nat
  | .ld f | .lds f => some f.lsid.toNat
  | .fence f => some f.lsid.toNat
  | _ => none

/-- An instruction is a FENCE. -/
def isFence : Instr → Bool
  | .fence _ => true
  | _ => false

/-- A FENCE has fired for an id, or for a FENCE also a load has: two alternatives for one id, of which only loads may share
it (R19, R132), whatever came of the checks of the first (R156). Log entry 18 (DEDUCED). -/
def Blk.fenced (b : Blk) (ix id : Nat) (fence : Bool) : Bool :=
  b.otherFired ix fun i => loadId i == some id && (fence || isFence i)

/-- A fired load of a block delivers where it may: its value, or the trap of check 5, which a run-ahead load leaves for
its block's turn (R134, R147). -/
def State.finishLoad (s : State) (n : Nat) (b : Blk) (l : LoadRec) : Option Blk :=
  if !s.loadReady b l then none
  else if !s.loadFails b l then some (s.deliverLoad b l)
  else if n = 0 then some ((b.giveUp l.ix).raise l.ix causeECCU l.va)
  else none

/-- The granules that a load reads behind the data cache, and its walk, are counted (R133, R395): of data none where its
block's stores give every byte. Log entry 60 (DEDUCED). -/
def State.countLoad (s : State) (q : Nat) (b : Blk) (l : LoadRec) : State :=
  if (List.range l.n).any fun i => (b.forwarded l.lsid (l.pa.toNat + i)).isNone then s.countCached q l.va.toNat l.pa.toNat
  else s.countSeqWalk q l.va.toNat

/-- LD and LDS fire (R132-R134): the address is formed and checked; the load delivers at once where it may.
Log entry 120 (DESIGN CHOICE). -/
def State.fireLoad (s : State) (f : LS) (signed : Bool) : Outcome State Fault Refusal :=
  s.fireWith f.pr f.a fun b =>
    match b.operand s.curIx slotL with
    | none => none
    | some l =>
      let va := l + imm5 f.imm
      let n := 2 ^ f.wd.toNat
      let fired := b.fire s.curIx 3
      match s.checkAccess s.cur .read va n with
      | .error c => if s.curBlk = 0 then some (fired.raise s.curIx c va, id) else none
      | .ok pa =>
        if s.curBlk != 0 && s.aheadWaits s.cur s.curBlk f.lsid.toNat pa n then none
        else
          let r : LoadRec := ⟨f.lsid.toNat, s.curIx, va, wd pa, n, signed, f.t1, false, 0, false⟩
          let b := { fired with loads := b.loads ++ [r] }
          if b.fenced s.curIx f.lsid.toNat false || b.mem.any fun m => (match m.eff with | .amo _ _ _ _ _ _ _ _ => true | _ => false) &&
              m.lsid < f.lsid.toNat && m.meets pa n then
            some ((b.giveUp s.curIx).raise s.curIx causeILLINS (wd s.curIx), id)
          else
            match s.finishLoad s.curBlk b r with
            | some b => some (b, fun t => (t.countLoad s.cur b r).afterRead s.cur s.curBlk r)
            | none => some (b, id)

def execLd (f : LS) (s : State) : Outcome State Fault Refusal := s.fireLoad f false
def execLds (f : LS) (s : State) : Outcome State Fault Refusal := s.fireLoad f true

/-- A store id takes an effect; a second one raises ILLINS (R19). -/
def Blk.addMem (b : Blk) (lsid ix : Nat) (e : MemEff) : Blk :=
  if b.stored lsid then b.raise ix causeILLINS (wd ix) else { b with mem := b.mem ++ [⟨lsid, ix, e⟩] }

/-- ST (R135). Log entry 120 (DESIGN CHOICE). -/
def execSt (f : ST) (s : State) : Outcome State Fault Refusal :=
  s.fireWith f.pr false fun b =>
    match b.operand s.curIx slotL, b.operand s.curIx slotR with
    | some l, some r =>
      let va := l + imm14 f.imm
      let n := 2 ^ f.wd.toNat
      let b := b.fire s.curIx 4
      match s.checkAccess s.cur .write va n with
      | .error c => some ((b.raise s.curIx c va).addMem f.lsid.toNat s.curIx .none, id)
      | .ok pa =>
        some (b.addMem f.lsid.toNat s.curIx (.store va (wd pa) (bytesOf n r.toNat)), fun t => t.afterStore s.cur pa n)
    | _, _ => none

/-- SNUL (R136). -/
def execSnul (f : ST) (s : State) : Outcome State Fault Refusal :=
  s.fireBlk f.pr false fun b => some ((b.fire s.curIx 0).addMem f.lsid.toNat s.curIx .none)

/-- An atomic fires (R274): its address is checked for reading and writing; a fired load of a higher position that
it overlaps raises ILLINS on the load (R275); its WRG counts as written (R271). Log entry 120 (DESIGN CHOICE). -/
def State.fireAmo (s : State) (f : AM) (op : AmoOp) : Outcome State Fault Refusal :=
  s.fireWith f.pr false fun b =>
    match b.operand s.curIx slotL, b.operand s.curIx slotR,
        (if op == .cas then b.operand s.curIx slotX else some 0) with
    | some l, some r, some x =>
      let n := if f.w then 8 else 4
      let b := b.fire s.curIx 5
      match s.checkAccess s.cur .both l n with
      | .error c => some ((b.raise s.curIx c l).addMem f.lsid.toNat s.curIx .none, id)
      | .ok pa =>
        let b := b.addMem f.lsid.toNat s.curIx (.amo op l (wd pa) n r x (targetIx f.t1) f.ord)
        let b := b.loads.foldl (fun b k =>
          if f.lsid.toNat < k.lsid && overlaps pa n k.pa.toNat k.n then
            (b.giveUp k.ix).raise k.ix causeILLINS (wd k.ix)
          else b) b
        some (b.deliver [f.t1] .null, fun t => t.afterStore s.cur pa n)
    | _, _, _ => none

def execAmoadd (f : AM) (s : State) : Outcome State Fault Refusal := s.fireAmo f .add
def execAmoswp (f : AM) (s : State) : Outcome State Fault Refusal := s.fireAmo f .swp
def execAmocas (f : AM) (s : State) : Outcome State Fault Refusal := s.fireAmo f .cas
def execAmomin (f : AM) (s : State) : Outcome State Fault Refusal := s.fireAmo f .min
def execAmomax (f : AM) (s : State) : Outcome State Fault Refusal := s.fireAmo f .max
def execAmoand (f : AM) (s : State) : Outcome State Fault Refusal := s.fireAmo f .and
def execAmoor (f : AM) (s : State) : Outcome State Fault Refusal := s.fireAmo f .or

/-- FENCE fires at block start and takes its place in the commit (R277); a second FENCE or a load for its id raises
ILLINS (R19). -/
def execFence (f : FN) (s : State) : Outcome State Fault Refusal :=
  s.fireBlk .always false fun b =>
    let id := f.lsid.toNat
    if b.fenced s.curIx id true then
      some ((b.fire s.curIx 8).raise s.curIx causeILLINS (wd s.curIx))
    else some { b.fire s.curIx 8 with mem := b.mem ++ [⟨id, s.curIx, .fence f.scope f.pred f.succ⟩] }

/-- What an atomic writes (R274), on numbers of n bytes; none for a compare that fails. Log entry 54 (DEDUCED). -/
def amoResult (op : AmoOp) (n old r x : Nat) : Option Nat :=
  let m := 2 ^ (8 * n)
  let so := signedOf (8 * n) old
  let sr := signedOf (8 * n) r
  match op with
  | .add => some ((old + r) % m)
  | .swp => some (r % m)
  | .min => some (patOf (8 * n) (min so sr))
  | .max => some (patOf (8 * n) (max so sr))
  | .and => some (old &&& r % m)
  | .or => some (old ||| r % m)
  | .cas => if old = r % m then some (x % m) else none

/-- Accesses in order of position, then of instruction. -/
def insertMem (m : MemOp) : List MemOp → List MemOp
  | [] => [m]
  | k :: t => if m.lsid < k.lsid || (m.lsid == k.lsid && m.ix < k.ix) then m :: k :: t else k :: insertMem m t

def sortMem (l : List MemOp) : List MemOp := l.foldr insertMem []

/-- One memory effect is performed at commit (R135, R274, R402): the result registers of an atomic take its old
value, or 0 where the read meets an uncorrectable error, which is kept for the trap after the commit.
Log entry 4 (DEDUCED). -/
def State.performMem (s : State) (q : Nat) (b : Blk) (m : MemOp) : State :=
  match m.eff with
  | .none => s
  | .fence _ _ _ => s
  | .store va pa bs => ((s.store pa.toNat bs).countSeqWalk q va.toNat).countHbm pa.toNat bs.length
  | .amo op va pa n r x ixs _ =>
    let regs := b.wrgRegs ixs
    if s.poisoned pa.toNat n then
      s.updSeq q fun y =>
        { regs.foldl (fun y g => y.setReg g 0) y with eccu := match y.eccu with | some a => some a | none => some va }
    else
      let old := numOf (s.load pa.toNat n)
      let s := match amoResult op n old r.toNat x.toNat with
        | some v => s.store pa.toNat (bytesOf n v)
        | none => s
      ((s.countSeqWalk q va.toNat).countHbm pa.toNat n).updSeq q fun y => regs.foldl (fun y g => y.setReg g (wdi (signedOf (8 * n) old))) y

/-- ACCESS_PERFORMED (R311): the value of a load that has fired returns. -/
def execAccessPerformed (q blk ix : Nat) (s : State) : Outcome State Fault Refusal :=
  match s.blk q blk with
  | none => .next s
  | some b =>
    match b.loads.find? fun (l : LoadRec) => l.ix == ix && !l.done with
    | none => .next s
    | some l =>
      match s.finishLoad blk b l with
      | some b' => .next (((s.setBlk q blk b').countLoad q b l).afterRead q blk l)
      | none => .next s

end Sys2Proof.Machine
end

