-- ==== Sys2Proof/Machine/FabricCmds.lean ====
section
/-! DEFINITION. The control thread's fabric and stream commands (R55-R61, R226, R288). -/

namespace Sys2Proof.Machine

open Host (Outcome)

/-- The waiting instruction at an index. -/
def Blk.waiting (b : Blk) (ix : Nat) : Option Waiter := List.find? (fun (w : Waiter) => w.ix == ix) b.waits

/-- A waiting instruction delivers, and waits no more (R156, R272). -/
def Blk.endWait (b : Blk) (ix : Nat) (ts : List Target) (v : Val) : Blk :=
  { b with waits := b.waits.filter fun w => w.ix != ix }.deliver ts v

/-- A waiting instruction fires, or, once it has fired, goes on where what it awaits has come (R156, R272). -/
def State.fireOrEnd (s : State) (pr : Pr) (start : Blk → Option Blk) (finish : Blk → Waiter → Option Blk) :
    Outcome State Fault Refusal :=
  match (s.blk s.cur s.curBlk).bind fun b => (b.waiting s.curIx).map fun w => (b, w) with
  | some (b, w) =>
    match finish b w with
    | some b' => .next (s.setBlk s.cur s.curBlk b')
    | none => .next s
  | none => s.fireBlk pr false start

/-- An instruction whose value, once it is delivered, is an acquire: what later blocks have read ahead is held against
it (R273, R312). -/
def State.fireAcquire (s : State) (pr : Pr) (start : Blk → Option Blk) (finish : Blk → Waiter → Option Blk) :
    Outcome State Fault Refusal :=
  match (s.blk s.cur s.curBlk).bind fun b => (b.waiting s.curIx).map fun w => (b, w) with
  | some (b, w) =>
    match finish b w with
    | some b' => .next ((s.setBlk s.cur s.curBlk b').afterAcquire s.cur)
    | none => .next s
  | none => s.fireWith pr false fun b =>
      (start b).map fun b' => (b', fun t => if (b'.waiting s.curIx).isNone then t.afterAcquire s.cur else t)

/-- Fabric commands trap ILLINS on the service sequencer (R180). -/
def State.onRegion (s : State) (b : Blk) (g : Blk → Blk) : Option Blk :=
  if s.cur = service then some (b.raise s.curIx causeILLINS (wd s.curIx)) else some (g b)

/-- An effect at commit. -/
def Blk.addEff (b : Blk) (ix : Nat) (e : Eff) : Blk := { b with effs := b.effs ++ [(ix, e)] }

/-! ## CFGL (R56) -/

/-- The regions offered to a CFGL (R41): those its task holds, in the scheduling pool. -/
def State.offered (s : State) (r : Nat) : List Nat :=
  let held := match s.taskOf r with
    | some t => (s.task t).regions
    | none => []
  (r :: held).filter fun g => s.group (groupOf g) == .pool

/-- The CFGWs fired in a block: index, slot, selector. -/
def Blk.cfgwSlots (b : Blk) : List (Nat × Nat × Word) :=
  b.effs.filterMap fun e => match e.2 with
    | .cfgw slot site p _ => some (e.1, slot, wd (slot * 1024 + p * 128 + site / 12 * 16 + site % 12))
    | _ => none

/-- The CFGWs of a block that write a slot which a CFGL of the block lands on raise ACCESS (R288). -/
def Blk.againstCfgw (b : Blk) (r : Nat) (slots : List (Nat × Nat)) : Blk :=
  b.cfgwSlots.foldl (fun b w => if slots.contains (r, w.2.1) then b.raise w.1 causeACCESS w.2.2 else b) b

/-- A CFGL of the block that has trapped lands on a slot (R288). -/
def Blk.landsOn (b : Blk) (x : Nat × Nat) : Bool :=
  b.effs.any fun e => match e.2 with
    | .landed ls => ls.contains x
    | _ => false

/-- Slots take words. -/
def State.putSlots (s : State) (ps : List Placed) : State :=
  ps.foldl (fun s p => s.updRegion p.region fun x => { x with slots := x.slots.put p.slot { p.ctx with marked := true } }) s

/-- Whether a slot of a region is armed now. -/
def State.slotArmed (s : State) (r slot : Nat) : Bool := (s.region r).armed.isSome && (s.region r).ctx == slot

/-- The result of a CFGL at its firing (R56): a trap with the slots it leaves empty and those its records land on, or the
slots it writes.  The checks are taken in the order image, place, armed slot, second CFGL, words. -/
inductive LoadOutcome where
  | wait
  | trap (cause : BitVec 8) (tval : Word) (emptied lands : List (Nat × Nat))
  | done (ps : List Placed)

/-- The slots that the records of an image land on, those that leave the grid apart (R41, R56). -/
def landSlots (bs : List Byte) (anchor slotAdd : Nat) : List (Nat × Nat) :=
  (recordsOf bs).filterMap fun r => (landing anchor r).map fun g => (g, (numAt r 3 1 + slotAdd) % 4)

/-- The read of an image has been performed (R299, R395). Log entry 60 (DEDUCED). -/
def State.imageRead (s : State) (tr : Perm → Nat → Except AccErr Nat) (a : Nat) : State :=
  match s.readImage tr a with
  | .bytes _ ps => (s.readDone ps).countWalk a
  | .fail _ _ => s.countWalk a
  | .wait => s

/-- What a CFGL comes to. Log entries 17 (DESIGN CHOICE), 18 (DEDUCED), 108 (DESIGN CHOICE). -/
def State.tryLoad (s : State) (b : Blk) (a : Word) (slot : Nat) : LoadOutcome :=
  let r := s.cur
  if a.toNat % 64 != 0 then .trap causeALIGN a [] []
  else
    match s.readImage (s.regionTr r) a.toNat with
    | .wait => .wait
    | .fail e va => .trap e.cause (wd va) [] []
    | .bytes bs _ =>
      if !imageGood bs then .trap causeCFGREJECT (rejection 0x0F 0 0 0 0 r) [] []
      else
        match placeRecords bs r (s.offered r) slot r a with
        | none => .trap causeCFGREJECT (rejection 0x10 0 0 0 0 r) [] (landSlots bs r slot)
        | some ps =>
          let slots := ps.map fun p => (p.region, p.slot)
          match List.find? (fun p : Placed => s.slotArmed p.region p.slot) ps with
          | some p => .trap causeACCESS (wd p.slot) [] slots
          | none =>
            if slots.any fun x => b.cfglSlots.contains x || b.landsOn x then .trap causeILLINS (wd s.curIx) [] slots
            else
              match checkPlaced (recordsOf bs) ps s.sbufs with
              | some w => .trap causeCFGREJECT w slots slots
              | none => .done ps

/-- CFGL (R56, R288): the slots it writes stay marked empty until the block commits; a CFGW of the block to one of them
raises ACCESS. Log entry 17 (DESIGN CHOICE). -/
def execCfgl (f : TC) (s : State) : Outcome State Fault Refusal :=
  s.fireWith f.pr false fun b =>
    match b.operand s.curIx slotL with
    | none => none
    | some a =>
      if s.cur = service then some (b.fire s.curIx 7 |>.raise s.curIx causeILLINS (wd s.curIx), id)
      else
        match s.tryLoad b a (f.imm.toNat % 4) with
        | .wait => none
        | .trap c v es ls =>
          let post := fun (t : State) =>
            let t := (if a.toNat % 64 != 0 then t else t.imageRead (t.regionTr s.cur) a.toNat).emptySlots es
            if c == causeCFGREJECT then t.log s.cur none 0x0B 0 v 0 else t
          let b := (b.fire s.curIx 7).addEff s.curIx (.landed ls)
          some ((b.raise s.curIx c v).againstCfgw s.cur ls, post)
        | .done ps =>
          let slots := ps.map fun p => (p.region, p.slot)
          let b := (b.fire s.curIx 7).addEff s.curIx (.cfgl slots)
          some ((b.againstCfgw s.cur slots).deliver [f.t1] (.word (wd ps.length)), fun t => (t.imageRead (t.regionTr s.cur) a.toNat).putSlots ps)

/-! ## CFGA and DRAIN (R57, R58) -/

/-- The block has fired a CFGA or a DRAIN. -/
def Blk.switched (b : Blk) : Bool := b.effs.any fun e => match e.2 with
  | .cfga _ | .drain => true
  | _ => false

/-- CFGA (R57). -/
def execCfga (f : TC) (s : State) : Outcome State Fault Refusal :=
  s.fireBlk f.pr false fun b =>
    s.onRegion (b.fire s.curIx 7) fun b =>
      if b.switched then b.raise s.curIx causeILLINS (wd s.curIx) else b.addEff s.curIx (.cfga (f.imm.toNat % 4))

/-- DRAIN (R58): it delivers rg.ctx and whether a context is armed. -/
def execDrain (f : TC) (s : State) : Outcome State Fault Refusal :=
  s.fireBlk f.pr false fun b =>
    s.onRegion (b.fire s.curIx 7) fun b =>
      if b.switched then b.raise s.curIx causeILLINS (wd s.curIx)
      else
        let x := s.region s.cur
        (b.addEff s.curIx .drain).deliver [f.t1] (.word (wd (x.ctx % 4 + if x.armed.isSome then 4 else 0)))

/-- The regions a CFGA arms (R57). -/
def State.cfgaRegions (s : State) (r slot : Nat) : List Nat := s.loadedWith r slot

/-- The regions that a CFGA of a block is to arm: those of its slot, and those on which the block's CFGLs land there (R57). -/
def State.armable (s : State) (b : Blk) (r slot : Nat) : List Nat :=
  (List.range 96).filter fun g => (s.cfgaRegions r slot).contains g || b.cfglSlots.contains (g, slot)

/-- The regions loaded with a slot of a region. -/
def State.contextAt (s : State) (r slot : Nat) : List Nat :=
  match (s.region r).slots.find? slot with
  | some c => s.loadedWith c.loader slot
  | none => []

/-- The settled check of a CFGA (R57): something of its slot is loaded here or from here, or by a CFGL of the block. -/
def State.cfgaEmpty (s : State) (b : Blk) (r slot : Nat) : Bool :=
  !((s.region r).slots.find? slot).any (fun c => !c.marked) &&
    !b.cfglSlots.contains (r, slot) &&
    (s.cfgaRegions r slot).isEmpty && !(b.cfglSlots.any fun x => x.2 == slot)

/-- CFGA takes effect at commit (R57): what is armed in the regions drains, and the context is to be armed. -/
def State.commitCfga (s : State) (r slot : Nat) : State :=
  let regs := s.cfgaRegions r slot
  let old := (regs.filterMap fun g => (s.region g).armed).eraseDups
  let s := old.foldl (fun s c => s.close c .drain) s
  if regs.isEmpty then s else { s with armings := s.armings ++ [⟨r, slot, regs, s.taskOf r⟩] }

/-- DRAIN takes effect at commit (R58): the region sequencer starts no further block until the drain is complete.
Log entry 56 (DEDUCED). -/
def State.commitDrain (s : State) (r : Nat) : State :=
  match (s.region r).armed with
  | none => s
  | some c => (s.close c .drain).updSeq r fun x => { x with waitDrain := true }

/-! ## TCNT (R226) -/

/-- The element of the armed context at a site of a region is an MMA or SYSM. -/
def State.counted (s : State) (r site : Nat) : Bool :=
  match s.elemAt r site with
  | some (_, _, el) => el.cfg.counts
  | none => false

/-- The site that a selector names (R17). -/
def selSite (sel : BitVec 12) : Nat := sel.toNat / 16 % 8 * 12 + sel.toNat % 16

def execTcnt (f : TC) (s : State) : Outcome State Fault Refusal :=
  s.fireBlk f.pr false fun b =>
    match b.operand s.curIx slotL with
    | none => none
    | some l =>
      s.onRegion (b.fire s.curIx 7) fun b =>
        if s.counted s.cur (selSite f.imm) then b.addEff s.curIx (.tcnt (selSite f.imm) (l.toNat % 2 ^ 32))
        else b.raise s.curIx causeACCESS (f.imm.setWidth 64)

/-- The count reaches the element (R226), where one with a counter is armed there at commit. -/
def State.commitTcnt (s : State) (r site n : Nat) : State :=
  match s.elemAt r site with
  | some (cid, c, el) =>
    if el.cfg.counts then { s with ctxs := s.ctxs.put cid { c with elems := c.elems.put (siteKey r site) (el.addCount n) } }
    else s
  | none => s

/-! ## Port-node queues (R55, R59-R61) -/

/-- The ingress entries a block has fired for a PN, in order of firing. -/
def Blk.pushed (b : Blk) (k : Nat) : List (Nat × Bool × Word) :=
  b.effs.filterMap fun e => match e.2 with
    | .spush j v => if j = k then some (e.1, false, v) else none
    | .inj j h => if j = k then some (e.1, true, h) else none
    | _ => none

/-- An ingress entry is added, or a ninth raises ILLINS (R59). -/
def Blk.push (b : Blk) (ix k : Nat) (e : Eff) : Blk :=
  if (b.pushed k).length ≥ 8 then b.raise ix causeILLINS (wd ix) else b.addEff ix e

/-- SPUSH (R59). -/
def execSpush (f : TC) (s : State) : Outcome State Fault Refusal :=
  s.fireBlk f.pr false fun b =>
    match b.operand s.curIx slotL with
    | none => none
    | some l =>
      let k := f.imm.toNat % 4
      s.onRegion (b.fire s.curIx 7) fun b => b.push s.curIx k (.spush k l)

/-- A header that INJ takes: a bubble, an XCH or a REQ (R59), of any FMT and shape; a bubble's CTL is zero.
Log entry 102 (DESIGN CHOICE). -/
def injectable (h : Word) : Bool := (hKind h = 0 && hCtl h = 0 && hBub h) || (hKind h = 1 && (hCtl h = 1 || hCtl h = 4))

/-- INJ (R59). -/
def execInj (f : TC) (s : State) : Outcome State Fault Refusal :=
  s.fireBlk f.pr false fun b =>
    match b.operand s.curIx slotL with
    | none => none
    | some l =>
      let k := f.imm.toNat % 4
      s.onRegion (b.fire s.curIx 7) fun b =>
        if injectable l then b.push s.curIx k (.inj k (l &&& 0xFFFFFFFF)) else b.raise s.curIx causeILLINS (wd s.curIx)

/-- The SPOPs of a block that have fired for a PN (R60). -/
def Blk.popped (b : Blk) (k : Nat) : Nat :=
  (b.fired.filter fun ix => match b.instr ix with
    | some (.spop f) => f.imm.toNat % 4 = k
    | _ => false).length

/-- SPOPs of the PN of SPOP ix that count before it have not fired (R80): those of lower index that fire at block start; for
a predicated one all that do, and those whose matching predicate has arrived before its own.
Log entry 105 (DESIGN CHOICE). -/
def Blk.spopWaits (b : Blk) (ix k : Nat) : Bool :=
  let cond := match b.instr ix with
    | some (.spop g) => g.pr != .always
    | _ => false
  (List.range b.words.length).any fun j => !b.fired.contains j && j != ix && match b.instr j with
    | some (.spop f) => f.imm.toNat % 4 = k &&
        if f.pr == .always then j < ix || cond
        else cond && b.predOk j f.pr && (b.arrived.takeWhile (· != ix)).contains j
    | _ => false

/-- The instruction of an index is a SPOP that others hold back (R80). Log entry 52 (DEDUCED). -/
def Blk.spopHeld (b : Blk) (ix : Nat) : Bool :=
  match b.instr ix with
  | some (.spop f) => b.spopWaits ix (f.imm.toNat % 4)
  | _ => false

/-- Entry j of the egress queue of a region's PN. -/
def State.egress (s : State) (r k j : Nat) : Option Word := ((s.region r).egr.getD k [])[j]?

/-- SPOP (R60, R80). -/
def execSpop (f : TC) (s : State) : Outcome State Fault Refusal :=
  let k := f.imm.toNat % 4
  s.fireAcquire f.pr
    (fun b =>
      if b.spopWaits s.curIx k then none
      else if s.cur = service then some ((b.fire s.curIx 7).raise s.curIx causeILLINS (wd s.curIx))
      else
        let j := b.popped k
        let b := b.fire s.curIx 7
        match s.egress s.cur k j with
        | some v => some (b.deliver [f.t1] (.word v))
        | none => some { b with waits := b.waits ++ [⟨s.curIx, .spop k j, [f.t1]⟩] })
    (fun b w =>
      match w.wait with
      | .spop k j => (s.egress s.cur k j).map fun v => b.endWait s.curIx w.targets (.word v)
      | _ => none)

/-- SPACE (R61). -/
def execSpace (f : TC) (s : State) : Outcome State Fault Refusal :=
  s.fireBlk f.pr false fun b =>
    s.onRegion (b.fire s.curIx 7) fun b =>
      let k := f.imm.toNat % 4
      let i := ((s.region s.cur).ing.getD k []).length
      let e := ((s.region s.cur).egr.getD k []).length
      b.deliver [f.t1] (.word (wd ((8 - i) + 256 * e)))

/-! ## CFGW (R288) -/

/-- A site word with one parameter replaced. -/
def withParam (w : BitVec 256) (p : Nat) (v : BitVec 32) : BitVec 256 :=
  (w &&& ~~~ ((0xFFFFFFFF : BitVec 256) <<< (96 + 32 * p))) ||| (v.setWidth 256 <<< (96 + 32 * p))

/-- CFGW (R288); another of the block for the same parameter that has fired, be it to trap, makes it a second alternative
(R19). Log entries 18 (DEDUCED), 120 (DESIGN CHOICE). -/
def execCfgw (f : TC) (s : State) : Outcome State Fault Refusal :=
  s.fireWith f.pr false fun b =>
    match b.operand s.curIx slotL with
    | none => none
    | some l =>
      let r := s.cur
      let site := selSite f.imm
      let p := f.imm.toNat / 128 % 8
      let slot := f.imm.toNat / 1024
      let sel : Word := f.imm.setWidth 64
      let b := b.fire s.curIx 7
      if r = service then some (b.raise s.curIx causeILLINS (wd s.curIx), id)
      else
        match (s.region r).slots.find? slot with
        | none => some (b.raise s.curIx causeACCESS sel, id)
        | some c =>
          if c.marked || s.slotArmed r slot || b.landsOn (r, slot) then some (b.raise s.curIx causeACCESS sel, id)
          else
            match checkSite (withParam (c.site site) p (l.setWidth 32)) site (rectOf c.mxmode.toNat) with
            | some x =>
              let w := rejection x.1 site 0 x.2 0 r
              some (b.raise s.curIx causeCFGREJECT w, fun t => t.log r none 0x0B 0 w 0)
            | none =>
              let again := b.otherFired s.curIx fun i => match i with
                | .cfgw g => g.imm == f.imm
                | _ => false
              if again then some (b.raise s.curIx causeILLINS (wd s.curIx), id)
              else some (b.addEff s.curIx (.cfgw slot site p (l.setWidth 32)), id)

/-- A slot with one parameter of a site replaced: its words are no longer those of its image (R288). -/
def CtxSlot.withParam (c : CtxSlot) (site p : Nat) (v : BitVec 32) : CtxSlot :=
  let w := Sys2Proof.Machine.withParam (c.site site) p v
  { c with
    sites := if w = 0 then c.sites.del site else c.sites.put site w
    image := 0 }

/-- The value reaches the slot (R288). -/
def State.commitCfgw (s : State) (r slot site p : Nat) (v : BitVec 32) : State :=
  s.updRegion r fun x =>
    match x.slots.find? slot with
    | none => x
    | some c => { x with slots := x.slots.put slot (c.withParam site p v) }

end Sys2Proof.Machine
end

