-- ==== Sys2Proof/Machine/SiteOps.lean ====
section
/-! DEFINITION. The operation a site word selects by its KIND and OP (R25). -/

namespace Sys2Proof.Machine

open Host (Outcome)

/-- The operation of a site and its firing. -/
def siteOp (kind op : Nat) : Option (Instr × (State → Outcome State Fault Refusal)) :=
  match kind, op with
  | 0, 0x01 => some (.vadd, execVadd)
  | 0, 0x02 => some (.vsub, execVsub)
  | 0, 0x03 => some (.vmul, execVmul)
  | 0, 0x04 => some (.vmin, execVmin)
  | 0, 0x05 => some (.vmax, execVmax)
  | 0, 0x06 => some (.vabs, execVabs)
  | 0, 0x07 => some (.vneg, execVneg)
  | 0, 0x08 => some (.vadds, execVadds)
  | 0, 0x09 => some (.vsubs, execVsubs)
  | 0, 0x0A => some (.vand, execVand)
  | 0, 0x0B => some (.vor, execVor)
  | 0, 0x0C => some (.vxor, execVxor)
  | 0, 0x0D => some (.vshl, execVshl)
  | 0, 0x0E => some (.vshr, execVshr)
  | 0, 0x0F => some (.vsra, execVsra)
  | 0, 0x10 => some (.vcmp, execVcmp)
  | 0, 0x11 => some (.vcmpi, execVcmpi)
  | 0, 0x12 => some (.vsel, execVsel)
  | 0, 0x13 => some (.vaddi, execVaddi)
  | 0, 0x18 => some (.vcvt, execVcvt)
  | 0, 0x19 => some (.vscl, execVscl)
  | 0, 0x1A => some (.vfma, execVfma)
  | 0, 0x20 => some (.vexp2, execVexp2)
  | 0, 0x21 => some (.vlog2, execVlog2)
  | 0, 0x22 => some (.vrcp, execVrcp)
  | 0, 0x23 => some (.vrsq, execVrsq)
  | 0, 0x24 => some (.vtanh, execVtanh)
  | 0, 0x25 => some (.vsigm, execVsigm)
  | 0, 0x28 => some (.vrsum, execVrsum)
  | 0, 0x29 => some (.vrmax, execVrmax)
  | 0, 0x2A => some (.vtrn, execVtrn)
  | 0, 0x30 => some (.hmix, execHmix)
  | 0, 0x31 => some (.vmask, execVmask)
  | 0, 0x40 => some (.mma, execMma)
  | 0, 0x41 => some (.sysm, execSysm)
  | 0, 0x42 => some (.aclr, execAclr)
  | 0, 0x43 => some (.res, execRes)
  | 0, 0x44 => some (.resn, execResn)
  | 0, 0x45 => some (.acmp, execAcmp)
  | 0, 0x46 => some (.astr, execAstr)
  | 0, 0x47 => some (.ald, execAld)
  | 0, 0x48 => some (.aadd, execAadd)
  | 0, 0x50 => some (.tld, execTld)
  | 0, 0x51 => some (.txch, execTxch)
  | 0, 0x52 => some (.temit, execTemit)
  | 1, 0x01 => some (.bufw, execBufw)
  | 1, 0x02 => some (.bufr, execBufr)
  | 1, 0x03 => some (.bufrp, execBufrp)
  | 1, 0x04 => some (.bufrn, execBufrn)
  | 1, 0x05 => some (.scrw, execScrw)
  | 1, 0x06 => some (.scrr, execScrr)
  | 2, 0x01 => some (.agseq, execAgseq)
  | 2, 0x02 => some (.agld, execAgld)
  | 2, 0x03 => some (.agst, execAgst)
  | 2, 0x04 => some (.aggat, execAggat)
  | 2, 0x05 => some (.agsct, execAgsct)
  | 2, 0x06 => some (.agatm, execAgatm)
  | 3, 0x01 => some (.steer, execSteer)
  | 3, 0x02 => some (.steern, execSteern)
  | 3, 0x03 => some (.sink, execSink)
  | 4, 0x01 => some (.merge, execMerge)
  | 4, 0x02 => some (.mergea, execMergea)
  | 4, 0x03 => some (.mergec, execMergec)
  | 5, 0x01 => some (.carry, execCarry)
  | 5, 0x02 => some (.inv, execInv)
  | 6, 0x01 => some (.repeatTok, execRepeatTok)
  | 6, 0x02 => some (.repeatp, execRepeatp)
  | 6, 0x03 => some (.const, execConst)
  | 6, 0x04 => some (.count, execCount)
  | 7, 0x01 => some (.ratem, execRatem)
  | 7, 0x02 => some (.scsplit, execScsplit)
  | 7, 0x03 => some (.scjoin, execScjoin)
  | 8, 0x01 => some (.rdadd, execRdadd)
  | 8, 0x02 => some (.rdmax, execRdmax)
  | 8, 0x03 => some (.rdmin, execRdmin)
  | 9, 0x02 => some (.fan, execFan)
  | 10, 0x01 => some (.ingr, execIngr)
  | 10, 0x02 => some (.egr, execEgr)
  | 10, 0x03 => some (.ingrq, execIngrq)
  | 10, 0x04 => some (.egrq, execEgrq)
  | 11, 0x01 => some (.flset, execFlset)
  | 11, 0x02 => some (.flclr, execFlclr)
  | 11, 0x03 => some (.fltst, execFltst)
  | 11, 0x04 => some (.flwait, execFlwait)
  | 11, 0x05 => some (.flgate, execFlgate)
  | _, _ => none

end Sys2Proof.Machine
end

