-- ==== Sys2Proof/Machine/Sched.lean ====
section
/-! DEFINITION. What happens next: the planned move, a scan of the test access port, or the turn of a party
(log entry 1); and the placing of an instruction where the next step runs it. -/

namespace Sys2Proof.Machine

/-- What a step does. -/
inductive Pick where
  | idle (s : State)
  /-- a step that has no row of its own (R396, R397) -/
  | outside (m : Move) (s : State)
  | run (i : Instr) (s : State)
  | bad

/-- The slots an instruction must have filled before it fires, and its predicate (R16, R45). -/
def needsOf : Instr → List Nat × Pr
  | .rdg _ => ([], .always)
  | .wrg f => ([0], f.pr)
  | .mov f => ([0], f.pr)
  | .movi f => ([], f.pr)
  | .null f => ([], f.pr)
  | .snul f => ([], f.pr)
  | .add f | .sub f | .mul f | .mulh f | .mulhu f | .div f | .divu f | .rem f | .remu f | .and f | .or f
  | .xor f | .shl f | .shr f | .sra f | .rol f | .min f | .max f | .minu f | .maxu f | .teq f | .tne f
  | .tlt f | .tltu f | .tle f | .tleu f | .tgt f | .tgtu f | .tge f | .tgeu f | .fadd f | .fsub f
  | .fmul f | .fdiv f | .fmin f | .fmax f | .fteq f | .ftlt f | .ftle f => ([0, 1], f.pr)
  | .clz f | .popc f | .ext f | .fcvt f | .fsqrt f => ([0], f.pr)
  | .fma f => ([0, 1, 3], f.pr)
  | .movhi f | .addi f | .andi f | .ori f | .xori f | .shli f | .shri f | .srai f | .muli f | .teqi f
  | .tnei f | .tlti f | .tgei f => ([0], f.pr)
  | .ld f | .lds f => ([0], f.pr)
  | .st f => ([0, 1], f.pr)
  | .amoadd f | .amoswp f | .amomin f | .amomax f | .amoand f | .amoor f => ([0, 1], f.pr)
  | .amocas f => ([0, 1, 3], f.pr)
  | .fence _ => ([], .always)
  | .br f | .call f | .ret f | .loop f | .scall f | .trap f | .eret f => ([], f.pr)
  | .bri f | .calli f => ([0], f.pr)
  | .jtab f => ([0, 1], f.pr)
  | .cfgl f | .tcnt f | .spush f | .inj f | .cfgw f | .bar f | .bph f | .flgs f | .flgc f | .flgt f
  | .flgw f | .tagw f | .tagc f | .depd f | .depr f | .cpch f | .sysw f => ([0], f.pr)
  | .cfga f | .drain f | .spop f | .space f | .tagf f | .cpst f | .cpab f | .halt f | .waiti f => ([], f.pr)
  | .sysr f => ([], f.pr)
  | .bwait f => ([0, 1], f.pr)
  | _ => ([], .always)

/-- An instruction may run ahead of its block's turn (R171), a WRG apart. -/
def runsAhead : Instr → Bool
  | .rdg _ => true
  | .mov f | .add f | .sub f | .mul f | .mulh f | .mulhu f | .div f | .divu f | .rem f | .remu f | .and f
  | .or f | .xor f | .shl f | .shr f | .sra f | .rol f | .min f | .max f | .minu f | .maxu f | .teq f
  | .tne f | .tlt f | .tltu f | .tle f | .tleu f | .tgt f | .tgtu f | .tge f | .tgeu f | .fadd f | .fsub f
  | .fmul f | .fdiv f | .fmin f | .fmax f | .fteq f | .ftlt f | .ftle f | .clz f | .popc f | .ext f
  | .fcvt f | .fsqrt f | .fma f => f.a
  | .movi f | .movhi f | .addi f | .andi f | .ori f | .xori f | .shli f | .shri f | .srai f | .muli f
  | .teqi f | .tnei f | .tlti f | .tgei f | .sysr f => f.a
  | .ld f | .lds f => f.a
  | _ => false

/-- Instruction k of a block is enabled (R45, R156). -/
def Blk.enabled (b : Blk) (k : Nat) : Bool :=
  match b.instr k with
  | none => false
  | some i =>
    !b.fired.contains k && b.predOk k (needsOf i).2 && (needsOf i).1.all fun sl => (b.slot k sl).isSome

/-- The lowest enabled instruction of a block. -/
def Blk.firstEnabled (b : Blk) : Option Nat := (List.range b.words.length).find? fun k => b.enabled k

/-! ## Steps of elements -/

/-- A step that the machine takes at the site in focus. -/
def siteStep : Instr → Bool
  | .tilePortWrite | .tileExchange | .controlTokenPassage | .agDescriptorFetch | .agMemoryResponse
  | .agPageFault => true
  | _ => false

/-- An instruction that is the firing of some element. -/
def isFiring (i : Instr) : Bool :=
  (List.range 12).any fun kind => (List.range 0x60).any fun op => (siteOp kind op).any fun x => x.1 == i

/-- The element at a site of a region. -/
def State.elemOf (s : State) (r site : Nat) : Option Elem :=
  ((s.region r).armed.bind fun c => s.ctxs.find? c).bind fun c => c.elems.find? (r * 96 + site)

/-- A step of an element is one of those that its site word selects (R25), or one that every element takes. -/
def State.elemStep (s : State) (r site : Nat) (i : Instr) : Bool :=
  match s.elemOf r site with
  | none => false
  | some el => siteStep i || (siteOp el.cfg.kind el.cfg.op).any fun x => x.1 == i

/-! ## Writes from outside -/

/-- A register that the command window mirrors (R368, R387, R396). Log entry 90 (DEDUCED). -/
def mirrored (id : Nat) : Bool := (0x0C8 ≤ id && id ≤ 0x0CE) || (0x0D0 ≤ id && id ≤ 0x0D6) || (0x0D8 ≤ id && id ≤ 0x0DB)

/-- Whether a step is a write of a register: none where it is not, else whether the register is mirrored.
Log entry 90 (DEDUCED). -/
def registerStep : Instr → Option Bool
  | .registerWrite q id _ => some (q == 96 && mirrored id.toNat)
  | .sqStatusWrite _ _ | .rasdWrite _ _ | .dbgCtlWrite _ _ | .dbgHaltWrite _ _ _ | .dbgStep _ _ | .hangThaw _ _
  | .hangDiscard _ _ | .flogCtlWrite _ _ | .flogRdWrite _ _ => some false
  | .quiesce _ | .retain _ | .gate _ | .release _ | .groupSelectDie _ | .wake _ | .pwrCapWrite _ | .pwrErrlogClear _
  | .pwrVsetWrite _ | .pwrEvalWrite _ | .partitionLoad _ => some true
  | _ => none

/-- A step that comes from outside a sequencer may take place: a write of a mirror needs the host privilege, and any
other write of a register is REGACC's, which debug enables (R396, R400). Log entry 90 (DEDUCED). -/
def State.mayCome (s : State) (i : Instr) : Bool :=
  match registerStep i with
  | none => true
  | some m => (m && s.boot.host) || s.boot.debug

/-- The bits of the host's write of a mirror are counted on the Tabnen link (R395, R396). Log entry 60 (DEDUCED). -/
def State.countWrite (s : State) (i : Instr) : State :=
  if registerStep i == some true && s.boot.host then s.countLink 0 (52 + 64) else s

/-! ## The turns of the parties -/

/-- An instruction of a block takes the focus. -/
def State.focus (s : State) (q n k : Nat) : State := { s with cur := q, curBlk := n, curIx := k }

/-- Instructions in progress or enabled in the run-ahead blocks of a sequencer (R171). -/
def State.aheadMoves (s : State) (q : Nat) : List (Instr × State) :=
  ((s.seq q).blocks.zipIdx.drop 1).flatMap fun bn => (List.range bn.1.words.length).filterMap fun k =>
    match bn.1.instr k with
    | some i => if bn.1.enabled k && runsAhead i then some (i, s.focus q bn.2 k) else none
    | none => none

/-- The steps of a block beside its firings: a waiting instruction ends its wait, a load is delivered, the block resolves,
commits or hangs, or a block runs ahead. -/
def State.blockMoves (s : State) (q : Nat) (b : Blk) : List (Instr × State) :=
  [(.blockResolve q, s), (.blockCommit q, s)] ++
    (b.waits.filterMap fun w => (b.instr w.ix).map fun i => (i, s.focus q 0 w.ix)) ++
    ((b.loads.filter fun l => !l.done).map fun l => (.accessPerformed q 0 l.ix, s)) ++
    [(.blkhang q, s), (.runaheadBlockStart q, s)] ++ s.aheadMoves q

/-- The enabled instructions of the oldest block. -/
def State.firingMoves (s : State) (q : Nat) (b : Blk) : List (Instr × State) :=
  (List.range b.words.length).filterMap fun k =>
    if b.enabled k then (b.instr k).map fun i => (i, s.focus q 0 k) else none

/-- The steps of a sequencer's turn: every enabled instruction of its block is among them.
Log entry 1 (DESIGN CHOICE). -/
def State.threadMoves (s : State) (q : Nat) : List (Instr × State) :=
  match (s.seq q).cond with
  | .fetch _ => [(.blockFetch q, s), (.dbghalt q, s)]
  | .decode _ => [(.blockDecode q, s), (.dbghalt q, s)]
  | .commit _ _ => [(.blockCommit q, s)]
  | .held _ => [(.dbghalt q, s)]
  | .run =>
    match s.blk q 0 with
    | none => []
    | some b => s.firingMoves q b ++ s.blockMoves q b
  | _ => []

/-- The steps of the elements and arcs of a region. -/
def State.fabricMoves (s : State) (r choice : Nat) : List (Instr × State) :=
  let at_ (site : Nat) (i : Instr) : Instr × State := (i, { s with site := ⟨r, site⟩, choice := choice })
  let ctx := (s.region r).armed.bind fun c => s.ctxs.find? c
  let elems := (ctx.map fun c => c.elems.filter fun ke => ke.1 / 96 = r).getD []
  let arcs := (ctx.map fun c => c.arcs.filter fun a => a.dst / 384 = r).getD []
  (elems.flatMap fun ke =>
    ((siteOp ke.2.cfg.kind ke.2.cfg.op).map fun x => at_ (ke.1 % 96) x.1).toList ++
    [at_ (ke.1 % 96) .controlTokenPassage] ++
    (if ke.2.cfg.kind = 0 then [at_ (ke.1 % 96) .tilePortWrite, at_ (ke.1 % 96) .tileExchange] else []) ++
    (if ke.2.cfg.kind = 2 then
      [at_ (ke.1 % 96) .agDescriptorFetch, at_ (ke.1 % 96) .agMemoryResponse, at_ (ke.1 % 96) .agPageFault] else [])) ++
  (arcs.flatMap fun a =>
    let p : Port := ⟨r, a.dst % 384⟩
    [(.tokenVisible p, s), (.requestArrival p, s), (.strayControlDiscard p, s), (.sluicePark p, s)]) ++
  [(.hangDeclaration r, s), (.voltageSlew r, s), (.regionIdleWake r, s), (.regionIdleGate r, s)]

/-- The steps of contexts and of arrivals on their way. -/
def State.contextMoves (s : State) : List (Instr × State) :=
  (s.ctxs.flatMap fun kc => [(.drainComplete kc.1, s), (.phaseEnd kc.1, s)]) ++
    ((List.range s.armings.length).map fun k => (.contextArm k, s)) ++
    ((List.range s.arrivals.length).map fun k => (.barrierArrival k, s))

/-- The steps of the copy channels and of the graph sequencers. -/
def State.engineMoves (s : State) : List (Instr × State) :=
  (s.chans.flatMap fun kc =>
    let d := kc.1 / 64
    let c := kc.1 % 64
    [(.copyChainStart d c, s), (.copyRecordRead d c, s), (.copyWriteUnit d c, s), (.copyRecordComplete d c, s)]) ++
  (List.range 4).flatMap fun d => [(.headraceRecordRead d, s), (.headraceSectionComplete d, s)]

/-- The steps of the task schedulers and of the pager. -/
def State.taskMoves (s : State) : List (Instr × State) :=
  (s.tasks.flatMap fun kt =>
    let d := kt.1 / 4096
    let t := kt.1 % 4096
    [(.taskResume d t, s), (.taskLaunch d t, s), (.taskEnd d t, s), (.taskFault d t, s), (.saveComplete d t, s),
      (.restoreComplete d t, s), (.preemptGraceExpire d t, s)] ++
    (kt.2.preempt.map fun w => ((.preempt d t w : Instr), s)).toList ++
    (List.range kt.2.stages.length).map fun g => (.stageWiden d t g, s)) ++
  (List.range 4).flatMap (fun d => [(.taskSelect d, s), (.preemptDecision d, s)]) ++
  (List.range 8).map fun p => (.pagerResolve p, s)

/-- The steps of the region groups (R369). -/
def State.groupMoves (s : State) : List (Instr × State) :=
  (List.range 24).flatMap fun g =>
    let d := g / 6
    let c := g % 6
    [(.quiesceComplete d c, s), (.retainComplete d c, s), (.gateComplete d c, s), (.wakeComplete d c, s)]

/-- The parties that take turns: 97 sequencers, the fabric of 96 regions, contexts, engines, schedulers, groups, time
and the error window. -/
def parties : Nat := 199

/-- The steps of a party's turn; that of time is the measure of power where one is due (R393).
Log entry 1 (DESIGN CHOICE). -/
def State.movesOf (s : State) (p choice : Nat) : List (Instr × State) :=
  if p < 97 then s.threadMoves p
  else if p < 193 then s.fabricMoves (p - 97) choice
  else if p = 193 then s.contextMoves
  else if p = 194 then s.engineMoves
  else if p = 195 then s.taskMoves
  else if p = 196 then s.groupMoves
  else if p = 197 then
    if s.svc.nextMeasure ≤ s.now then [(.powerMeasure (Config.modulePower s.free), s)] else [(.staticEnergyTick, s)]
  else [(.errorWindowExpire, s)]

/-- The step of the party whose turn it is: each turn of a party takes the next of its steps, so that every one that goes
on being able to move comes to move (R92). Log entry 1 (DESIGN CHOICE). -/
def State.turnMove (s : State) : Pick :=
  let n := s.turn / parties
  let s := { s with turn := s.turn + 1 }
  let p := (s.turn - 1) % parties
  let l := s.movesOf p (n / (s.movesOf p 0).length % 4)
  match l[n % l.length]? with
  | some (i, t) => .run i t
  | none => .idle s

/-- A planned move. Log entry 1 (DESIGN CHOICE). -/
def State.planned (s : State) : Move → Pick
  | .thread q blk ix =>
    if q < 97 then
      match (s.blk q blk).bind fun b => b.instr ix with
      | some i => .run i (s.focus q blk ix)
      | none => .idle s
    else .bad
  | .fire r site choice i =>
    if r < 96 && site < 96 then
      if s.elemStep r site i then .run i { s with site := ⟨r, site⟩, choice := choice } else .idle s
    else .bad
  | .event i =>
    if i.wf && (encode i).isNone && !siteStep i && !isFiring i then
      if s.mayCome i then .run i (s.countWrite i) else .idle s
    else .bad
  | .mirrorRead id => .outside (.mirrorRead id) s
  | .message part what v => .outside (.message part what v) s

/-- What the next step does. Log entry 1 (DESIGN CHOICE). -/
def State.pick (s : State) : Pick :=
  match s.plan with
  | m :: rest => State.planned { s with plan := rest } m
  | [] =>
    match s.tap.scan with
    | some v =>
      let s := { s with tap := { s.tap with scan := none } }
      match decodeTap v with
      | .ok i => .run i s
      | .error _ => .idle s
    | none => s.turnMove

/-! ## Placing an instruction -/

/-- A block in progress of one instruction, whose operand slots hold zeros and whose predicate matches. -/
def blkOf (w : BitVec 32) : Blk where
  addr := 0
  hdr := 0
  lines := []
  wmask := 0
  smask := 0xFFFFFFFF
  nexits := 8
  lc := false
  slice := true
  words := [w]
  deadline := 0
  slots :=
    let i := (decode w).toOption
    let pv : Word := match i.map fun i => (needsOf i).2 with
      | some .onTrue => 1
      | _ => 0
    [(0, .word 0), (1, .word 0), (2, .word pv), (3, .word 0)]
  arrived := []
  fired := []
  waits := []
  traps := []
  regs := []
  mem := []
  loads := []
  effs := []
  exits := []
  events := []

/-- The state in which the next step runs a word: a control-thread word as the only instruction of a block in
progress of region sequencer 0, whose firing is the one move planned; a TAP code as a scan.
Log entry 1 (DESIGN CHOICE). -/
def State.placeWord (s : State) (nbits w : Nat) : State :=
  if nbits = 8 then { s with plan := [], tap := { s.tap with scan := some (BitVec.ofNat 104 (w % 256)) } }
  else
    { s with
      plan := [.thread 0 0 0]
      seqs := s.seqs.put 0 { s.seq 0 with cond := .run, blocks := [blkOf (BitVec.ofNat 32 w)] } }

end Sys2Proof.Machine
end

