-- ==== Sys2Proof/Machine/Sync.lean ====
section
/-! DEFINITION. Barriers, flags, tags, dependence counters and copy-channel commands as they fire (R271-R273,
R279-R283, R286, R287, R290), and the arrival of a barrier's participant (R281, R394). -/

namespace Sys2Proof.Machine

open Host (Outcome)

/-! ## Barriers (R279-R282) -/

def barNum (h : Word) : Nat := bitsOf h 0 6
def barOwner (h : Word) : Nat := bitsOf h 6 7
def barScope (h : Word) : Nat := bitsOf h 13 3
def barCount (h : Word) : Nat := bitsOf h 16 8 + 1

/-- The issuing sequencer lies in the scope instance of a barrier's owner, and in a partition with it (R180, R280). -/
def State.barReach (s : State) (q : Nat) (h : Word) : Bool :=
  let o := barOwner h
  if q = service then barScope h = 3
  else
    match s.partOf q with
    | some p => (s.part p).rmask.testBit o && (barScope h = 3 || (barScope h = 2 && dieOf o = dieOf q) ||
        (barScope h = 1 && o = q))
    | none => false

/-- The group of a barrier's owner is neither gated nor waking (R374). -/
def State.barAwake (s : State) (h : Word) : Bool :=
  match s.group (groupOf (barOwner h)) with
  | .gated | .waking => false
  | _ => true

/-- The checks of a barrier handle (R280, R374). -/
def State.barGood (s : State) (q : Nat) (h : Word) : Bool :=
  bitsOf h 25 39 = 0 && barOwner h < 96 && 1 ≤ barScope h && barScope h ≤ 3 && s.barReach q h && s.barAwake h

/-- A barrier. -/
def State.barrier (s : State) (h : Word) : Barrier := (s.region (barOwner h)).bars.getD (barNum h) ⟨0, 0, 0⟩

/-- How far a barrier's generation has passed a recorded one (R282). -/
def State.barDistance (s : State) (h : Word) (r : BitVec 16) : Nat := ((s.barrier h).gen - r).toNat

/-- The barrier has passed a recorded generation. -/
def State.barPassed (s : State) (h : Word) (r : BitVec 16) : Bool := 1 ≤ s.barDistance h r && s.barDistance h r < 2 ^ 15

/-- BAR (R281): the arrival leaves at commit; the WRG it feeds counts as written from its firing on (R271). -/
def execBar (f : TC) (s : State) : Outcome State Fault Refusal :=
  s.fireBlk f.pr false fun b =>
    match b.operand s.curIx slotL with
    | none => none
    | some h =>
      let b := b.fire s.curIx 8
      if s.barGood s.cur h then some ((b.addEff s.curIx (.bar h (targetIx f.t1))).deliver [f.t1] .null)
      else some (b.raise s.curIx causeACCESS h)

/-- BWAIT (R282). -/
def execBwait (f : TB) (s : State) : Outcome State Fault Refusal :=
  s.fireAcquire f.pr
    (fun b =>
      match b.operand s.curIx slotL, b.operand s.curIx slotR with
      | some h, some r =>
        let b := b.fire s.curIx 8
        let g := r.setWidth 16
        if !s.barGood s.cur h then some (b.raise s.curIx causeACCESS h)
        else if s.barPassed h g then some (b.deliver [f.t1, f.t2] (.word (wd (s.barDistance h g))))
        else some { b with waits := b.waits ++ [⟨s.curIx, .bwait h g, [f.t1, f.t2]⟩] }
      | _, _ => none)
    (fun b w =>
      match w.wait with
      | .bwait h g =>
        if !s.barAwake h then none
        else if s.barPassed h g then some (b.endWait s.curIx w.targets (.word (wd (s.barDistance h g)))) else none
      | _ => none)

/-- BPH (R282). -/
def execBph (f : TC) (s : State) : Outcome State Fault Refusal :=
  s.fireAcquire f.pr
    (fun b =>
      match b.operand s.curIx slotL with
      | none => none
      | some h =>
        let b := b.fire s.curIx 8
        if !s.barGood s.cur h then some (b.raise s.curIx causeACCESS h)
        else some (b.deliver [f.t1] (.word (if (s.barrier h).gen.getLsbD 0 != h.getLsbD 24 then 1 else 0))))
    (fun _ _ => none)

/-- The barrier a collective throttles on (R394). -/
def State.collected (s : State) (h : Word) : Bool :=
  s.svc.coll.getLsbD 31 && bitsOf h 0 25 % 2 ^ 16 = bitsOf s.svc.coll 0 25 % 2 ^ 16

/-- At a generation's completion the owner records each die's slack against the mean of the last arrivals, as a fraction
of the generation's time, and counts it (R394). Log entry 79 (DEDUCED). -/
def Collective.complete (c : Collective) (now : Nat) : Collective :=
  let n := c.last.length
  let total := (c.last.map (·.2)).sum
  let p := now - c.prev
  let slack : Tab (Int × Nat) :=
    if c.gens = 0 then [] else c.last.map fun dt => (dt.1, (total : Int) - n * dt.2, n * p)
  { c with last := [], prev := now, slack := slack, gens := c.gens + 1 }

/-- The first arrival of a sequencer in a list is the next to be counted (R271). Log entry 54 (DEDUCED). -/
def opens (q : Nat) : List Arrival → List Arrival
  | [] => []
  | a :: t => if a.q = q then { a with first := true } :: t else a :: opens q t

/-- BARRIER_ARRIVAL (R271, R281): a committed arrival, those of one block in order of instruction, reaches the owner, is
counted, and its result reaches the registers of the WRGs it feeds; an owner whose power is off takes it once it is awake
(R374). Log entry 54 (DEDUCED). -/
def execBarrierArrival (k : Nat) (s : State) : Outcome State Fault Refusal :=
  match s.arrivals[k]? with
  | none => .next s
  | some a =>
    if !s.barAwake a.h || !a.first then .next s
    else
    let o := barOwner a.h
    let b := s.barrier a.h
    let n := barCount a.h
    let s := { s with arrivals := s.arrivals.take k ++ opens a.q (s.arrivals.drop (k + 1)) }
    let s := if b.arr != 0 && n != b.n then s.log o none 0x0A 0 a.h (wd b.n) else s
    let total := if b.arr = 0 then n else b.n
    let full := b.arr + 1 = total
    let b' : Barrier := if full then ⟨b.gen + 1, 0, total⟩ else ⟨b.gen, b.arr + 1, total⟩
    let s := s.updRegion o fun x => { x with bars := x.bars.put (barNum a.h) b' }
    let s := if s.collected a.h then
        let c := if a.q < 96 then { s.coll with last := s.coll.last.put (dieOf a.q) s.now } else s.coll
        { s with coll := if full then c.complete s.now else c }
      else s
    .next (s.updSeq a.q fun x =>
      { a.regs.foldl (fun (x : Seq) g => x.setReg g (b.gen.setWidth 64)) x with
        awaits := x.awaits.filter fun g => !a.regs.contains g }.unhold)

/-! ## Flags (R283) -/

/-- The flag an instruction names. -/
def State.flagNamed (s : State) (l : Word) (imm : BitVec 12) : Nat :=
  (if s.cur = service then bitsOf l 13 2 else dieOf s.cur) * 4096 + (bitsOf l 0 12 + imm.toNat) % 4096

/-- FLGS and FLGC fire: the flag changes at commit. -/
def State.fireFlag (s : State) (f : TC) (set : Bool) : Outcome State Fault Refusal :=
  s.fireBlk f.pr false fun b =>
    match b.operand s.curIx slotL with
    | none => none
    | some l =>
      some (((b.fire s.curIx 8).addEff s.curIx (.flag (s.flagNamed l f.imm) set (targetIx f.t1))).deliver [f.t1] .null)

def execFlgs (f : TC) (s : State) : Outcome State Fault Refusal := s.fireFlag f true
def execFlgc (f : TC) (s : State) : Outcome State Fault Refusal := s.fireFlag f false

/-- A flag's value as a word. -/
def State.flagWord (s : State) (f : Nat) : Word := if s.flag f then 1 else 0

/-- FLGT (R283). -/
def execFlgt (f : TC) (s : State) : Outcome State Fault Refusal :=
  s.fireAcquire f.pr
    (fun b => (b.operand s.curIx slotL).map fun l =>
      (b.fire s.curIx 8).deliver [f.t1] (.word (s.flagWord (s.flagNamed l f.imm))))
    (fun _ _ => none)

/-- FLGW (R283). Log entry 53 (DEDUCED). -/
def execFlgw (f : TC) (s : State) : Outcome State Fault Refusal :=
  s.fireAcquire f.pr
    (fun b =>
      match b.operand s.curIx slotL with
      | none => none
      | some l =>
        let k := s.flagNamed l f.imm
        let want := !l.getLsbD 12
        let b := b.fire s.curIx 8
        if s.flag k == want then some (b.deliver [f.t1] (.word (s.flagWord k)))
        else some { b with waits := b.waits ++ [⟨s.curIx, .flgw k want false, [f.t1]⟩] })
    (fun b w =>
      match w.wait with
      | .flgw k want passed =>
        if passed || s.flag k == want then some (b.endWait s.curIx w.targets (.word (s.flagWord k))) else none
      | _ => none)

/-! ## Tags (R286) -/

/-- TAGW (R286). -/
def execTagw (f : TC) (s : State) : Outcome State Fault Refusal :=
  let tags := (s.region s.cur).tags
  s.fireAcquire f.pr
    (fun b =>
      match b.operand s.curIx slotL with
      | none => none
      | some l =>
        s.onRegion (b.fire s.curIx 8) fun b =>
          if tags &&& l == l then b.deliver [f.t1] (.word (tags &&& l))
          else { b with waits := b.waits ++ [⟨s.curIx, .tagw l, [f.t1]⟩] })
    (fun b w =>
      match w.wait with
      | .tagw l => if tags &&& l == l then some (b.endWait s.curIx w.targets (.word (tags &&& l))) else none
      | _ => none)

/-- Tags reserved by the saved tasks of a region stay in force (R360). -/
def State.savedTags (s : State) (r : Nat) : BitVec 64 :=
  s.tasks.foldl (fun m kt => match kt.2.saved with
    | some v => m ||| (v.seqs.getD r .initial).tres
    | none => m) 0

/-- The tags that the block's fired TAGFs have delivered. Log entry 52 (DEDUCED). -/
def Blk.tagsTaken (b : Blk) : BitVec 64 :=
  b.effs.foldl (fun m e => match e.2 with
    | .tagf t => m ||| (1 <<< t)
    | _ => m) 0

/-- The lowest free tag, or 64. Log entry 52 (DEDUCED). -/
def lowestFree (used : BitVec 64) : Nat := ((List.range 64).find? fun t => !used.getLsbD t).getD 64

def isTagf (b : Blk) (k : Nat) : Bool :=
  match b.instr k with
  | some (.tagf _) => true
  | _ => false

/-- A TAGF of a lower index may still fire, and something else than a higher TAGF can still happen first: the lower tag
goes to the lower index (R286).  A load that waits for a store of its block (R132) and a SPOP that waits for others (R80)
are not such. Log entry 52 (DEDUCED). -/
def Blk.tagfWaits (b : Blk) (ix : Nat) : Bool :=
  let open_ (k : Nat) : Bool := isTagf b k && !b.fired.contains k &&
    (match b.instr k with
    | some i => (b.slot k slotP).isNone || b.predOk k (needsOf i).2
    | none => false)
  (List.range ix).any open_ &&
    ((List.range b.words.length).any (fun k => k != ix && b.enabled k && !(isTagf b k && ix < k) && !b.spopHeld k) ||
      !b.waits.isEmpty || b.loads.any fun l => !l.done && b.lowerStored l.lsid)

/-- TAGF (R286). Log entry 52 (DEDUCED). -/
def execTagf (f : TC) (s : State) : Outcome State Fault Refusal :=
  s.fireBlk f.pr false fun b =>
    if b.tagfWaits s.curIx then none
    else
      s.onRegion (b.fire s.curIx 8) fun b =>
        let t := lowestFree ((s.region s.cur).tags ||| (s.seq s.cur).tres ||| s.savedTags s.cur ||| b.tagsTaken)
        (if t < 64 then b.addEff s.curIx (.tagf t) else b).deliver [f.t1] (.word (wd t))

/-- TAGC (R286). -/
def execTagc (f : TC) (s : State) : Outcome State Fault Refusal :=
  s.fireBlk f.pr false fun b =>
    match b.operand s.curIx slotL with
    | none => none
    | some l => s.onRegion (b.fire s.curIx 8) fun b => b.addEff s.curIx (.tagc l)

/-! ## Dependence counters (R287) -/

/-- The partition a task's record names (R346). -/
def Task.part (t : Task) : Nat := bitsOf (t.record.getD 2 0) 18 3

/-- A task is allocated to the partition of a region; the service sequencer makes no check (R180, R287). -/
def State.taskGranted (s : State) (q t : Nat) : Bool :=
  q = service || ((s.task t).state != .free && s.partOf q == some (s.task t).part)

/-- The task an instruction names. -/
def State.taskNamed (s : State) (l : Word) (imm : BitVec 12) : Nat :=
  (if s.cur = service then bitsOf l 16 2 else dieOf s.cur) * 4096 + imm.toNat

/-- DEPD and DEPR fire: the counter changes at commit. -/
def State.fireDep (s : State) (f : TC) (e : Nat → Nat → Eff) : Outcome State Fault Refusal :=
  s.fireBlk f.pr false fun b =>
    match b.operand s.curIx slotL with
    | none => none
    | some l =>
      let t := s.taskNamed l f.imm
      let b := b.fire s.curIx 8
      if s.taskGranted s.cur t then some (b.addEff s.curIx (e t (bitsOf l 0 16)))
      else some (b.raise s.curIx causeACCESS (f.imm.setWidth 64))

def execDepd (f : TC) (s : State) : Outcome State Fault Refusal := s.fireDep f .depd
def execDepr (f : TC) (s : State) : Outcome State Fault Refusal := s.fireDep f .depr

/-! ## Copy-channel commands (R290) -/

/-- The channel a command names: die * 64 + engine * 16 + channel. -/
def State.chanNamed (s : State) (imm : BitVec 12) : Nat :=
  (if s.cur = service then imm.toNat / 64 % 4 else dieOf s.cur) * 64 + imm.toNat % 4 * 16 + imm.toNat / 4 % 16

/-- A channel is granted to the partition of a region; the service sequencer makes no check (R180, R290, R391).
Log entry 59 (DEDUCED). -/
def State.chanGranted (s : State) (q ch : Nat) : Bool :=
  q = service ||
    match s.partOf q with
    | some p => (s.part p).chan.getLsbD (ch % 64)
    | none => false

/-- A copy-channel command fires, with checks of its own. -/
def State.fireChan (s : State) (f : TC) (b : Blk) (g : Blk → Nat → Blk) : Blk :=
  let ch := s.chanNamed f.imm
  let b := b.fire s.curIx 7
  if s.chanGranted s.cur ch then g b ch else b.raise s.curIx causeACCESS (f.imm.setWidth 64)

/-- CPCH (R290). -/
def execCpch (f : TC) (s : State) : Outcome State Fault Refusal :=
  s.fireBlk f.pr false fun b =>
    match b.operand s.curIx slotL with
    | none => none
    | some l =>
      some (s.fireChan f b fun b ch =>
        if bitsOf l 0 7 != 0 then b.raise s.curIx causeALIGN l
        else if bitsOf l 52 12 != 0 then b.raise s.curIx causeACCESS l
        else b.addEff s.curIx (.cpch ch l))

/-- CPST (R290). -/
def execCpst (f : TC) (s : State) : Outcome State Fault Refusal :=
  s.fireBlk f.pr false fun b => some (s.fireChan f b fun b ch => b.addEff s.curIx (.cpst ch))

/-- CPAB (R290). -/
def execCpab (f : TC) (s : State) : Outcome State Fault Refusal :=
  s.fireBlk f.pr false fun b => some (s.fireChan f b fun b ch => b.addEff s.curIx (.cpab ch))

end Sys2Proof.Machine
end

