-- ==== Sys2Proof/Machine/Tasks.lean ====
section
/-! DEFINITION. Tasks of a die's scheduler: their records, counters, ends, faults and pre-emption, and the traps that
reach a sequencer from outside (R159, R164, R287, R346-R351, R356-R364, R397). -/

namespace Sys2Proof.Machine

open Host (Outcome)

/-! ## Records (R346) -/

/-- A field of a record held as words. -/
def recBits (r : List Word) (i hi lo : Nat) : Nat := field (r.getD i 0).toNat hi lo

def Task.entry (t : Task) : Word := t.record.getD 0 0 &&& ~~~ 0xF
def Task.chain (t : Task) : Word := t.record.getD 1 0 &&& ~~~ 0x3F
def Task.prio (t : Task) : Nat := recBits t.record 2 17 16
def Task.demand (t : Task) : Nat := 2 ^ recBits t.record 2 22 21
def Task.nrsave (t : Task) : Bool := (t.record.getD 2 0).getLsbD 24
def Task.mnsave (t : Task) : Bool := (t.record.getD 2 0).getLsbD 25
def Task.ptrap (t : Task) : Bool := (t.record.getD 2 0).getLsbD 26
def Task.nopre (t : Task) : Bool := (t.record.getD 2 0).getLsbD 27
def Task.graceUs (t : Task) : Nat :=
  let g := recBits t.record 2 35 28
  if g = 0 then 10 else g
def Task.fixed (t : Task) : Option Nat :=
  if (t.record.getD 2 0).getLsbD 63 then some (recBits t.record 2 61 55) else none
def Task.pipe (t : Task) : Word := t.record.getD 3 0
def Task.image (t : Task) : Word := t.record.getD 4 0
def Task.saveArea (t : Task) : Word := t.record.getD 5 0 &&& ~~~ 0xFFF

/-- The physical address of a task's record. -/
def State.taskRec (s : State) (t : Nat) : Nat := (s.svc.tskBase.getD (t / 4096) 0).toNat + 64 * (t % 4096)

/-- A record read at a physical address. -/
def State.readTaskRec (s : State) (t : Nat) : Except RunErr (List Word × State) :=
  match s.readAt s.physTr (s.taskRec t) 64 with
  | .error e => .error e
  | .ok (bs, s) => .ok (bytesToWords bs, s)

/-- A record is malformed (R346). -/
def State.taskMalformed (s : State) (t : Nat) (r : List Word) : Bool :=
  let x : Task := { Task.initial with record := r }
  recBits r 0 3 0 != 0 || recBits r 1 5 0 != 0 || recBits r 2 22 21 = 3 || recBits r 2 23 23 != 0 ||
    recBits r 2 54 36 != 0 || recBits r 2 62 62 != 0 || recBits r 5 11 0 != 0 || recBits r 7 63 18 != 0 ||
    match x.fixed with
    | some a => a / 24 != t / 4096 || !(s.part x.part).rmask.testBit a
    | none => false

/-! ## Counters (R287, R347) -/

/-- A counter is lowered, saturating; one that reaches 0 makes a waiting task ready.  The amount absorbed. -/
def State.lowerCount (s : State) (t n : Nat) : State × Nat :=
  let c := (s.task t).counter.toNat
  let k := min c n
  let s := s.updTask t fun x =>
    { x with
      counter := BitVec.ofNat 16 (c - k)
      state := if x.state = .wait && c != 0 && k = c then .ready else x.state
      since := if x.state = .wait && c != 0 && k = c then s.now else x.since }
  (s, n - k)

/-- A decrement whose absorbed part enters the log of a sequencer (R287). Log entry 85 (DEDUCED). -/
def State.lowerLogged (s : State) (q t n : Nat) : State :=
  match s.lowerCount t n with
  | (s, k) => if k = 0 then s else s.log q none 0x08 0 (wd t) (wd k)

/-- The same for a copy channel or a graph sequencer, whose events arise in no region (R177, R178). -/
def State.lowerFor (s : State) (q t n : Nat) : State :=
  match s.lowerCount t n with
  | (s, k) => if k = 0 then s else s.logAs q 0x7F none 0x08 0 (wd t) (wd k)

/-- A counter takes a new count, or the write is refused and logged (R287, R347). Log entry 85 (DEDUCED). -/
def State.setCount (s : State) (q t n : Nat) : State :=
  match (s.task t).state with
  | .wait | .done =>
    s.updTask t fun x =>
      { x with
        counter := BitVec.ofNat 16 n
        state := if n = 0 then .ready else .wait
        since := if n = 0 then s.now else x.since }
  | _ => s.log q none 0x09 0 (wd t) (wd n)

/-! ## Interrupts (R397) -/

/-- A message of 16 bytes to the host. Log entry 83 (DEDUCED). -/
def State.interrupt (s : State) (code part what : Nat) (v : Word) : State :=
  { s with irqs := s.irqs ++ [(⟨code, part, what, v⟩ : Irq)] }.countLink 0 128

/-! ## Traps from outside a block (R159, R164) -/

/-- A held asynchronous trap is taken, the precedence being HANG, PREEMPT, DBGHALT; DBGHALT between blocks only.
Log entry 49 (DEDUCED). -/
def Seq.takeAsync (x : Seq) : Seq :=
  if x.tm then x
  else
    match x.resumeAt with
    | none => x
    | some e =>
      match x.asyncHang, x.asyncPreempt, x.asyncDbg with
      | some v, _, _ => ({ x with asyncHang := none }.abandon).enterTrap causeHANG e v
      | none, some v, _ => ({ x with asyncPreempt := none }.abandon).enterTrap causePREEMPT e v
      | none, none, v :: vs =>
        if x.cond == .run then x else { x with asyncDbg := vs }.enterTrap causeDBGHALT e v
      | none, none, [] => x

/-- The slots that the CFGLs of an abandoned block have marked empty stay empty (R56). Log entry 17 (DESIGN CHOICE). -/
def State.dropMarked (s : State) (q : Nat) : State :=
  match (s.seq q).cond, s.blk q 0 with
  | .run, some b => s.emptySlots b.cfglSlots
  | _, _ => s

/-- An asynchronous trap reaches a sequencer (R159). -/
def State.takeAsync (s : State) (q : Nat) : State :=
  let x := (s.seq q).takeAsync
  if x == s.seq q then s else (s.dropMarked q).setSeq q x

/-! ## Faults (R364) -/

/-- FAULT as a task's record holds it (R346). -/
def Task.faultWord (t : Task) : Word := wd (t.cause.toNat + 256 * (t.src % 8) + 2048 * (t.freg % 128))

/-- FAULT is written, or its failure enters the service sequencer's log (R346). -/
def State.writeFault (s : State) (t : Nat) (v : Word) : State :=
  match s.writeAt s.physTr (s.taskRec t + 56) (bytesOf 8 v.toNat) with
  | .ok s => s
  | .error _ => s.log service none 0x04 0 (wd (s.taskRec t)) 0

/-- A fault event is noted against a task that has been dispatched, the first one standing (R347, R364); a task that is
already ending is written at once. -/
def State.flagFault (s : State) (t : Nat) (cause : BitVec 8) (src freg : Nat) : State :=
  let x := s.task t
  match x.state with
  | .free | .wait | .ready | .done | .faulted => s
  | st =>
    if x.toFault then s
    else
      let y := { x with toFault := true, cause := cause, src := src, freg := freg }
      if st = .ending then (s.setTask t y).writeFault t y.faultWord else s.setTask t y

/-- The buffers a task owns are released (R302). -/
def State.dropBuffers (s : State) (t : Nat) : State :=
  { s with sbufs := s.sbufs.filter fun kb => kb.2.owner != some t }

/-- A task leaves its regions: those that a lasting fault names leave the pool (R366). -/
def State.freeRegions (s : State) (t : Nat) : State :=
  s.updTask t fun x => { x with regions := [], stages := [], grace := none, preempt := none }

/-- A task is FAULTED, its regions freed and the host interrupted (R347, R364). -/
def State.enterFaulted (s : State) (t : Nat) : State :=
  let x := s.task t
  let s := ((s.updTask t fun x => { x with state := .faulted, toFault := false }).dropBuffers t).freeRegions t
  if (s.part x.part).host then s.interrupt 0x0001 x.part t x.faultWord else s

/-- A task that has held no context yet is faulted at once (R346, R347). Log entry 70 (DEDUCED). -/
def State.faultNow (s : State) (t : Nat) (cause : BitVec 8) (src freg : Nat) : State :=
  let s := s.updTask t fun x => { x with cause := cause, src := src, freg := freg }
  (s.writeFault t (s.task t).faultWord).enterFaulted t

/-! ## Ends (R351, R364) -/

/-- The contexts armed in a task's regions. -/
def State.taskCtxs (s : State) (t : Nat) : List Nat :=
  ((s.task t).regions.filterMap fun r => (s.region r).armed).eraseDups

/-- A context is on its way into a task's regions. -/
def State.taskArming (s : State) (t : Nat) : Bool :=
  s.armings.any fun a => a.regions.any fun r => (s.task t).regions.contains r

/-- A region of a draining or saved context is frozen (R115, R359). -/
def State.anyFrozen (s : State) (regions : List Nat) : Bool := regions.any fun r => (s.seq r).frozen

/-! ### Discard (R119) -/

/-- The writes an element has issued complete. -/
def State.flushElem (s : State) (r site : Nat) (el : Elem) : State :=
  el.wq.foldl (fun s w =>
    match s.writeRuns (s.regionTr r) (w.runs.map fun x => (x.1.toNat, x.2.length)) with
    | .ok ps => (s.storeRuns ps (w.runs.flatMap (·.2))).walked (w.runs.map (·.1.toNat))
    | .error (.fail _ va) => s.log r (some site) 0x04 w.hdr (wd va) w.hdr
    | .error .wait => s) s

/-- A context is dropped in every one of its regions (R119). Log entry 106 (DESIGN CHOICE). -/
def State.discard (s : State) (cid : Nat) : State :=
  match s.ctxs.find? cid with
  | none => s
  | some c =>
    let s := c.elems.foldl (fun s ke => s.flushElem (ke.1 / 96) (ke.1 % 96) ke.2) s
    let s := s.disarm cid
    let s := c.regions.foldl (fun s r => s.updSeq r fun x => { x with frozen := false, drainw := false }) s
    if c.mode == .drain then s.drainEnds c.regions else s

/-- The drain of a context that stands in a frozen region hangs, and is discarded (R119, R364). -/
def State.discardHung (s : State) (t : Nat) : State :=
  ((s.taskCtxs t).filter fun c => (s.ctxs.find? c).any fun x => s.anyFrozen x.regions).foldl State.discard s

/-- An ending task is DONE or FAULTED once every drain is complete (R347, R351); a faulted task's hung drains are
discarded (R364). -/
def State.finishTask (s : State) (t : Nat) : State :=
  if (s.task t).state != .ending then s
  else
    let s := (s.taskCtxs t).foldl (fun s c => s.close c .drain) s
    let s := if (s.task t).toFault then s.discardHung t else s
    if !(s.taskCtxs t).isEmpty || s.taskArming t || (s.task t).regions.any (fun r => (s.seq r).committing) then s
    else if (s.task t).toFault then s.enterFaulted t
    else ((s.updTask t fun x => { x with state := .done }).dropBuffers t).freeRegions t

/-- A task enters ENDING: its armed contexts are drained (R351, R364). -/
def State.endTask (s : State) (t : Nat) : State := (s.updTask t fun x => { x with state := .ending }).finishTask t

/-- The tasks of the regions a context leaves may have come to their end. -/
def State.finishIn (s : State) (regions : List Nat) : State :=
  ((regions.filterMap s.taskOf).eraseDups).foldl State.finishTask s

/-! ## Pre-emption (R343, R356-R358) -/

/-- A sequencer stops for a save: its block in progress is abandoned (R159, R343). -/
def Seq.park (x : Seq) : Seq :=
  let x := { x with asyncPreempt := none, lbuf := [], recent := [] }
  match x.resumeAt with
  | some a => { x.abandon with cond := .parked a }
  | none => x

/-- A sequencer of a faulted task runs no further. -/
def Seq.stopNow (x : Seq) : Seq := if x.resumeAt.isSome then { x.abandon with cond := .stopped } else x

/-- A SLUICE enters the contexts of a task that is being saved, once no commit of its sequencers is under way (R343,
R357). -/
def State.sluice (s : State) (t : Nat) : State :=
  if (s.task t).regions.any fun r => (s.seq r).committing then s
  else (s.taskCtxs t).foldl (fun s c => s.close c .save) s

/-- A commit that went on while its task was being saved or ended is complete: the sequencer stops before its next block,
as it would have (R158, R343, R364), and the save goes on. -/
def State.afterCommit (s : State) (q : Nat) : State :=
  match s.taskOf q with
  | none => s
  | some t =>
    match (s.task t).state with
    | .saving => (s.updSeq q Seq.park).sluice t
    | .ending => s.updSeq q Seq.stopNow
    | _ => s

/-- The graph sequencer leaves a chain whose task is saved (R360). -/
def State.saveChain (s : State) (t : Nat) : State :=
  let d := t / 4096
  let h := s.race d
  if h.task == some t then
    s.setRace d { h with task := none, loaded := false, waiting := false, data := [] }
  else s.setRace d { h with queue := h.queue.filter fun x => x.1 != t }

/-- Where a task's chain stands (R360). -/
def State.chainAt (s : State) (t : Nat) : Option Word × Bool :=
  let h := s.race (t / 4096)
  if h.task == some t then (some h.recAt, h.waiting)
  else
    match h.queue.find? fun x => x.1 == t with
    | some x => (some (x.2 &&& ~~~ 1), x.2.getLsbD 0)
    | none => (none, false)

/-- Pre-emption begins (R343, R357): the sequencers of the task's regions stop, then a SLUICE enters its contexts; the copy
records then in progress into its regions are to end before the save does (R316, R360). -/
def State.startSave (s : State) (t : Nat) : State :=
  let x := s.task t
  let s := x.regions.foldl (fun s r => (s.dropMarked r).updSeq r Seq.park) s
  let pos := s.chainAt t
  let keep : Saved := {
    regions := x.regions
    ctxs := []
    seqs := []
    bufs := []
    mxs := []
    chain := pos.1
    chainWaits := pos.2
    copies := s.copiesInto x.regions chanWrites }
  let s := s.saveChain t
  let s := s.updTask t fun x => { x with state := .saving, grace := none, preempt := none, saved := some keep }
  s.sluice t

/-- The scheduler may pre-empt a task (R356). -/
def Task.preemptible (x : Task) : Bool := x.state = .run && !x.nopre && x.saveArea != 0

/-- The scheduler decides to pre-empt a task: through the PREEMPT trap first where PTRAP asks for it (R356, R358). -/
def State.decidePreempt (s : State) (t reason : Nat) : State :=
  let x := s.task t
  if !x.preemptible || x.preempt.isSome || x.grace.isSome then s
  else if x.ptrap then s.updTask t fun x => { x with preempt := some reason }
  else s.startSave t

/-- PREEMPT (R358): the trap reaches the anchor sequencer, and the grace runs. -/
def execPreempt (die task reason : Nat) (s : State) : Outcome State Fault Refusal :=
  let t := die * 4096 + task
  let x := s.task t
  if !x.preemptible || x.grace.isSome || !(x.preempt == some reason || reason = 4) then .next s
  else if !x.ptrap then .next (s.startSave t)
  else
    let s := s.updTask t fun x => { x with preempt := none, grace := some (s.now + x.graceUs * 1000) }
    let s := s.updSeq x.anchor fun y => { y with asyncPreempt := some (wd (reason + 256 * x.graceUs)) }
    .next (s.takeAsync x.anchor)

/-- PREEMPT_GRACE_EXPIRE (R358): no yield has come within the grace, so the save proceeds. -/
def execPreemptGraceExpire (die task : Nat) (s : State) : Outcome State Fault Refusal :=
  let t := die * 4096 + task
  match (s.task t).grace with
  | some g => if (s.task t).state = .run && g ≤ s.now then .next (s.startSave t) else .next s
  | none => .next s

end Sys2Proof.Machine
end

