-- ==== Sys2Proof/Machine/Ends.lean ====
section
/-! DEFINITION. The end of a drain and the end of a phase, with the tasks they bring to their end (R58, R316, R351,
R353, R355, R359). -/

namespace Sys2Proof.Machine

open Host (Outcome)

/-- DRAIN_COMPLETE (R58, R316, R359): the context is left unarmed in all its regions, and a task that was waiting for
its drains comes to its end (R351). Log entry 56 (DEDUCED). -/
def execDrainComplete (cid : Nat) (s : State) : Outcome State Fault Refusal :=
  match s.ctxs.find? cid with
  | none => .next s
  | some c =>
    if c.mode != .drain || !c.closedOut || s.anyFrozen c.regions then .next s
    else .next (((s.disarm cid).drainEnds c.regions).finishIn c.regions)

/-- The ingress of a context has seen LS (R353): every INGR and INGRQ of it. Log entry 68 (DEDUCED). -/
def Ctx.ingressOver (c : Ctx) : Bool :=
  c.elems.all fun ke => !(ke.2.cfg.ingress && ke.2.cfg.kind = 10) || ke.2.lsSeen

/-- The fabric-only stages whose regions a context holds have ended, once its ingress has seen LS (R353). -/
def State.stageEnds (s : State) (c : Ctx) : State :=
  match (if c.ingressOver then c.task else none) with
  | none => s
  | some t =>
    s.updTask t fun x => { x with stages := x.stages.map fun (g : Stage) =>
      if !g.thread && g.regions.any (fun r => c.regions.contains r) then { g with ended := true } else g }

/-- PHASE_END (R355, R316): once every write its elements have issued is performed, PHASE is set in the latches; a
fabric-only stage may have ended; the predicate network of the first region that enables it arms the slot it names, or
leaves the regions unarmed where that slot is empty. Log entry 69 (DEDUCED). -/
def execPhaseEnd (cid : Nat) (s : State) : Outcome State Fault Refusal :=
  match s.ctxs.find? cid with
  | none => .next s
  | some c =>
    if c.mode != .run || c.ended || !c.phaseOver || s.anyFrozen c.regions || !(c.elems.all fun ke => ke.2.quiet) then .next s
    else
      match c.regions.findSome? fun r => (s.predicted r).map fun j => (r, j) with
      | none =>
        let s := c.regions.foldl (fun s r => s.latch r 0x400) s
        let s := s.stageEnds c
        .next { s with ctxs := s.ctxs.put cid { c with ended := true } }
      | some (r, j) =>
        let s := c.regions.foldl (fun s r => s.latch r 0x400) s
        let s := (s.stageEnds c).disarm cid
        match (s.region r).slots.find? j with
        | none => .next s
        | some k => .next (s.armNow ((s.loadedWith k.loader j).filter fun g => c.regions.contains g) j c.task)

end Sys2Proof.Machine
end

