-- ==== Sys2Proof/Machine/Hang.lean ====
section
/-! DEFINITION. Hang detection, the cadastre, thaw and discard (R113-R119, R359, R364). -/

namespace Sys2Proof.Machine

open Host (Outcome)

/-! ## Tokens at rest (R114) -/

/-- An element holds a token of its own. -/
def Elem.holdsToken (el : Elem) : Bool :=
  el.kept.isSome || !el.held.isEmpty || !el.park.isEmpty || el.tile.isSome ||
    (el.cfg.kind = 1 && el.cfg.op ≤ 4 && el.cnt != 0)

/-- The elements of a context in a region, by site. -/
def Ctx.elemsIn (c : Ctx) (r : Nat) : Tab Elem :=
  c.elems.filterMap fun ke => if ke.1 / 96 = r then some (ke.1 % 96, ke.2) else none

/-- A token stands in a region; one on an arc between regions stands in its consumer's. Log entry 58 (DEDUCED). -/
def Ctx.holdsIn (c : Ctx) (r : Nat) : Bool :=
  (c.arcs.any fun a => a.dst / 384 = r && (!a.toks.isEmpty || a.relReg.isSome)) ||
    (c.elemsIn r).any fun ke => ke.2.holdsToken

/-- A page fault or a memory access of a region is outstanding: of its elements, or a load of its sequencer that waits for
no store of its own block. Log entry 58 (DEDUCED). -/
def State.outstanding (s : State) (c : Ctx) (r : Nat) : Bool :=
  ((s.seq r).blocks.any fun b => b.loads.any fun l => !l.done && b.lowerStored l.lsid) ||
  (c.elemsIn r).any fun ke =>
    ke.2.stall.isSome || !ke.2.wq.isEmpty ||
      (ke.2.cfg.kind = 2 && (ke.2.desc == .fetching ||
        match State.pendingAccess { s with site := ⟨r, ke.1⟩ } c ke.2 with
        | .none => false
        | _ => true))

/-- A number rounded up to a multiple of 64. -/
def upTo64 (n : Nat) : Nat := (n + 63) / 64 * 64

/-- The region is to be declared hung (R114); a thaw restarts the interval (R119). Log entry 58 (DEDUCED). -/
def State.hung (s : State) (r : Nat) : Bool :=
  let x := s.seq r
  match (s.region r).armed.bind fun c => s.ctxs.find? c with
  | none => false
  | some c =>
    x.hangEn && !x.frozen && c.holdsIn r && s.heldMask r = 0 && !s.outstanding c r && (s.region r).millpond.isNone &&
      upTo64 (max (s.region r).lastMove (s.region r).thawed + x.hangTime.toNat) ≤ s.now

/-! ## The cadastre (R116-R118) -/

/-- An entry's parts: this port, reason, its arc, the other port, the two headers, AUX. -/
structure Blocked where
  site : Nat
  out : Bool
  port : Nat
  reason : Nat
  arc : Option Arc
  other : Option (Nat × Nat × Bool × Nat)
  head : Word
  otherHead : Word
  aux : Word

/-- The oldest token at the consumer of an arc, visible or withheld. -/
def Arc.oldest (a : Arc) : Option Token :=
  match a.relReg, a.toks with
  | some t, _ => some t
  | none, f :: _ => if f.vis then some f.tok else none
  | none, [] => none

/-- The oldest token at an input. -/
def Ctx.oldestAt (c : Ctx) (key i : Nat) : Option Token := (c.arcTo (key * 4 + i)).bind Arc.oldest

/-- A copy of the state, for the question what an element would do next, in which the outputs of an element have room and
requests without end. -/
def State.roomy (s : State) (cid key : Nat) : State :=
  s.updCtx cid fun c => { c with arcs := c.arcs.map fun a =>
    if a.src / 4 = key then { a with cap := a.cap + 2 ^ 20, req := a.req + 2 ^ 20, back := [] } else a }

/-- What the steps of an element would reach if its region were not frozen. -/
def State.stepsAt (s : State) (r site : Nat) (el : Elem) : List (Outcome State Fault Refusal) :=
  let t := { s.updSeq r fun x => { x with frozen := false } with site := ⟨r, site⟩ }
  (match siteOp el.cfg.kind el.cfg.op with
    | some x => [x.2 t]
    | none => []) ++ [execControlTokenPassage t]

/-- An element can fire (R117). -/
def State.fireable (s : State) (r site : Nat) (el : Elem) : Bool :=
  (s.stepsAt r site el).any fun
    | .next u => u.ctxs != s.ctxs
    | _ => false

/-- The outputs on which an element would emit if it had room. -/
def State.wouldEmit (s : State) (cid r site : Nat) : List Nat :=
  let key := siteKey r site
  match s.ctxs.find? cid with
  | none => []
  | some c =>
    match c.elems.find? key with
    | none => []
    | some el =>
      let runs := (s.roomy cid key).stepsAt r site el
      let grown (u : State) (o : Nat) : Bool :=
        match u.ctxs.find? cid with
        | some d => c.arcs.any fun a => a.src == key * 4 + o && d.arcs.any fun b => b.dst == a.dst && a.toks.length < b.toks.length
        | none => false
      (List.range 4).filter fun o => runs.any fun
        | .next u => grown u o
        | _ => false

/-- The port at the consumer's end of an arc. -/
def Arc.far (a : Arc) : Nat × Nat × Bool × Nat := (a.dst / 384, a.dst % 384 / 4, false, a.dst % 4)

/-- The outputs on which an element would emit and that an arc of a kind keeps from it, with a reason (R117). -/
def State.blockedOuts (s : State) (cid : Nat) (c : Ctx) (r site reason : Nat) (p : Arc → Bool) : List Blocked :=
  (s.wouldEmit cid r site).filterMap fun o =>
    (List.find? (fun a : Arc => a.src == siteKey r site * 4 + o && p a) c.arcs).map fun a =>
      ⟨site, true, o, reason, some a, some a.far, 0, (a.oldest.map (·.hdr)).getD 0, 0⟩

/-- The address of the memory access that an address generator awaits (R118, R299). -/
def State.awaited (s : State) (c : Ctx) (r site : Nat) (el : Elem) : Option Word :=
  if el.cfg.kind != 2 then none
  else if el.desc == .fetching then some (wd el.cfg.descAddr)
  else
    match State.pendingAccess { s with site := ⟨r, site⟩ } c el with
    | .read runs _ => runs.head?.map fun x => wd x.1
    | .write w _ => w.runs.head?.map (·.1)
    | .none => none

/-- What an element with a head awaits outside the fabric (R118): reason and AUX. -/
def State.outsideWait (s : State) (c : Ctx) (r site : Nat) (el : Elem) : Option (Nat × Word) :=
  match el.stall, s.awaited c r site el with
  | some va, _ => some (0x09, va)
  | none, some a => some (0x0A, a)
  | none, none =>
    match el.cfg.kind, el.cfg.op with
    | 10, 4 => some (0x06, wd (((s.region r).egr.getD (site / 12 - 4) []).length))
    | 10, 2 => some (0x07, wd (el.cfg.par 0))
    | 10, 1 => some (0x07, wd (el.cfg.par 0))
    | 11, 4 => if el.waited.isSome then some (0x0B, wd el.cnt) else none
    | _, _ => none

/-- The halt point that still withholds the oldest token of an arc (R118, code 0x08), by its release bit. -/
def State.withholder (s : State) (a : Arc) : Option Nat :=
  match a.relReg, a.toks with
  | none, f :: _ => (s.holds a).find? fun k => !f.rel.getLsbD k
  | _, _ => none

/-- The entry of a blocked input (R117, R118); lacking names the arc whose request the element awaits. -/
def State.blockedIn (s : State) (c : Ctx) (r site i : Nat) (el : Elem) (lacking : Option Arc) : Option Blocked :=
  let key := siteKey r site
  match c.arcTo (key * 4 + i) with
  | none => none
  | some a =>
    match a.oldest with
    | none => none
    | some t =>
      let h := fun (k : Nat) => if el.cfg.uses k then c.oldestAt key k else none
      let port (reason : Nat) (k : Option Nat) : Blocked :=
        ⟨site, false, i, reason, some a, k.map fun k => (r, site, false, k), t.hdr,
          (((k.bind fun k => h k).map (·.hdr)).getD 0), 0⟩
      let others := el.cfg.inputs.filter (· != i)
      match s.withholder a with
      | some k => some { port 0x08 none with aux := wd (k % 16) }
      | none =>
        if t.closed then
          some (port 0x03 ((others.find? fun k => (h k).any fun u => !u.closed).or
            (others.find? fun k => (h k).isNone)))
        else
          let need := ((el.needs h i).filter (· != i)) ++ others
          match need.find? fun k => (h k).any (·.closed) with
          | some k => some (port 0x02 (some k))
          | none =>
            match s.outsideWait c r site el, lacking with
            | some w, _ => some { port w.1 none with aux := w.2 }
            | none, some a => some { port 0x05 none with
                other := some a.far
                otherHead := (a.oldest.map (·.hdr)).getD 0 }
            | none, none => some (port 0x01 (need.find? fun k => (h k).isNone))

/-- The output of an element that holds no head and awaits an outside condition: an INGR its buffer's data (R302, R304),
an address generator its memory (R299). Log entry 58 (DEDUCED). -/
def State.blockedOwn (s : State) (c : Ctx) (r site : Nat) (el : Elem) : List Blocked :=
  let port (reason : Nat) (aux : Word) : Blocked :=
    ⟨site, true, 0, reason, List.find? (fun a : Arc => a.src == siteKey r site * 4) c.arcs, none, 0, 0, aux⟩
  if el.passage != .open then []
  else if el.cfg.kind = 10 && el.cfg.op = 1 then [port 0x07 (wd (el.cfg.par 0))]
  else
    match el.stall, s.awaited c r site el with
    | some va, _ => [port 0x09 va]
    | none, some a => [port 0x0A a]
    | none, none => []

/-- The entries of an element (R117): the outputs that lack a slot; else, of one that cannot fire, the inputs that hold a
head, and the output on which it awaits a request. Log entry 58 (DEDUCED). -/
def State.blockedAt (s : State) (cid : Nat) (c : Ctx) (r site : Nat) (el : Elem) : List Blocked :=
  match s.blockedOuts cid c r site 0x04 fun a => a.full with
  | [] =>
    if s.fireable r site el then []
    else
      let reqs := s.blockedOuts cid c r site 0x05 fun a => a.demand && a.req = 0
      match el.cfg.inputs.filterMap fun i => s.blockedIn c r site i el (reqs.head?.bind (·.arc)) with
      | [] => s.blockedOwn c r site el
      | ins => ins ++ reqs
  | outs => outs

/-- An entry's words (R117). -/
def Blocked.words (b : Blocked) : List Word :=
  let o := match b.other with
    | some (r, site, dir, p) => r * 2 ^ 51 + (if dir then 2 ^ 50 else 0) + p * 2 ^ 48 + site * 2 ^ 40
    | none => 0
  let a := match b.arc with
    | some a => satTo 255 a.cap * 2 ^ 32 + satTo 255 a.toks.length * 2 ^ 24
    | none => 0
  [wd (o + a + b.port * 2 ^ 16 + (if b.out then 2 ^ 15 else 0) + b.site * 2 ^ 8 + b.reason), b.head, b.otherHead, b.aux]

/-- The header (R116). Log entry 58 (DEDUCED). -/
def State.cadastreHead (s : State) (c : Ctx) (r : Nat) (es : List Blocked) : List Word :=
  let magic := 0x43 + 0x44 * 2 ^ 8 + 0x53 * 2 ^ 16 + 0x31 * 2 ^ 24
  let flags := (if c.mode == .drain then 1 else 0) + (if c.mode == .save then 2 else 0) +
    (if es.any fun e => e.other.any fun o => o.1 != r then 4 else 0)
  [wd (magic + r * 2 ^ 32 + (s.region r).ctx * 2 ^ 40 + es.length * 2 ^ 48), wd s.now, wd (s.region r).lastMove, wd flags,
    0, 0, 0, 0]

/-- Pieces written one after another: writing stops at the first that faults. -/
def State.writePieces (s : State) (tr : Perm → Nat → Except AccErr Nat) (a : Nat) : List (List Word) → State × Bool
  | [] => (s, true)
  | p :: rest =>
    match s.writeVia tr a (wordsToBytes p) with
    | .error _ => (s, false)
    | .ok s => s.writePieces tr (a + 8 * p.length) rest

/-- The cadastre is written; sq.tval of the trap (R115, R116). Log entry 58 (DEDUCED). -/
def State.writeCadastre (s : State) (r : Nat) : State × Word :=
  let base := (s.seq r).hangMap
  match (s.region r).armed.bind fun c => (s.ctxs.find? c).map fun x => (c, x) with
  | none => (s, 0)
  | some (cid, c) =>
    if base = 0 then (s, 0)
    else
      let es := (c.elemsIn r).flatMap fun ke => s.blockedAt cid c r ke.1 ke.2
      match s.writePieces (s.regionTr r) base.toNat (s.cadastreHead c r es :: es.map Blocked.words) with
      | (s, true) => (s, base)
      | (s, false) => (s, base + 1)

/-! ## Discard and thaw (R119) -/

/-- HANG_DISCARD (R119): hang.ctl is written with CMD = discard. -/
def execHangDiscard (q : Nat) (v : Word) (s : State) : Outcome State Fault Refusal :=
  if q ≥ 96 || bitsOf v 8 2 != 2 then .next s
  else
    let frozen := (s.seq q).frozen
    let s := s.updSeq q fun x =>
      { x with hangEn := v.getLsbD 0, hangTrap := v.getLsbD 1, hangNotify := v.getLsbD 2 }
    match (s.region q).armed with
    | some c => if frozen then
        let regs := (s.ctxs.find? c).elim [] (·.regions)
        .next ((s.discard c).finishIn regs)
      else .next s
    | none => .next s

/-- HANG_THAW (R119): hang.ctl is written with CMD = thaw. Log entry 106 (DESIGN CHOICE). -/
def execHangThaw (q : Nat) (v : Word) (s : State) : Outcome State Fault Refusal :=
  if q ≥ 96 || bitsOf v 8 2 != 1 then .next s
  else
    let frozen := (s.seq q).frozen
    let s := s.updSeq q fun x =>
      { x with
        hangEn := v.getLsbD 0
        hangTrap := v.getLsbD 1
        hangNotify := v.getLsbD 2
        frozen := false
        drainw := x.drainw && !frozen }
    .next (if frozen then s.updRegion q fun x => { x with thawed := s.now } else s)

/-! ## The declaration (R115, R359, R364) -/

/-- The scheduler's action on a freeze (R359, R364): a save is discarded, and of a faulted task's drains those that hang; a
task whose sequencer takes no HANG trap is faulted. Log entry 71 (DEDUCED). -/
def State.onFreeze (s : State) (r : Nat) (reported : Bool) : State :=
  match s.taskOf r with
  | none => s
  | some t =>
    let x := s.task t
    let dropAll (s : State) : State := (s.taskCtxs t).foldl (fun s c => s.discard c) s
    match x.state with
    | .saving => (dropAll s).faultNow t causeHANG 4 r
    | .ending =>
      if x.toFault then s.finishTask t
      else if reported && !(s.seq r).hangTrap then (s.flagFault t causeHANG 4 r).finishTask t
      else s
    | _ => if reported && !(s.seq r).hangTrap then s.flagFault t causeHANG 4 r else s

/-- HANG_DECLARATION (R114, R115): the region freezes, the cadastre is written, the freeze is reported, and the trap is
raised. Log entry 58 (DEDUCED). -/
def execHangDeclaration (r : Nat) (s : State) : Outcome State Fault Refusal :=
  if !s.hung r then .next s
  else
    let draining := match (s.region r).armed.bind fun c => s.ctxs.find? c with
      | some c => c.mode != .run
      | none => false
    let s := s.updSeq r fun x => { x with frozen := true, drainw := draining }
    let (s, v) := s.writeCadastre r
    let trap := (s.seq r).hangTrap
    let s := s.onFreeze r (s.seq r).hangNotify
    .next (if trap then (s.updSeq r fun x => { x with asyncHang := some v }).takeAsync r else s)

end Sys2Proof.Machine
end

