-- ==== Sys2Proof/Machine/Regs.lean ====
section
/-! DEFINITION. What every system register reads, and the writes that only store a value (R52, R53, R108, R109, R113,
R160, R166, R173-R177, R365, R368, R381, R387, R388, R394, R395). -/

namespace Sys2Proof.Machine

open Host (Outcome)

/-- A flag as a bit of a register. -/
def bitOf (b : Bool) (n : Nat) : Nat := if b then 2 ^ n else 0

/-! ## Sequencer registers -/

/-- An asynchronous trap is held (R164). -/
def Seq.pending (x : Seq) : Bool := x.tm && (x.asyncHang.isSome || x.asyncPreempt.isSome || !x.asyncDbg.isEmpty)

/-- sq.status (R173). -/
def Seq.status (x : Seq) (svc : Bool) : Word :=
  wd (bitOf x.esat 31 + x.dcause.toNat * 2 ^ 16 + bitOf x.dbl 15 + bitOf x.pending 12 + bitOf svc 5 + bitOf x.raen 4 +
    bitOf x.lben 3 + bitOf x.tm 0)

/-- The fields a write of sq.status sets (R173). -/
def Seq.withStatus (x : Seq) (v : Word) : Seq :=
  { x with
    esat := v.getLsbD 31
    dcause := v.extractLsb' 16 8
    dbl := v.getLsbD 15
    raen := v.getLsbD 4
    lben := v.getLsbD 3
    tm := v.getLsbD 0 }

/-- Leakage of a region in mW at a voltage code (R388); 0 for a code between the table's columns. -/
def leakage (v : Nat) : Nat :=
  if v % 2 = 0 then [520, 600, 690, 790, 900, 1030, 1170, 1330].getD (v / 2) 0 else 0

/-- Static power of a region at a voltage code, from its calibrated figure at the nominal one: in the proportion of R388's
table, rounded down or up where that gives no whole number; between the table's columns free.
Log entry 78 (DESIGN CHOICE). -/
def staticAt (c v : Nat) : Nat :=
  if leakage v = 0 then Config.staticPower c v
  else c * leakage v / 900 + if c * leakage v % 900 = 0 then 0 else Config.staticPower c v % 2

/-- Static power of the regions a task holds, in mW (R381). Log entry 78 (DESIGN CHOICE). -/
def State.staticMw (s : State) (q : Nat) : Nat :=
  let regs := match s.taskOf q with
    | some t => (s.task t).regions
    | none => []
  satTo 0xFFFF (regs.map fun r =>
    let c := s.energy.getD (5 * 128 + r) 0 / 9000
    staticAt c (s.region r).vcur).sum

/-- sq.encfg (R381). -/
def State.encfg (s : State) (q : Nat) : Word :=
  wd (s.staticMw q * 2 ^ 16 + bitOf (s.seq q).senOn 1 + bitOf (s.seq q).enOn 0)

/-- Entry k of the return-address store (R166). -/
def Seq.rasAt (x : Seq) (k : Nat) : Word := x.ras.getD k 0

/-- The store with a depth (R166). -/
def rasDepth (l : List Word) (n : Nat) : List Word :=
  let n := satTo 32 n
  l.take n ++ List.replicate (n - l.length) 0

/-- A halt point as it reads (R109): REL and COUNT follow the arcs. -/
def State.haltWord (s : State) (r k : Nat) : Word :=
  let h := s.halt r k
  let on := (s.seq r).hen && h.getLsbD 31
  let n := if on then (s.heldBy r k).length else 0
  let rel := (s.arcsOf r).any fun a => haltNames h r a && a.relReg.isSome
  wd (h.toNat + bitOf rel 20 + satTo 15 n * 2 ^ 16)

/-- The bits of a halt point that a write stores (R109). -/
def haltBits (v : Word) : BitVec 32 := v.setWidth 32 &&& 0x8000F3FF

/-- dbg.ctl (R108). -/
def State.dbgCtl (s : State) (r : Nat) : Word :=
  let x := s.seq r
  wd ((s.heldMask r).toNat * 2 ^ 16 + x.lasthit.toNat * 2 ^ 12 + bitOf x.htrap 1 + bitOf x.hen 0)

/-- hang.ctl (R113). -/
def Seq.hangCtl (x : Seq) : Word :=
  wd (bitOf x.drainw 17 + bitOf x.frozen 16 + bitOf x.hangNotify 2 + bitOf x.hangTrap 1 + bitOf x.hangEn 0)

/-- The fields of hang.ctl that a write sets (R113). -/
def Seq.withHang (x : Seq) (v : Word) : Seq :=
  { x with hangEn := v.getLsbD 0, hangTrap := v.getLsbD 1, hangNotify := v.getLsbD 2 }

/-- The entries a fault log's ring holds (R177). -/
def Seq.logSize (x : Seq) : Nat := 2 ^ ((if x.flogSize.toNat > 12 then 12 else x.flogSize.toNat) + 4)

/-- flog.ctl (R177). -/
def Seq.flogCtl (x : Seq) : Word :=
  wd (x.flogW.toNat * 2 ^ 32 + x.flogDrop.toNat * 2 ^ 16 + bitOf (x.logSize ≤ (x.flogW - x.flogR).toNat) 4 +
    x.flogSize.toNat)

/-- A field of a word kept in place. -/
def keep (v : Word) (hi lo : Nat) : Word := wd (field v.toNat hi lo * 2 ^ lo)

/-! ## Service registers -/

/-- The code of a group's state (R369). -/
def GroupState.code : GroupState → Nat
  | .pool => 0
  | .quiescing => 1
  | .quiet => 2
  | .retaining => 3
  | .retained => 4
  | .gated => 5
  | .waking => 6

/-- pwr.state (R376). -/
def State.pwrState (s : State) : Word :=
  wd (((List.range 6).map fun c => (s.group (s.svc.stateDie * 6 + c)).code * 8 ^ c).sum)

/-- pwr.vset (R388). -/
def State.vset (s : State) : Word :=
  let r := s.svc.vsetRegion
  wd ((s.region r).vcur * 2 ^ 12 + (s.region r).vceil * 2 ^ 8 + r)

/-- The counter pwr.esel selects, where it names one (R395). Log entry 82 (DEDUCED). -/
def State.counter (s : State) : Option Nat :=
  let k := field s.svc.esel.toNat 10 8
  let i := field s.svc.esel.toNat 6 0
  let lim := match k with
    | 0 => 96
    | 1 => 8
    | 2 => 16
    | 3 => 4
    | 4 => 25
    | 5 => 96
    | _ => 0
  if i < lim then some (k * 128 + i) else none

/-- pwr.eval (R395). Log entry 82 (DEDUCED). -/
def State.evalReg (s : State) : Word :=
  match s.counter with
  | some k => wd (s.energy.getD k 0 / 9000 + bitOf (s.energySat.getD k false) 63)
  | none => 0

/-! ## The maps (R175, R180, R365, R368, R387) -/

/-- A register that region and service sequencers both have. -/
def State.readShared (s : State) (q id : Nat) : Option Word :=
  let x := s.seq q
  match id with
  | 0x000 => some (x.status (q = service))
  | 0x001 => some (x.cause.setWidth 64)
  | 0x002 => some x.epc
  | 0x003 => some x.tval
  | 0x004 => some x.scratch
  | 0x005 => some x.tvec
  | 0x006 => some (wd s.now)
  | 0x007 => some (x.btime.setWidth 64)
  | 0x008 => some (wd x.ras.length)
  | 0x010 => some (x.energy.setWidth 64)
  | 0x011 => some (s.encfg q)
  | 0x044 => some x.flogBase
  | 0x045 => some x.flogCtl
  | 0x046 => some (x.flogR.setWidth 64)
  | _ =>
    if 0x070 ≤ id && id < 0x080 then some ((x.enw.getD (id - 0x070) 0).setWidth 64)
    else if 0x080 ≤ id && id < 0x0A0 then some (x.rasAt (id - 0x080))
    else none

/-- A register of a region sequencer alone. -/
def State.readRegion (s : State) (r id : Nat) : Option Word :=
  match id with
  | 0x020 => some (s.dbgCtl r)
  | 0x031 => some 0
  | 0x040 => some (s.seq r).hangCtl
  | 0x041 => some (s.seq r).hangMap
  | 0x042 => some ((s.seq r).hangTime.setWidth 64)
  | 0x050 => some (wd (s.region r).ctx)
  | 0x051 => some (s.region r).pred
  | 0x052 => some (s.region r).mxmode
  | 0x060 => some (s.region r).tags
  | _ => if 0x021 ≤ id && id < 0x031 then some (s.haltWord r (id - 0x021)) else none

/-- A register of the service sequencer alone. -/
def State.readService (s : State) (id : Nat) : Option Word :=
  let v := s.svc
  match id with
  | 0x0C0 => some (wd (v.wexp * 256 + v.thr))
  | 0x0C8 => some v.grpreq
  | 0x0C9 => some v.grpack
  | 0x0CA => some v.retsave
  | 0x0CB => some s.pwrState
  | 0x0CC => some 0
  | 0x0CD => some (wd v.cap)
  | 0x0CE => some v.errlog
  | 0x0D0 => some v.partBase
  | 0x0D1 => some 0
  | 0x0D2 => some s.vset
  | 0x0D3 => some v.coll
  | 0x0D4 => some v.esel
  | 0x0D5 => some s.evalReg
  | 0x0D6 => some v.peer
  | _ => if 0x0D8 ≤ id && id < 0x0DC then some (v.tskBase.getD (id - 0x0D8) 0) else none

/-- What a register of a sequencer reads; none where the sequencer does not implement the id (R52). -/
def State.readReg (s : State) (q id : Nat) : Option Word :=
  match s.readShared q id with
  | some v => some v
  | none => if q = service then s.readService id else s.readRegion q id

/-- A register that a SYSW may not name (R53, R175, R368). -/
def readOnly (id : Nat) : Bool := [0x006, 0x050, 0x052, 0x060, 0x0C9, 0x0CB].contains id

/-- Two values of pwr.coll name one barrier and are both enabled, so that its record goes on (R394).
Log entry 79 (DEDUCED). -/
def sameCollective (a b : Word) : Bool := a.getLsbD 31 && b.getLsbD 31 && bitsOf a 0 25 == bitsOf b 0 25

/-- A write that only stores a value (R53): the fields of each register's map.  None for a register with a behaviour of
its own. -/
def State.writePlain (s : State) (q id : Nat) (v : Word) : Option State :=
  let seq (f : Seq → Seq) : Option State := some (s.updSeq q f)
  let svc (f : Service → Service) : Option State := if q = service then some { s with svc := f s.svc } else none
  match id with
  | 0x001 => seq fun x => { x with cause := v.setWidth 8 }
  | 0x002 => seq fun x => { x with epc := v &&& ~~~ 0xF }
  | 0x003 => seq fun x => { x with tval := v }
  | 0x004 => seq fun x => { x with scratch := v }
  | 0x005 => seq fun x => { x with tvec := v &&& ~~~ 0xF }
  | 0x007 => seq fun x => { x with btime := if v.toNat % 2 ^ 32 < 1024 then 1024 else v.setWidth 32 }
  | 0x010 => seq fun x => { x with energy := v.setWidth 48 }
  | 0x011 => seq fun x => { x with enOn := v.getLsbD 0, senOn := v.getLsbD 1 }
  | 0x040 => if bitsOf v 8 2 = 1 || bitsOf v 8 2 = 2 || q = service then none else seq fun x => x.withHang v
  | 0x041 => if q = service then none else seq fun x => { x with hangMap := v &&& ~~~ 0x3F }
  | 0x042 =>
    if q = service then none
    else seq fun x => { x with hangTime := if v.toNat % 2 ^ 32 < 1000 then 1000 else v.setWidth 32 }
  | 0x044 => seq fun x => { x with flogBase := keep v 51 5 }
  | 0x051 => if q = service then none else some (s.updRegion q fun x => { x with pred := keep v 32 0 })
  | 0x0C0 => svc fun x =>
      let w := bitsOf v 8 8
      { x with wexp := if 10 ≤ w && w ≤ 40 then w else 26, thr := bitsOf v 0 8 }
  | 0x0CA => svc fun x => { x with retsave := keep v 51 12 ||| keep v 0 0 }
  | 0x0D0 => svc fun x => { x with partBase := keep v 51 12 }
  | 0x0D3 =>
    let c := keep v 31 31 ||| keep v 24 0
    if q = service then some { s with
      svc := { s.svc with coll := c }
      coll := if sameCollective s.svc.coll c then s.coll else Collective.initial }
    else none
  | 0x0D4 => svc fun x => { x with esel := keep v 10 8 ||| keep v 6 0 }
  | 0x0D6 => svc fun x => { x with peer := keep v 51 12 }
  | _ =>
    if 0x070 ≤ id && id < 0x080 then seq fun x => { x with enw := x.enw.set 0 (id - 0x070) (v.setWidth 16) }
    else if 0x080 ≤ id && id < 0x0A0 then
      seq fun x => { x with ras := x.ras.set (id - 0x080) (v &&& ~~~ 0xF) }
    else if 0x0D8 ≤ id && id < 0x0DC then svc fun x => { x with tskBase := x.tskBase.set 0 (id - 0x0D8) (keep v 51 18) }
    else none

end Sys2Proof.Machine
end

