-- ==== Sys2Proof/Machine/Save.lean ====
section
/-! DEFINITION. The region image of a save and the retention image of a group, as they stand in memory, and what is read
back from them (R359, R360, R373, R375, R384). -/

namespace Sys2Proof.Machine

open Host (Outcome)

/-! ## Runs of memory moved whole -/

/-- The cells of n bytes from an address on. -/
def Memory.cells (m : List Host.Cell) (a n : Nat) : List Host.Cell := m.filter fun c => a ≤ c.1 && c.1 < a + n

/-- Memory with n bytes from an address on at their blank value. -/
def Memory.wipe (m : List Host.Cell) (a n : Nat) : List Host.Cell := m.filter fun c => !(a ≤ c.1 && c.1 < a + n)

/-- Memory with n bytes copied from src to dst. -/
def Memory.move (m : List Host.Cell) (src dst n : Nat) : List Host.Cell :=
  (Memory.cells m src n).foldl (fun (m : List Host.Cell) c => Memory.putByte m (c.1 - src + dst) c.2) (Memory.wipe m dst n)

/-- The lines that copies of blocks hold: loop buffers, committed, decoded and running blocks (R155, R169). -/
def State.copiedLines (s : State) : List Nat :=
  ((s.seqs.flatMap fun kq =>
    ((kq.2.lbuf ++ kq.2.recent).flatMap (·.lines)) ++ (kq.2.blocks.flatMap (·.lines)) ++ match kq.2.cond with
      | .decode k => k.lines
      | _ => []).map (·.1)).eraseDups

/-- Writes that have reached the lines of n bytes, as far as a copy holds one (R155). Log entry 47 (DEDUCED). -/
def State.reach (s : State) (a n : Nat) : Tab Nat :=
  (s.copiedLines.filter fun l => a < 64 * l + 64 && 64 * l < a + n).foldl (fun w l => w.set 0 l (w.getD l 0 + 1)) s.written

/-- n bytes are copied, the granules written losing their marks (R340) and the copies of their lines (R155). -/
def State.moveBytes (s : State) (src dst n : Nat) : State :=
  ({ s with
    mem := Memory.move s.mem src dst n
    written := s.reach dst n
    poison := (wholeGranules dst n).foldl (fun p g => p.del g) s.poison }.countHbm src n).countHbm dst n

/-- n bytes become zero. -/
def State.zeroBytes (s : State) (a n : Nat) : State :=
  { s with
    mem := Memory.putBytes (Memory.wipe s.mem a n) a (if blankByte = 0 then [] else List.replicate n 0)
    written := s.reach a n
    poison := s.poison.filter fun g => !(a ≤ g.1 * 64 && g.1 * 64 < a + n) }

/-- The MN bytes of a region. -/
def nodesAddr (r : Nat) : Nat := 0x8000000000 + r * 0x400000
def nodesSize : Nat := 0x400000

/-- A granule of a region's MNs is poisoned (R340). -/
def State.nodesPoisoned (s : State) (r : Nat) : Bool :=
  s.poison.any fun g => g.2 && nodesAddr r ≤ g.1 * 64 && g.1 * 64 < nodesAddr r + nodesSize

/-- The MN bytes of a region copied out to physical pieces, or back from them. -/
def State.nodesOut (s : State) (a : Nat) : List (Nat × Nat) → State
  | [] => s
  | p :: ps => State.nodesOut (s.moveBytes a p.1 p.2) (a + p.2) ps

def State.nodesIn (s : State) (a : Nat) : List (Nat × Nat) → State
  | [] => s
  | p :: ps => State.nodesIn (s.moveBytes p.1 a p.2) (a + p.2) ps

/-! ## Words by offset -/

/-- n words from a table by index, zero where it has none. -/
def tableWords (n : Nat) (t : Tab Word) : List Word := (List.range n).map fun i => t.getD i 0

/-- Some words laid out from an index on. -/
def wordsAt (i : Nat) (ws : List Word) : Tab Word := ws.zipIdx.map fun x => (x.2 + i, x.1)

/-- The word at a byte offset of an image. -/
def wordOff (ws : List Word) (off : Nat) : Word := ws.getD (off / 8) 0

/-! ## Queues (R360) -/

/-- A queue's eight places. -/
def eight (l : List Word) : List Word := (l ++ List.replicate 8 0).take 8

/-- The queues of a region: places, counts, kinds. -/
def Region.queueWords (x : Region) : List Word :=
  (List.range 4).flatMap fun k => eight ((x.ing.getD k []).map (·.2)) ++ eight (x.egr.getD k [])

def Region.queueCounts (x : Region) : Word :=
  wd (((List.range 4).map fun k => ((x.ing.getD k []).length + 16 * (x.egr.getD k []).length) * 256 ^ k).sum)

def Region.queueKinds (x : Region) : Word :=
  wd (((List.range 4).map fun k =>
    (((x.ing.getD k []).zipIdx.map fun e => bitOf e.1.1 e.2).sum) * 256 ^ k).sum)

/-- Queues read back from places, counts and kinds. -/
def ingressFrom (qs : List Word) (cnt kinds : Word) (k : Nat) : List (Bool × Word) :=
  ((List.range (satTo 8 (bitsOf cnt (8 * k) 4)))).map fun j => (kinds.getLsbD (8 * k + j), qs.getD (16 * k + j) 0)

def egressFrom (qs : List Word) (cnt : Word) (k : Nat) : List Word :=
  ((List.range (satTo 8 (bitsOf cnt (8 * k + 4) 4)))).map fun j => qs.getD (16 * k + 8 + j) 0

/-- The queues of a region as a table without empty ones. -/
def queueTab {α : Type} (f : Nat → List α) : Tab (List α) :=
  (List.range 4).filterMap fun k => if (f k).isEmpty then none else some (k, f k)

/-! ## Element records (R360) -/

/-- Free bits of a save image, whose use no rule states. -/
def freeBits (d n : Nat) : Nat := (Config.freeWord d).toNat % 2 ^ n

/-- A tile register as a 32 × 32 tile of its format, scales last: places outside the tile held are not stated.
Log entry 71 (DEDUCED). -/
def tile32 (d fmt : Nat) (t : Option Token) : List Byte :=
  let code (i : Nat) : Nat :=
    match t with
    | some t => if i / 32 < t.rows && i % 32 < t.cols then t.codes.getD (i / 32 * t.cols + i % 32) 0
      else Config.freeElem d i % 2 ^ fmtBits fmt
    | none => Config.freeElem d i % 2 ^ fmtBits fmt
  let scale (i : Nat) : Nat :=
    match t with
    | some t => if i < t.rows then t.scales.getD i 0x7F else Config.freeElem (d + 1) i % 256
    | none => Config.freeElem (d + 1) i % 256
  packBytes (fmtBits fmt) ((List.range 1024).map code) ++
    if isMx fmt then (List.range 32).map fun i => BitVec.ofNat 8 (scale i) else []

/-- Bytes padded to whole beats. -/
def toBeats (bs : List Byte) : List Byte := padTo (64 * ceilDiv bs.length 64) bs

/-- The images and parked tokens that follow a state beat. -/
def Elem.tail (el : Elem) (d : Nat) (nr : Bool) : List Byte :=
  let tiles := match tilePorts el.cfg with
    | some (_, t) =>
      let f := el.cfg.ifmt.getD t 0
      toBeats (tile32 d f el.ta) ++ toBeats (tile32 (d + 2) f el.tl) ++
        match el.acc with
        | some a => if nr then a.canonical.bytes fmtNRIMG else a.bytes fmtCSIMG
        | none => []
    | none => []
  tiles ++ el.park.flatMap fun p => padTo 64 (bytesOf 8 p.2.hdr.toNat) ++ toBeats (p.2.payload ++ p.2.scaleList)

/-- A site record (R360): its words 3 to 6 and bits [31:25] of word 1 are laid out by no rule.
Log entry 71 (DEDUCED). -/
def Elem.record (el : Elem) (d site : Nat) (nr : Bool) : List Byte :=
  let tail := el.tail d nr
  let w0 := site + el.cfg.kind * 2 ^ 8 + el.cfg.op * 2 ^ 12 + el.park.length * 2 ^ 20 + (1 + tail.length / 64) * 2 ^ 32
  let w1 := el.chn % 2 ^ 24 + bitOf el.ep 24 + freeBits d 7 * 2 ^ 25
  wordsToBytes [wd w0, wd w1, wd (el.cnt % 2 ^ 32), Config.freeWord (d + 1), Config.freeWord (d + 2),
    Config.freeWord (d + 3), Config.freeWord (d + 4), 0] ++ tail

/-- A tile register read back: the elements of the tile held, from a 32 × 32 tile with its scales last. -/
def Token.fromTile (fmt : Nat) (bs : List Byte) (t : Token) : Token :=
  match t.body with
  | .elems cs ss =>
    let w := fmtBits fmt
    let all := unpackNat w 1024 (numOf (bs.take (128 * w)))
    let codes := (List.range cs.length).map fun i => all.getD (i / t.cols * 32 + i % t.cols) 0
    let scales := (List.range ss.length).map fun i => ((bs.drop (128 * w)).getD i 0).toNat
    { t with body := .elems codes scales }
  | _ => t

/-- Parked tokens read back, each at the input it was parked from. -/
def unparkBytes : List (Nat × Token) → List Byte → List (Nat × Token)
  | [], _ => []
  | (i, _) :: rest, bs =>
    let h := wd (numOf (bs.take 8))
    let n := payloadBytes h
    let k := scaleBytes h
    let pay := bs.drop 64
    (i, ⟨h, bodyOf h (pay.take n) ((pay.drop n).take k)⟩) :: unparkBytes rest (pay.drop (64 * ceilDiv (n + k) 64))

/-- An element whose CNT or count stands in word 2 of its record. -/
def SiteCfg.keepsCount (c : SiteCfg) : Bool := (c.kind = 0 && (c.op = 0x40 || c.op = 0x41)) || (c.kind = 6 && c.op = 1)

/-- An element as its record in memory holds it (R360): the chainage counter, EP and CNT of its state beat, the elements
of its tile registers, its accumulator and its parked tokens. Log entry 71 (DEDUCED). -/
def Elem.reload (el : Elem) (nr : Bool) (bs : List Byte) : Elem :=
  let w1 := numOf ((bs.drop 8).take 8)
  let el := { el with
    chn := field w1 23 0
    ep := w1.testBit 24
    cnt := if el.cfg.keepsCount then numOf ((bs.drop 16).take 4) else el.cnt }
  let bs := bs.drop 64
  match tilePorts el.cfg with
  | none => { el with park := unparkBytes el.park bs }
  | some (_, t) =>
    let f := el.cfg.ifmt.getD t 0
    let n := (toBeats (tile32 0 f none)).length
    let fmt := if nr then fmtNRIMG else fmtCSIMG
    let m := (el.acc.map fun a => (a.bytes fmt).length).getD 0
    { el with
      ta := el.ta.map (Token.fromTile f (bs.take n))
      tl := el.tl.map (Token.fromTile f ((bs.drop n).take n))
      acc := el.acc.map fun a => { imageOf fmt a.lanes.length ((bs.drop (2 * n)).take m) with fromMem := a.fromMem }
      park := unparkBytes el.park (bs.drop (2 * n + m)) }

/-- The element section of a region: records in ascending site, then the live buffers its task owns there. -/
def State.siteSection (s : State) (t r : Nat) (c : Option Ctx) : List Byte :=
  let els : Tab Elem := match c with
    | some c => c.elemsIn r
    | none => []
  let recs := els.flatMap fun ke => ke.2.record (s.free + 8 * ke.1) ke.1 (s.task t).nrsave
  let bufs := s.sbufs.flatMap fun hb =>
    if field hb.1 30 24 = r && hb.2.owner == some t then s.load (mnAddr r (field hb.1 23 19) hb.2.base) hb.2.cap else []
  recs ++ bufs

/-- A granule of a live buffer that a save reads is poisoned (R340). -/
def State.bufsPoisoned (s : State) (t r : Nat) : Bool :=
  s.sbufs.any fun hb => field hb.1 30 24 = r && hb.2.owner == some t &&
    s.poisoned (mnAddr r (field hb.1 23 19) hb.2.base) hb.2.cap

/-! ## The region image (R360) -/

/-- The first 4 KiB of a region image. -/
def State.imageHead (s : State) (t r : Nat) (c : Option Ctx) (hseq : Word) (hasPos seq : Bool) : List Word :=
  let x := s.region r
  let y := s.seq r
  let k := s.task t
  let flags := bitOf k.nrsave 0 + bitOf k.mnsave 1 + bitOf seq 2 + bitOf hasPos 3
  let n := match c with
    | some c => (c.elemsIn r).length
    | none => 0
  let resume : Word := match y.cond with
    | .parked a | .halted a | .held a | .fetch a => a
    | _ => 0
  let thread : Tab Word := if seq then
      wordsAt 8 ((List.range 64).map y.reg) ++
        wordsAt 72 [resume, y.status false, y.tvec, y.scratch, y.btime.setWidth 64, y.energy.setWidth 64, s.encfg r,
          wd y.ras.length] ++
        wordsAt 80 ((List.range 32).map y.rasAt) ++ wordsAt 112 [y.tres, y.latch.setWidth 64]
    else []
  tableWords 512
    (wordsAt 0 [wd (0x314D4950 + r * 2 ^ 32 + x.ctx * 2 ^ 40 + flags * 2 ^ 48), wd s.now, hseq, wd n] ++ thread ++
      wordsAt 114 [x.pred, x.queueKinds] ++ wordsAt 128 x.queueWords ++ wordsAt 192 [x.queueCounts])

/-- The context armed in a region. -/
def State.ctxAt (s : State) (r : Nat) : Option Ctx := (s.region r).armed.bind fun c => s.ctxs.find? c

/-- A region of a task has a control thread of the task: its anchor, or the anchor of a stage. -/
def Task.threadOn (t : Task) (r : Nat) : Bool :=
  t.anchor = r || t.stages.any fun g => g.thread && g.regions.head? == some r

/-- The image of region j of a task is written. Log entry 71 (DEDUCED). -/
def State.writeImage (s : State) (t j r : Nat) (hseq : Word) (hasPos : Bool) : Except RunErr State :=
  let x := s.task t
  let tr := s.regionTr x.anchor
  let at_ := x.saveArea.toNat + 0x800000 * j
  let c := s.ctxAt r
  if s.bufsPoisoned t r then .error (.fail .ecc (at_ + 0x1000))
  else
  match s.writeVia tr at_ (wordsToBytes (s.imageHead t r c hseq hasPos (x.threadOn r)) ++ s.siteSection t r c) with
  | .error e => .error e
  | .ok s =>
    if x.mnsave then
      match s.runAt tr .write (at_ + 0x400000) nodesSize with
      | .error e => .error e
      | .ok ps =>
        if s.nodesPoisoned r then .error (.fail .ecc (at_ + 0x400000))
        else .ok ((s.nodesOut (nodesAddr r) ps).countWalk (at_ + 0x400000))
    else .ok s

/-- The images of a task's regions, in ascending region number. -/
def State.writeImages (s : State) (t : Nat) (hseq : Word) (hasPos : Bool) : List (Nat × Nat) → Except RunErr State
  | [] => .ok s
  | (r, j) :: rest =>
    match s.writeImage t j r hseq hasPos with
    | .error e => .error e
    | .ok s => State.writeImages s t hseq hasPos rest

/-- Numbers in ascending order. -/
def insertNat (n : Nat) : List Nat → List Nat
  | [] => [n]
  | m :: t => if n ≤ m then n :: m :: t else m :: insertNat n t

def sortNat (l : List Nat) : List Nat := l.foldr insertNat []

/-! ## Reading an image back -/

/-- The thread's part of an image restored onto a saved sequencer (R360, R384). -/
def Seq.fromImage (x : Seq) (ws : List Word) : Seq :=
  let sq (k : Nat) : Word := wordOff ws (0x248 + 8 * k)
  let depth := satTo 32 (wordOff ws 0x278).toNat
  let resume := wordOff ws 0x240 &&& ~~~ 0xF
  let y := x.withStatus (sq 0)
  { y with
    g := (List.range 64).foldl (fun g n => Tab.set g 0 n (wordOff ws (0x40 + 8 * n))) []
    tvec := sq 1 &&& ~~~ 0xF
    scratch := sq 2
    btime := (sq 3).setWidth 32
    energy := (sq 4).setWidth 48
    enOn := (sq 5).getLsbD 0
    senOn := (sq 5).getLsbD 1
    ras := (List.range depth).map fun k => wordOff ws (0x280 + 8 * k)
    tres := wordOff ws 0x380
    latch := (wordOff ws 0x388).setWidth 12
    cond := match x.cond with
      | .parked _ => .fetch resume
      | .halted _ => .halted resume
      | c => c }

/-- The region's part of an image restored. -/
def Region.fromImage (x : Region) (ws : List Word) : Region :=
  let qs := (ws.drop 128).take 64
  let cnt := wordOff ws 0x600
  let kinds := wordOff ws 0x398
  { x with
    ctx := bitsOf (ws.getD 0 0) 40 8 % 4
    pred := wordOff ws 0x390
    ing := queueTab (ingressFrom qs cnt kinds)
    egr := queueTab (egressFrom qs cnt) }

/-! ## The retention image (R373, R375) -/

/-- A barrier as a word. -/
def Barrier.word (b : Barrier) : Word := wd (b.gen.toNat + b.arr * 2 ^ 16 + b.n * 2 ^ 24)

def Barrier.ofWord (w : Word) : Barrier := ⟨w.setWidth 16, bitsOf w 16 8, bitsOf w 24 9⟩

/-- The first 64 KiB of a region's retention image. -/
def State.retentionHead (s : State) (r : Nat) (mn : Bool) : List Word :=
  let x := s.region r
  let y := s.seq r
  tableWords 8192
    (wordsAt 0 [wd (0x31544552 + r * 2 ^ 32 + bitOf mn 40), wd s.now] ++
      wordsAt 8 ((List.range 64).map fun n => (x.bars.getD n ⟨0, 0, 0⟩).word) ++
      wordsAt 72 [x.tags, s.dbgCtl r] ++ wordsAt 74 ((List.range 16).map fun k => s.haltWord r k) ++
      wordsAt 90 [y.hangCtl, y.hangMap, y.hangTime.setWidth 64] ++
      wordsAt 93 ((List.range 16).map fun n => (y.enw.getD n 0).setWidth 64) ++
      wordsAt 128 x.queueWords ++ wordsAt 192 [x.queueCounts, x.queueKinds])

/-- A region's retention image is written at a physical address. Log entry 76 (DEDUCED). -/
def State.writeRetention (s : State) (r a : Nat) (mn : Bool) : State :=
  let s := s.storeRuns [(a, 0x10000)] (wordsToBytes (s.retentionHead r mn))
  if mn then s.moveBytes (nodesAddr r) (a + 0x10000) nodesSize else s

/-- A region set as without RESTORE (R375): its registers and those of its sequencer at their reset values. -/
def State.coldRegion (s : State) (r : Nat) : State :=
  let s := s.zeroBytes (nodesAddr r) nodesSize
  let s := s.updRegion r fun x =>
    { x with
      bars := []
      tags := 0
      ing := []
      egr := []
      slots := []
      ctx := 0
      pred := 0
      mxmode := 0 }
  s.setSeq r Seq.initial

/-- A region restored from its retention image, or none where the image fails its check (R375).
Log entry 76 (DEDUCED). -/
def State.warmRegion (s : State) (r a : Nat) : Option State :=
  match s.readAt s.physTr a 0x10000 with
  | .error _ => none
  | .ok (bs, s) =>
    let ws := bytesToWords bs
    let w0 := ws.getD 0 0
    if bitsOf w0 0 32 != 0x31544552 || bitsOf w0 32 8 != r then none
    else
      let mn := w0.getLsbD 40
      match (if mn then s.runAt s.physTr .read (a + 0x10000) nodesSize else .ok []) with
      | .error _ => none
      | .ok ps =>
        let s := if mn then s.nodesIn (nodesAddr r) ps else s.zeroBytes (nodesAddr r) nodesSize
        let bars : Tab Barrier := (List.range 64).map fun n => (n, Barrier.ofWord (wordOff ws (0x40 + 8 * n)))
        let qs := (ws.drop 128).take 64
        let cnt := wordOff ws 0x600
        let kinds := wordOff ws 0x608
        let s := s.updRegion r fun x =>
          { x with
            bars := bars
            tags := wordOff ws 0x240
            ing := queueTab (ingressFrom qs cnt kinds)
            egr := queueTab (egressFrom qs cnt)
            slots := [] }
        let dbg := wordOff ws 0x248
        some (s.updSeq r fun x =>
          { x.withHang (wordOff ws 0x2D0) with
            hen := dbg.getLsbD 0
            htrap := dbg.getLsbD 1
            lasthit := dbg.extractLsb' 12 4
            heldPrev := 0
            halts := (List.range 16).foldl (fun h k => Tab.set h 0xF000 k (haltBits (wordOff ws (0x250 + 8 * k)))) []
            hangMap := wordOff ws 0x2D8 &&& ~~~ 0x3F
            hangTime := (wordOff ws 0x2E0).setWidth 32
            enw := (List.range 16).foldl (fun e k => Tab.set e 0 k ((wordOff ws (0x2E8 + 8 * k)).setWidth 16)) [] })

end Sys2Proof.Machine
end

