-- ==== Sys2Proof/Machine/Power.lean ====
section
/-! DEFINITION. Region groups, voltage, the power cap, energy counters, partitions and idle gating (R367-R378, R388-R392,
R395). -/

namespace Sys2Proof.Machine

open Host (Outcome)

/-! ## Refusals and acknowledgements (R371, R378, R387, R397) -/

/-- A refusal or a failure enters pwr.errlog, and the host is told (R371, R378, R397). Log entry 83 (DEDUCED). -/
def State.refuse (s : State) (src code : Nat) (v : Word) : State :=
  let n := bitsOf s.svc.errlog 16 4
  let e := wd (field v.toNat 31 0 * 2 ^ 32 + 2 ^ 31 + satTo 15 (n + 1) * 2 ^ 16 + src * 2 ^ 8 + code)
  { s with svc := { s.svc with errlog := e } }.interrupt 0x0003 0 0 e

/-- pwr.grpack takes its fields (R371). -/
def State.ack (s : State) (busy : Bool) (seq op code : Nat) : State :=
  { s with svc := { s.svc with grpack := wd (bitOf busy 16 + seq * 2 ^ 12 + op * 2 ^ 8 + code) } }

/-- The operation in progress ends with a code (R371). -/
def State.endAck (s : State) (code : Nat) : State := s.ack false (bitsOf s.svc.grpack 12 4) (bitsOf s.svc.grpack 8 3) code

/-- A request is in progress (R371). -/
def State.busy (s : State) : Bool := s.svc.grpack.getLsbD 16

/-- The group a request names (R370, R375). -/
def reqGroup (v : Word) : Nat := bitsOf v 3 2 * 6 + bitsOf v 0 3

/-- A reserved bit is set, OP is 5 to 7, or COL is 6 or 7 (R370, R371). -/
def reqBad (v : Word) : Bool :=
  bitsOf v 16 48 != 0 || v.getLsbD 11 || bitsOf v 5 3 != 0 || bitsOf v 8 3 ≥ 5 || bitsOf v 0 3 ≥ 6

/-- The operation of a request (R370). -/
def reqOp (v : Word) : Nat := bitsOf v 8 3

/-- A write of pwr.grpreq or pwr.wake names the die that pwr.state reports, whatever comes of it (R376). -/
def State.namesDie (s : State) (v : Word) : State := { s with svc := { s.svc with stateDie := bitsOf v 3 2 } }

/-- A write of pwr.grpreq with an operation, which is accepted in some states of its group and under one more check
(R369-R371). Log entry 75 (DEDUCED). -/
def State.request (s : State) (v : Word) (states : List GroupState) (more : State → Nat) (go : State → State) : State :=
  let s := s.namesDie v
  if s.busy then s.refuse 0x8 0x05 v
  else
    let s := { s with svc := { s.svc with grpreq := v &&& 0xF71F } }
    let code := if reqBad v then 0x01 else if !states.contains (s.group (reqGroup v)) then 0x02 else more s
    if code = 0 then go (s.ack true (bitsOf v 12 4) (reqOp v) 0)
    else (s.ack false (bitsOf v 12 4) (reqOp v) code).refuse 0x8 code v

/-! ## Voltage (R388) -/

/-- A region's code in force becomes another; its supply slews there. Log entry 77 (DEDUCED). -/
def Region.setCur (x : Region) (v : Nat) : Region :=
  if v = x.vcur then x
  else
    let at_ := x.slewing.getD x.vcur
    { x with vcur := v, slewing := if at_ = v then none else some at_ }

/-- A region's ceiling becomes another, and its code is lowered with it. Log entry 77 (DEDUCED). -/
def Region.setCeil (x : Region) (c : Nat) : Region := { x with vceil := c }.setCur (min x.vcur c)

/-- A ceiling held while the group was out of the pool is applied. -/
def Region.applyHeld (x : Region) : Region :=
  match x.vheld with
  | some c => { x with vheld := none }.setCeil c
  | none => x

/-- PWR_VSET_WRITE (R388). Log entry 77 (DEDUCED). -/
def execPwrVsetWrite (v : Word) (s : State) : Outcome State Fault Refusal :=
  let r := bitsOf v 0 7
  let c := bitsOf v 8 4
  if r ≥ 96 then .next (s.refuse 0x2 0x01 v)
  else if c = 15 then .next (s.refuse 0x2 0x0A v)
  else
    let s := { s with svc := { s.svc with vsetRegion := r } }
    .next (s.updRegion r fun x => if s.group (groupOf r) == .pool then x.setCeil c else { x with vheld := some c })

/-- VOLTAGE_SLEW (R388): the supply moves one step towards the code in force. Log entry 77 (DEDUCED). -/
def execVoltageSlew (r : Nat) (s : State) : Outcome State Fault Refusal :=
  .next (s.updRegion r fun x =>
    match x.slewing with
    | none => x
    | some v =>
      let w := if v < x.vcur then v + 1 else v - 1
      { x with slewing := if w = x.vcur then none else some w })

/-! ## Groups (R369-R376) -/

/-- A group returns to the pool (R369, R388). Log entry 76 (DEDUCED). -/
def State.toPool (s : State) (g : Nat) : State :=
  (groupRegions g).foldl (fun (s : State) r => s.updRegion r Region.applyHeld) (s.setGroup g .pool)

/-- The tasks that hold a region of a group. -/
def State.groupTasks (s : State) (g : Nat) : List Nat := ((groupRegions g).filterMap s.taskOf).eraseDups

/-- QUIESCE (R372): the group leaves the pool, and its tasks are pre-empted with reason 3. -/
def execQuiesce (v : Word) (s : State) : Outcome State Fault Refusal :=
  if reqOp v != 1 then .next s
  else
    let g := reqGroup v
    .next (s.request v [.pool] (fun _ => 0) fun s =>
      let s := s.setGroup g .quiescing
      (s.groupTasks g).foldl (fun s t => s.decidePreempt t 3) s)

/-- Nothing holds a group any more (R372). -/
def State.groupFree (s : State) (g : Nat) : Bool :=
  (groupRegions g).all fun r =>
    (s.taskOf r).isNone && (s.region r).armed.isNone && !(s.armings.any fun a => a.regions.contains r) &&
      !(s.chans.any fun kc => kc.2.inRecord && chanWrites s kc.1 r)

/-- QUIESCE_COMPLETE (R372). -/
def execQuiesceComplete (die col : Nat) (s : State) : Outcome State Fault Refusal :=
  let g := die * 6 + col
  if s.group g != .quiescing || !s.groupFree g then .next s else .next ((s.setGroup g .quiet).endAck 0)

/-- The retention area that pwr.retsave names: its base, and whether MN bytes are kept. -/
def areaBase (w : Word) : Nat := (w &&& ~~~ 0xFFF).toNat

/-- RETAIN (R373): the area lies in HBM4, and is the one of this moment. -/
def execRetain (v : Word) (s : State) : Outcome State Fault Refusal :=
  if reqOp v != 2 then .next s
  else
    .next (s.request v [.quiet] (fun s => if areaBase s.svc.retsave + 0x1040000 ≤ 0x6000000000 then 0 else 0x07) fun s =>
      { s with svc := { s.svc with wakeArea := s.svc.retsave } }.setGroup (reqGroup v) .retaining)

/-- MN bytes that a RETAIN is to keep cannot be read (R340, R371). Log entry 76 (DEDUCED). -/
def State.retainFails (s : State) (g : Nat) : Bool := s.svc.wakeArea.getLsbD 0 && (groupRegions g).any s.nodesPoisoned

/-- RETAIN_COMPLETE (R371, R373): the four images are written, and the group is RETAINED; or an uncorrectable error
ends the operation, and the group returns to QUIET. Log entry 76 (DEDUCED). -/
def execRetainComplete (die col : Nat) (s : State) : Outcome State Fault Refusal :=
  let g := die * 6 + col
  if s.group g != .retaining then .next s
  else if s.retainFails g then .next (((s.setGroup g .quiet).endAck 0x04).refuse 0x8 0x04 s.svc.grpreq)
  else
    let a := s.svc.wakeArea
    let s := (groupRegions g).zipIdx.foldl (fun (s : State) x =>
      s.writeRetention x.1 (areaBase a + 0x410000 * x.2) (a.getLsbD 0)) s
    .next ((s.setGroup g .retained).endAck 0)

/-- A route of an armed context of a region outside a group passes through the group (R374). Log entry 76 (DEDUCED). -/
def State.crossed (s : State) (g : Nat) : Bool :=
  s.ctxs.any fun kc =>
    kc.2.regions.any (fun r => groupOf r = g) && kc.2.regions.any fun r => groupOf r != g

/-- GATE (R374): the group's state changes once the rails are down. -/
def execGate (v : Word) (s : State) : Outcome State Fault Refusal :=
  if reqOp v != 3 then .next s
  else .next (s.request v [.quiet, .retained] (fun s => if s.crossed (reqGroup v) then 0x03 else 0) id)

/-- GATE_COMPLETE (R374): the group is GATED; its context slots are lost. Log entry 76 (DEDUCED). -/
def execGateComplete (die col : Nat) (s : State) : Outcome State Fault Refusal :=
  let g := die * 6 + col
  if !s.busy || bitsOf s.svc.grpack 8 3 != 3 || reqGroup s.svc.grpreq != g then .next s
  else
    let s := (groupRegions g).foldl (fun (s : State) r => s.updRegion r fun x => { x with slots := [] }) s
    .next ((s.setGroup g .gated).endAck 0)

/-- RELEASE (R369, R371): the operation is in progress until the next ns. Log entry 75 (DEDUCED). -/
def execRelease (v : Word) (s : State) : Outcome State Fault Refusal :=
  if reqOp v != 4 then .next s
  else .next (s.request v [.quiet, .retained] (fun _ => 0) id)

/-- A RELEASE in progress ends: its group is in POOL (R369, R371). Log entry 75 (DEDUCED). -/
def State.endRelease (s : State) : State :=
  if s.busy && bitsOf s.svc.grpack 8 3 = 4 then (s.toPool (reqGroup s.svc.grpreq)).endAck 0 else s

/-- GROUP_SELECT_DIE (R370): a write with OP = 0 selects the die that pwr.state reports. Log entry 75 (DEDUCED). -/
def execGroupSelectDie (v : Word) (s : State) : Outcome State Fault Refusal :=
  if reqOp v != 0 then .next s
  else
    let s := s.namesDie v
    if reqBad v then
      if s.busy then .next (s.refuse 0x8 0x05 v) else .next ((s.ack false (bitsOf v 12 4) 0 0x01).refuse 0x8 0x01 v)
    else .next { s with svc := { s.svc with grpreq := if s.busy then s.svc.grpreq else v &&& 0xF71F } }

/-- A must-be-zero bit of pwr.wake is set, or COL is 6 or 7 (R371, R375). -/
def wakeBad (v : Word) : Bool := bitsOf v 16 48 != 0 || bitsOf v 6 6 != 0 || bitsOf v 0 3 ≥ 6

/-- WAKE (R375): the retention area is the one of this moment. -/
def execWake (v : Word) (s : State) : Outcome State Fault Refusal :=
  let s := s.namesDie v
  if s.busy then .next (s.refuse 0xC 0x05 v)
  else
    let code := if wakeBad v then 0x01 else if s.group (reqGroup v) != .gated then 0x02 else 0
    if code != 0 then .next ((s.ack false (bitsOf v 12 4) 5 code).refuse 0xC code v)
    else
      let area : Word := (s.svc.retsave &&& ~~~ 0xFFF) ||| (if v.getLsbD 5 then 1 else 0)
      let s := { s with svc := { s.svc with wakeArea := area } }
      .next ((s.setGroup (reqGroup v) .waking).ack true (bitsOf v 12 4) 5 0)

/-- A region of a woken group is brought to its starting state (R375): the state, and whether its image failed. -/
def State.wakeRegion (s : State) (r a : Nat) (restore : Bool) : State × Bool :=
  if restore then
    match s.warmRegion r a with
    | some s => (s, false)
    | none => (s.coldRegion r, true)
  else (s.coldRegion r, false)

/-- The tags held while the group was gated are set (R374, R375). -/
def Region.applyTags (x : Region) : Region := { x with tags := x.tags ||| x.tagsPending, tagsPending := 0 }

/-- WAKE_COMPLETE (R375). -/
def execWakeComplete (die col : Nat) (s : State) : Outcome State Fault Refusal :=
  let g := die * 6 + col
  if s.group g != .waking then .next s
  else
    let a := s.svc.wakeArea
    let (s, bad) := (groupRegions g).zipIdx.foldl (fun (sb : State × Bool) x =>
      let (s, b) := sb.1.wakeRegion x.1 (areaBase a + 0x410000 * x.2) (a.getLsbD 0)
      (s, sb.2 || b)) (s, false)
    let s := (groupRegions g).foldl (fun (s : State) r =>
      let rise := (s.region r).tagsPending &&& ~~~ (s.region r).tags
      let s := s.updRegion r Region.applyTags
      if rise != 0 then s.latch r 0x100 else s) s
    let s := (s.toPool g).endAck (if bad then 0x06 else 0)
    .next (if bad then s.refuse 0xC 0x06 (wd (bitsOf s.svc.grpack 12 4 * 2 ^ 12 + 0x20 + die * 8 + col)) else s)

/-! ## Cap, error log and energy counters (R368, R378, R393, R395) -/

/-- The sum of the floors of valid partitions other than one, in W. -/
def State.floorsBut (s : State) (p : Nat) : Nat :=
  ((List.range 8).map fun k => if k != p && (s.part k).valid then (s.part k).floor else 0).sum

/-- PWR_CAP_WRITE (R378, R393). Log entry 75 (DEDUCED). -/
def execPwrCapWrite (v : Word) (s : State) : Outcome State Fault Refusal :=
  let c := bitsOf v 0 16
  if c < 320 || c < s.floorsBut 8 then .next (s.refuse 0xD 0x08 v)
  else .next { s with svc := { s.svc with cap := satTo 2600 c } }

/-- PWR_ERRLOG_CLEAR (R368). -/
def execPwrErrlogClear (_ : Word) (s : State) : Outcome State Fault Refusal :=
  .next { s with svc := { s.svc with errlog := 0 } }

/-- PWR_EVAL_WRITE (R395). Log entry 82 (DEDUCED). -/
def execPwrEvalWrite (v : Word) (s : State) : Outcome State Fault Refusal :=
  match s.counter with
  | none => .next s
  | some k =>
    let n := if k / 128 = 5 then bitsOf v 0 16 else bitsOf v 0 48
    .next { s with energy := s.energy.set 0 k (n * 9000), energySat := s.energySat.del k }

/-! ## Partitions (R367, R391, R392) -/

/-- A partition record in force, from its eight words (R391), with the entries of its fault queue written so far. -/
def partFrom (r : List Word) (count : Nat) (opened : List OpenFault) : Part where
  root := r.getD 0 0
  rmask := (r.getD 1 0).toNat + recBits r 2 31 0 * 2 ^ 64
  floor := recBits r 2 47 32
  chan := r.getD 3 0
  fqBase := r.getD 4 0 &&& ~~~ 0xFFF
  fqn := 2 ^ (recBits r 4 3 0 + 4)
  pflag := recBits r 5 25 24 * 4096 + recBits r 5 11 0
  ptask := recBits r 5 25 24 * 4096 + recBits r 5 23 12
  host := (r.getD 5 0).getLsbD 26
  pen := (r.getD 5 0).getLsbD 27
  valid := (r.getD 6 0).getLsbD 0
  fqCount := count
  opened := opened

/-- A zero field of a record is set, or FQNL is reserved (R391, R392). Log entry 81 (DEDUCED). -/
def partBad (r : List Word) : Bool :=
  recBits r 0 13 0 != 0 || recBits r 0 63 52 != 0 || recBits r 2 63 48 != 0 || recBits r 4 11 4 != 0 ||
    recBits r 4 63 52 != 0 || recBits r 4 3 0 ≥ 9 || recBits r 5 63 28 != 0 || recBits r 6 63 1 != 0 ||
    recBits r 7 63 0 != 0

/-- The regions of a partition. -/
def Part.regions (p : Part) : List Nat := if p.valid then (List.range 96).filter fun r => p.rmask.testBit r else []

/-- A region holds a task, a drain or a save (R392). -/
def State.regionHeld (s : State) (r : Nat) : Bool :=
  (s.taskOf r).isSome || (s.ctxAt r).any fun c => c.mode != .run

/-- What a save keeps, without the tag reservations of a region (R367). Log entry 81 (DEDUCED). -/
def Saved.unreserved (r : Nat) (v : Saved) : Saved :=
  { v with seqs := v.seqs.map fun kq => (kq.1, if kq.1 = r then { kq.2 with tres := 0 } else kq.2) }

/-- A region that changes partition is reset (R367), the reservations of saved tasks among it.
Log entry 81 (DEDUCED). -/
def State.resetForPart (s : State) (r : Nat) : State :=
  let s := s.zeroBytes (nodesAddr r) nodesSize
  let s := { s with tasks := s.tasks.map fun (kt : Nat × Task) => (kt.1, { kt.2 with saved := kt.2.saved.map (Saved.unreserved r) }) }
  let s := s.updRegion r fun x =>
    { x with
      bars := []
      tags := 0
      tagsPending := 0
      ing := []
      egr := []
      slots := x.slots.map fun ks => (ks.1, { ks.2 with image := 0 }) }
  s.updSeq r fun x => { x with tres := 0, flogBase := 0, flogSize := 0, flogW := 0, flogDrop := 0, flogR := 0 }

/-- PARTITION_LOAD (R392): a write of part.cmd. Log entry 81 (DEDUCED). -/
def execPartitionLoad (v : Word) (s : State) : Outcome State Fault Refusal :=
  let p := bitsOf v 0 3
  if bitsOf v 3 5 != 0 || bitsOf v 9 55 != 0 then .next (s.refuse 0x1 0x01 v)
  else if !v.getLsbD 8 then .next s
  else
    match s.readAt s.physTr (s.svc.partBase.toNat + 64 * p) 64 with
    | .error _ => .next (s.refuse 0x1 0x09 v)
    | .ok (bs, s) =>
      let r := bytesToWords bs
      let old := s.part p
      let new := if old.valid then partFrom r old.fqCount old.opened else partFrom r 0 []
      let changed := (List.range 96).filter fun g => old.regions.contains g != new.regions.contains g
      let clash := (List.range 8).any fun k => k != p && new.valid && (s.part k).regions.any fun g => new.regions.contains g
      if partBad r || changed.any s.regionHeld || clash ||
          (new.valid && s.floorsBut p + new.floor > s.svc.cap) then .next (s.refuse 0x1 0x09 v)
      else .next (changed.foldl State.resetForPart (s.setPart p new))

/-! ## The millpond and idle gating (R389, R390) -/

/-- MILLPOND_HOLD (R389): a reserve below 70 % of full charge. -/
def execMillpondHold (r pct : Nat) (s : State) : Outcome State Fault Refusal :=
  if pct < 70 && (s.region r).millpond.isNone then .next (s.updRegion r fun x => { x with millpond := some s.now })
  else .next s

/-- MILLPOND_RELEASE (R389): a reserve back at 80 %, or 1.5 µs of hold, through which the region counts as moving. -/
def execMillpondRelease (r pct : Nat) (s : State) : Outcome State Fault Refusal :=
  match (s.region r).millpond with
  | none => .next s
  | some t =>
    if pct ≥ 80 || t + 1500 ≤ s.now then
      .next (s.updRegion r fun x => { x with millpond := none, lastMove := s.now })
    else .next s

/-- The control thread of a region waits in WAITI (R145). -/
def Seq.inWaiti (x : Seq) : Bool :=
  x.cond == .run && (x.blocks.head?).any fun b => b.waits.any fun w => w.wait == .waiti

/-- A region is idle (R390): no task holds it, or a running one whose sequencer is halted, or has no thread to run, or
waits in WAITI, with no token in its regions. Log entry 80 (DEDUCED). -/
def State.regionIdle (s : State) (r : Nat) : Bool :=
  match s.taskOf r with
  | none => true
  | some t =>
    let x := s.seq (s.task t).anchor
    let stopped := match x.cond with
      | .halted _ | .idle => true
      | _ => false
    (s.task t).state == .run && (stopped || x.inWaiti) &&
      (s.task t).regions.all fun g => !(s.ctxAt g).any fun c => c.holdsIn g

/-- The predicted idle interval, the mean of the last eight, each capped, is above a number of ns (R390): never with none.
Log entry 80 (DEDUCED). -/
def Region.predictsAbove (x : Region) (n : Nat) : Bool := n * x.idleHist.length < (x.idleHist.map (satTo 65536)).sum

/-- An idle interval ends. -/
def Region.endIdle (x : Region) (now : Nat) : Region :=
  match x.idleSince with
  | some t => { x with idleSince := none, idleHist := ((now - t) :: x.idleHist).take 8 }
  | none => x

/-- An idle period of a region begins with a prediction above 3.6 µs (R390). -/
def State.gateDue (s : State) (r : Nat) : Bool :=
  let x := s.region r
  !x.gated && x.idleSince.isNone && s.regionIdle r && s.group (groupOf r) == .pool && x.predictsAbove 3600

/-- REGION_IDLE_GATE (R390): a region is gated as such a period begins. Log entry 80 (DEDUCED). -/
def execRegionIdleGate (r : Nat) (s : State) : Outcome State Fault Refusal :=
  if s.gateDue r then .next (s.updRegion r fun x => { x with gated := true, idleSince := some s.now }) else .next s

/-- A gated region is to wake (R390): an event has come for it, a dispatch or a token has ended its idleness, or an entry
stands in a port-node queue of an armed context. Log entry 80 (DEDUCED). -/
def State.wakeDue (s : State) (r : Nat) : Bool :=
  let x := s.region r
  x.gated && (s.roused.contains r || !s.regionIdle r || (x.armed.isSome && x.ing.any fun kq => !kq.2.isEmpty))

/-- REGION_IDLE_WAKE (R390): one of the waking events has come. Log entry 80 (DEDUCED). -/
def execRegionIdleWake (r : Nat) (s : State) : Outcome State Fault Refusal :=
  if s.wakeDue r then
    .next ({ s with roused := s.roused.filter (· != r) }.updRegion r fun x => { x.endIdle s.now with gated := false })
  else .next s

end Sys2Proof.Machine
end

