-- ==== Sys2Proof/Machine/System.lean ====
section
/-! DEFINITION. SYSR, SYSW, HALT and WAITI as they fire, and what a write of each system register does (R52-R54,
R108-R113, R119, R145, R166, R173, R175-R177, R180, R368, R387). -/

namespace Sys2Proof.Machine

open Host (Outcome)

/-! ## Writes of single registers -/

/-- A write of pwr.grpreq that names no operation is refused (R371). -/
def State.badRequest (s : State) (v : Word) : State := s.request v [] (fun _ => 0) id

/-- REGISTER_WRITE (R53): a register with no behaviour of its own takes the fields of its map; a write of pwr.grpreq with
OP 5 to 7 is refused (R371). -/
def execRegisterWrite (q : Nat) (id : BitVec 12) (v : Word) (s : State) : Outcome State Fault Refusal :=
  if q = service && id = 0x0C8 && 5 ≤ reqOp v then .next (s.badRequest v)
  else
    match s.writePlain q id.toNat v with
    | some t => .next t
    | none => .next s

/-- A write of sq.status (R173, R176). -/
def Seq.writeStatus (x : Seq) (v : Word) : Seq :=
  let y := x.withStatus v
  let y := if y.raen then y else y.dropAhead 1
  { y with lbuf := if y.lben then y.lbuf else [] }

/-- SQ_STATUS_WRITE (R176). -/
def execSqStatusWrite (q : Nat) (v : Word) (s : State) : Outcome State Fault Refusal :=
  .next (s.updSeq q fun x => x.writeStatus v)

/-- RASD_WRITE (R166): entries are dropped from, or zero entries added at, the oldest end. -/
def execRasdWrite (q : Nat) (v : Word) (s : State) : Outcome State Fault Refusal :=
  .next (s.updSeq q fun x => { x with ras := rasDepth x.ras (bitsOf v 0 6) })

/-- Tokens move, and HELD follows, after the halt points of a region have changed (R108, R110-R112). -/
def State.haltsChanged (s : State) (r : Nat) : State :=
  match (s.region r).armed with
  | some c => (s.refreshHalts c).refreshHeld r
  | none => s.refreshHeld r

/-- DBG_CTL_WRITE (R108, R110). -/
def execDbgCtlWrite (q : Nat) (v : Word) (s : State) : Outcome State Fault Refusal :=
  if q ≥ 96 then .next s
  else .next ((s.updSeq q fun x => { x with hen := v.getLsbD 0, htrap := v.getLsbD 1 }).haltsChanged q)

/-- DBG_HALT_WRITE (R109, R110). -/
def execDbgHaltWrite (q k : Nat) (v : Word) (s : State) : Outcome State Fault Refusal :=
  if q ≥ 96 || k ≥ 16 then .next s
  else .next ((s.updSeq q fun x => { x with halts := x.halts.set 0xF000 k (haltBits v) }).haltsChanged q)

/-- The oldest token that the halt point with a release bit still withholds is released (R111). -/
def releaseOldest (bit : Nat) : List Flying → List Flying
  | [] => []
  | f :: t => if f.rel.getLsbD bit then f :: releaseOldest bit t else { f with rel := f.rel ||| (1 <<< bit) } :: t

/-- Halt point k of a region releases on one arc (R111). -/
def Arc.step (a : Arc) (h : BitVec 32) (r k : Nat) : Arc :=
  if haltCovers h r a && a.relReg.isNone then { a with toks := releaseOldest (relBit r k a) a.toks } else a

/-- DBG_STEP (R111): a halt point releases, on each arc that it covers, its oldest withheld token. -/
def execDbgStep (q : Nat) (v : Word) (s : State) : Outcome State Fault Refusal :=
  let k := bitsOf v 0 4
  let h := s.halt q k
  if q ≥ 96 || !(s.seq q).hen || !h.getLsbD 31 then .next s
  else
    match (s.region q).armed with
    | none => .next s
    | some c => .next ((s.updCtx c fun x => { x with arcs := x.arcs.map fun a => a.step h q k }).haltsChanged q)

/-- FLOG_CTL_WRITE (R177). -/
def execFlogCtlWrite (q : Nat) (v : Word) (s : State) : Outcome State Fault Refusal :=
  .next (s.updSeq q fun x =>
    { x with flogSize := BitVec.ofNat 4 (satTo 12 (bitsOf v 0 4)), flogW := 0, flogDrop := 0, flogR := 0 })

/-- FLOG_RD_WRITE (R177): RIDX goes no further than WIDX, counted from where it stands. Log entry 55 (DEDUCED). -/
def execFlogRdWrite (q : Nat) (v : Word) (s : State) : Outcome State Fault Refusal :=
  .next (s.updSeq q fun x =>
    let n : BitVec 32 := v.setWidth 32
    { x with flogR := if (n - x.flogR).toNat ≤ (x.flogW - x.flogR).toNat then n else x.flogW })

/-! ## A write of any register -/

/-- The state a step reaches. -/
def afterOf (s : State) : Outcome State Fault Refusal → State
  | .next t => t
  | _ => s

/-- A write of pwr.grpreq (R370, R371). -/
def State.writeRequest (s : State) (v : Word) : State :=
  afterOf s (match reqOp v with
    | 0 => execGroupSelectDie v s
    | 1 => execQuiesce v s
    | 2 => execRetain v s
    | 3 => execGate v s
    | 4 => execRelease v s
    | _ => .next (s.badRequest v))

/-- A write reaches a register of a sequencer (R53). -/
def State.writeReg (s : State) (q id : Nat) (v : Word) : State :=
  let plain := (s.writePlain q id v).getD s
  match id with
  | 0x000 => afterOf s (execSqStatusWrite q v s)
  | 0x008 => afterOf s (execRasdWrite q v s)
  | 0x045 => afterOf s (execFlogCtlWrite q v s)
  | 0x046 => afterOf s (execFlogRdWrite q v s)
  | _ =>
    if q = service then
      match id with
      | 0x0C8 => s.writeRequest v
      | 0x0CC => afterOf s (execWake v s)
      | 0x0CD => afterOf s (execPwrCapWrite v s)
      | 0x0CE => afterOf s (execPwrErrlogClear v s)
      | 0x0D1 => afterOf s (execPartitionLoad v s)
      | 0x0D2 => afterOf s (execPwrVsetWrite v s)
      | 0x0D5 => afterOf s (execPwrEvalWrite v s)
      | _ => plain
    else if id = 0x020 then afterOf s (execDbgCtlWrite q v s)
    else if 0x021 ≤ id && id < 0x031 then afterOf s (execDbgHaltWrite q (id - 0x021) v s)
    else if id = 0x031 then afterOf s (execDbgStep q v s)
    else if id = 0x040 && bitsOf v 8 2 = 1 then afterOf s (execHangThaw q v s)
    else if id = 0x040 && bitsOf v 8 2 = 2 then afterOf s (execHangDiscard q v s)
    else plain

/-! ## The instructions -/

/-- A register whose value no step of an older block changes but a SYSW of it (R147, R171): sq.scratch, sq.tvec,
sq.time, sq.btime and the weights. Log entry 47 (DEDUCED). -/
def aheadReadable (id : Nat) : Bool := (0x004 ≤ id && id ≤ 0x007) || (0x070 ≤ id && id < 0x080)

/-- An older block may write a register. -/
def State.olderWrites (s : State) (id : Nat) : Bool :=
  ((s.seq s.cur).blocks.take s.curBlk).any fun b => (List.range b.words.length).any fun i =>
    match b.instr i with
    | some (.sysw f) => f.imm.toNat = id
    | _ => false

/-- SYSR (R52): it delivers the register's value of the moment; an id that is not implemented raises ILLINS.  One of
flog.ctl acquires for later blocks (R177). Log entry 94 (DEDUCED). -/
def execSysr (f : TI) (s : State) : Outcome State Fault Refusal :=
  s.fireWith f.pr f.a fun b =>
    let n := f.imm.toNat
    if s.curBlk != 0 && (!aheadReadable n || s.olderWrites n) then none
    else
      match s.readReg s.cur n with
      | some v =>
        some ((b.fire s.curIx 0).deliver [f.t1] (.word v), fun t => if n = 0x045 then t.afterAcquire s.cur else t)
      | none => if s.curBlk = 0 then some ((b.fire s.curIx 0).raise s.curIx causeILLINS (wd s.curIx), id) else none

/-- SYSW (R53): the register takes the value at commit. -/
def execSysw (f : TC) (s : State) : Outcome State Fault Refusal :=
  s.fireBlk f.pr false fun b =>
    match b.operand s.curIx slotL with
    | none => none
    | some v =>
      let b := b.fire s.curIx 0
      if (s.readReg s.cur f.imm.toNat).isNone || readOnly f.imm.toNat then
        some (b.raise s.curIx causeILLINS (wd s.curIx))
      else some (b.addEff s.curIx (.sysw f.imm.toNat v))

/-- HALT (R54). -/
def execHalt (f : TC) (s : State) : Outcome State Fault Refusal :=
  s.fireBlk f.pr false fun b => some ((b.fire s.curIx 6).addEff s.curIx .halt)

/-- WAITI (R145): it delivers the latch once a bit of it is set. Log entry 51 (DEDUCED). -/
def execWaiti (f : TC) (s : State) : Outcome State Fault Refusal :=
  let l := (s.seq s.cur).latch
  s.fireOrEnd f.pr
    (fun b =>
      let b := b.fire s.curIx 8
      if l = 0 then some { b with waits := b.waits ++ [⟨s.curIx, .waiti, [f.t1]⟩] }
      else some ((b.addEff s.curIx (.waited l)).deliver [f.t1] (.word (l.setWidth 64))))
    (fun b w =>
      match w.wait with
      | .waiti =>
        if l = 0 then none else some ((b.addEff s.curIx (.waited l)).endWait s.curIx w.targets (.word (l.setWidth 64)))
      | _ => none)

end Sys2Proof.Machine
end

