-- ==== Sys2Proof/Machine/Pager.lean ====
section
/-! DEFINITION. The fault queue of a partition and the pager's answers (R361-R363, R366). -/

namespace Sys2Proof.Machine

open Host (Outcome)

/-- A word of physical memory, or none where it cannot be read. -/
def State.physWord (s : State) (a : Nat) : Option Word :=
  match s.readAt s.physTr a 8 with
  | .ok (bs, _) => some (wd (numOf bs))
  | .error _ => none

/-- Words written at a physical address. -/
def State.putPhys (s : State) (a : Nat) (ws : List Word) : Option State :=
  match s.writeAt s.physTr a (wordsToBytes ws) with
  | .ok s => some s
  | .error _ => none

/-- The size of the page or block a fault is on, in bits (R305, R361): a block of 1 GiB where no level-3 table is
reached. Log entry 73 (DEDUCED). -/
def State.faultPage (s : State) (p va : Nat) : Nat :=
  let root := (s.part p).root.toNat
  match s.entry (root + 8 * field va 51 41) with
  | .error _ => 30
  | .ok e1 =>
    match readEntry 1 e1 with
    | .ok (.table t) =>
      match s.entry (t + 8 * field va 40 30) with
      | .ok e2 => match readEntry 2 e2 with
        | .ok (.table _) => 19
        | _ => 30
      | .error _ => 30
    | _ => 30

/-- The address of entry e of a fault queue (R361). Log entry 73 (DEDUCED). -/
def Part.slotAt (x : Part) (e : Nat) : Nat := x.fqBase.toNat + 32 * (e % x.fqn)

/-- The entry that stands for a task's fault on a page: still VALID, and not answered (R361). Log entry 73 (DEDUCED). -/
def State.openEntry (s : State) (p t va : Nat) : Option Nat :=
  let x := s.part p
  ((x.opened.filter fun (o : OpenFault) => o.task == t && o.va / 2 ^ o.bits == va / 2 ^ o.bits).find? fun (o : OpenFault) =>
    match s.physWord (x.slotAt o.entry), s.physWord (x.slotAt o.entry + 8) with
    | some w0, some w1 => w0.getLsbD 63 && bitsOf w1 24 8 = 0
    | _, _ => false).map (·.entry)

/-- A new entry is written (R361), PTASK's counter is lowered and the host told; none while the slot is still VALID.
Only an element counts as a waiter. -/
def State.newEntry (s : State) (f : FaultRec) : Option (State × Nat) :=
  let x := s.part f.part
  let e := x.fqCount
  match s.physWord (x.slotAt e) with
  | none => none
  | some w =>
    if w.getLsbD 63 then none
    else
      let w0 := f.va % 2 ^ 52 + f.ty * 2 ^ 52 + f.region % 128 * 2 ^ 56 + 2 ^ 63
      match s.putPhys (x.slotAt e) [wd w0, wd (f.task % 4096 + bitOf (f.ty ≤ 2) 16), wd f.time, f.pa] with
      | none => none
      | some s =>
        let o : OpenFault := ⟨e, f.task, f.va, s.faultPage f.part f.va⟩
        let others := x.opened.filter fun (k : OpenFault) => k.entry % x.fqn != e % x.fqn
        let s := s.setPart f.part { x with fqCount := e + 1, opened := others ++ (if f.ty ≤ 3 then [o] else []) }
        let s := if x.pen then s.lowerLogged service x.ptask 1 else s
        some (if x.host then s.interrupt 0x0002 f.part (f.task % 4096) (wd (e % x.fqn)) else s, e)

/-- A waiter more of an entry. -/
def State.joinEntry (s : State) (p e : Nat) : Option State :=
  let a := (s.part p).slotAt e + 8
  match s.physWord a with
  | some w => s.putPhys a [wd (w.toNat - bitsOf w 16 8 * 2 ^ 16 + satTo 255 (bitsOf w 16 8 + 1) * 2 ^ 16)]
  | none => none

/-- What waits for a page knows the entry that stands for its fault. -/
def State.noteEntry (s : State) (who : Stalled) (p e : Nat) : State :=
  match who with
  | .elem c k => s.updCtx c fun x => match x.elems.find? k with
    | some el => { x with elems := x.elems.put k { el with fault := some (p, e) } }
    | none => x
  | .chan k => s.updChan k fun x => { x with fault := some (p, e) }
  | .nothing => s

/-- One fault enters its queue (R361): a waiter more of an open entry, or a new entry where it is the first of those held;
none while the slot for it is still VALID. Log entry 73 (DEDUCED). -/
def State.enterFault (s : State) (first : Bool) (f : FaultRec) : Option State :=
  match (if f.ty ≤ 3 then s.openEntry f.part f.task f.va else none) with
  | some e => (s.joinEntry f.part e).map fun s => s.noteEntry f.who f.part e
  | none => if first then (s.newEntry f).map fun r => r.1.noteEntry f.who f.part r.2 else none

/-- The faults held enter their queues in order, as far as slots are free; one that needs a new entry waits behind those
held in its queue. -/
def State.flushFaults (s : State) : State :=
  s.pageFaults.foldl (fun s f =>
    match s.enterFault (!s.pageFaults.any fun g => g.part == f.part) f with
    | some s => s
    | none => { s with pageFaults := s.pageFaults ++ [f] }) { s with pageFaults := [] }

/-- A page fault of a task is reported (R361, R362): it enters the queue, or is held. -/
def State.queueFault (s : State) (p t ty va r : Nat) (who : Stalled) : State :=
  { s with pageFaults := s.pageFaults ++ [(⟨p, t, ty, va, r, 0, s.now, who⟩ : FaultRec)] }.flushFaults

/-- The task a stalled element belongs to. -/
def State.faultTask (s : State) (c : Ctx) (r : Nat) : Nat := (c.task.or (s.taskOf r)).getD (dieOf r * 4096)

/-- AG_PAGE_FAULT (R225, R361): the element in focus stalls, and its fault is reported to the pager. -/
def execAgPageFault (s : State) : Outcome State Fault Refusal :=
  match s.genAt with
  | none => .next s
  | some (cid, c, el) =>
    if el.stall.isSome || !s.canMove s.site.r then .next s
    else
      match s.genFault c el, s.partOf s.site.r with
      | some (ty, va), some p =>
        .next ((s.setGen cid c { el with stall := some (wd va) }).queueFault p (s.faultTask c s.site.r) ty va s.site.r
          (.elem cid (siteKey s.site.r s.site.s)))
      | _, _ => .next s

/-! ## The pager's answers (R363) -/

/-- A stalled element whose fault an entry stands for goes on. -/
def Elem.retry (w : Nat × Nat) (el : Elem) : Elem := if el.fault == some w then { el with stall := none, fault := none } else el

/-- A copy channel stopped on a page fault that an entry stands for runs again, as CPST makes it (R290, R362). -/
def Chan.retry (w : Nat × Nat) (x : Chan) : Chan :=
  if x.fault == some w then
    if x.mode == .stop then { x with mode := .run, phase := .read, data := [], row := [], fault := none, abort := false }
    else { x with fault := none }
  else x

/-- Every waiter of an entry retries (R363). -/
def State.retryEntry (s : State) (p e : Nat) : State :=
  { s with
    ctxs := s.ctxs.map fun kc => (kc.1, { kc.2 with elems := kc.2.elems.map fun ke => (ke.1, ke.2.retry (p, e)) })
    chans := s.chans.map fun kc => (kc.1, kc.2.retry (p, e)) }

/-- The task of an entry: the one the scheduler wrote it for, else the one that the entry's own fields name.
Log entry 73 (DEDUCED). -/
def Part.entryTask (x : Part) (e r n : Nat) : Nat :=
  match x.opened.find? fun (o : OpenFault) => o.entry == e with
  | some o => o.task
  | none => dieOf r * 4096 + n

/-- One VALID entry with an ACTION is acted on, and cleared. -/
def State.resolveEntry (s : State) (p e : Nat) : State :=
  let x := s.part p
  let a := x.slotAt e
  match s.physWord a, s.physWord (a + 8) with
  | some w0, some w1 =>
    let act := bitsOf w1 24 8
    if !w0.getLsbD 63 || act = 0 then s
    else
      let r := bitsOf w0 56 7
      let t := x.entryTask e r (bitsOf w1 0 12)
      let s := match act with
        | 1 => if bitsOf w0 52 4 ≤ 3 then s.retryEntry p e else s
        | 2 => if bitsOf w0 52 4 ≤ 3 then s.decidePreempt t 2 else s
        | 3 => if bitsOf w0 52 4 ≤ 3 then s.flagFault t causePFAULT 3 r else s
        | _ => s
      let s := s.setPart p { s.part p with opened := (s.part p).opened.filter fun o => o.entry != e }
      (s.putPhys a [wd (w0.toNat % 2 ^ 63)]).getD s
  | _, _ => s

/-- PAGER_RESOLVE (R363): where PFLAG is set, the scheduler clears it and acts on every answered entry in queue order;
faults that were held enter the slots now free (R361). -/
def execPagerResolve (part : Nat) (s : State) : Outcome State Fault Refusal :=
  let x := s.part part
  if !x.valid then .next s
  else if !s.flag x.pflag then .next s.flushFaults
  else
    let n := min x.fqCount x.fqn
    .next ((List.range n).foldl (fun (s : State) k => s.resolveEntry part (x.fqCount - n + k)) (s.setFlag x.pflag false)).flushFaults

end Sys2Proof.Machine
end

