-- ==== Sys2Proof/Machine/Bolter.lean ====
section
/-! DEFINITION. The Bolter copy engines: chains, transfer records, grids, stencils and completion (R290-R295, R326-R341,
R362, R364, R395). -/

namespace Sys2Proof.Machine

open Host (Outcome)

/-! ## A record (R291) -/

/-- A destination: its first byte, and whether it lies in a memory node, by physical address. -/
structure Dest where
  base : Nat
  node : Bool
  region : Nat
  deriving DecidableEq, Repr

/-- A destination word. -/
def destOf (w : Word) : Dest :=
  if w.getLsbD 63 then ⟨mnAddr (bitsOf w 56 7) (bitsOf w 51 5) (bitsOf w 0 17), true, bitsOf w 56 7⟩
  else ⟨w.toNat, false, 0⟩

/-- A zero field of a destination word is set. -/
def destBad (w : Word) : Bool := if w.getLsbD 63 then bitsOf w 17 34 != 0 else bitsOf w 52 11 != 0

/-- A transfer, from the words of its record. -/
structure Xfer where
  op : Nat
  rnd : Nat
  bnd : Nat
  src : Nat
  counts : List Nat
  sf : Nat
  df : Nat
  sy : Nat
  sz : Nat
  dy : Nat
  dz : Nat
  dests : List Dest
  stencil : Nat
  table : List Word
  deriving DecidableEq, Repr

/-- The destination words of a record: DST and as many of MCAST as MCM1 says. -/
def destWords (d : List Word) : List Word := d.getD 2 0 :: ((d.drop 8).take (recBits d 6 9 8))

/-- A record and its stencil table, parsed. -/
def xferOf (d : List Word) : Xfer where
  op := recBits d 6 3 0
  rnd := recBits d 6 5 4
  bnd := recBits d 6 7 6
  src := (d.getD 1 0).toNat
  counts := [recBits d 3 15 0, recBits d 3 31 16, recBits d 3 47 32]
  sf := recBits d 3 52 48
  df := recBits d 3 57 53
  sy := recBits d 4 31 0
  sz := recBits d 4 63 32
  dy := recBits d 5 31 0
  dz := recBits d 5 63 32
  dests := (destWords d).map destOf
  stencil := (d.getD 7 0).toNat
  table := d.drop 16

/-- The width of an element in bits; an image is one beat (R330). -/
def pointBits (f : Nat) : Nat := if isImg f then 512 else fmtBits f

/-- The element size of R330. -/
def pointSize (f : Nat) : Nat := max 1 (pointBits f / 8)

/-! ## The stencil table (R292) -/

def Xfer.byteAt (x : Xfer) (i : Nat) : Nat := (x.table.getD (i / 8) 0).toNat / 256 ^ (i % 8) % 256
def Xfer.dim (x : Xfer) : Nat := x.byteAt 0
def Xfer.shift (x : Xfer) : Nat := x.byteAt 1
/-- The number of a table's classes. Log entry 61 (DEDUCED). -/
def Xfer.classes (x : Xfer) : Nat := x.byteAt 2
def Xfer.taps (x : Xfer) : Nat := x.byteAt 3

/-- A tap: its offsets and its numerator. -/
structure StencilTap where
  off : List Int
  num : Int
  deriving DecidableEq, Repr

/-- A tap word: the offsets and the numerator. Log entry 61 (DEDUCED). -/
def tapOf (w : Word) : StencilTap :=
  ⟨[signedOf 8 (bitsOf w 0 8), signedOf 8 (bitsOf w 8 8), signedOf 8 (bitsOf w 16 8)], signedOf 16 (bitsOf w 32 16)⟩

/-- The taps of a class. -/
def Xfer.tapsOf (x : Xfer) (c : Nat) : List StencilTap := ((x.table.drop (2 + c * x.taps)).take x.taps).map tapOf

/-- The bytes of a table whose header stands. -/
def tableSize (h : List Byte) : Nat := 16 + 8 * ((h.getD 2 0).toNat * (h.getD 3 0).toNat)

/-- The header of a table breaks R292. -/
def headBad (op at_ : Nat) (h : List Byte) : Bool :=
  let b (i : Nat) := (h.getD i 0).toNat
  b 0 = 0 || b 0 > 3 || b 1 > 15 || b 2 = 0 || b 2 > 8 || b 2 > 2 ^ b 0 || (op = 2 && b 2 != 1) || b 3 = 0 || b 3 > 27 ||
    (h.drop 4).any (· != 0) || tableSize h > 2048 || at_ % 16 != 0

/-- A tap breaks R292. -/
def tapBad (dim : Nat) (w : Word) : Bool :=
  bitsOf w 24 8 != 0 || bitsOf w 48 16 != 0 || (dim < 2 && bitsOf w 8 8 != 0) || (dim < 3 && bitsOf w 16 8 != 0)

/-! ## Shapes (R294, R330) -/

/-- A destination count. -/
def Xfer.destCount (x : Xfer) (d : Nat) : Nat :=
  let n := x.counts.getD d 0
  if x.op < 2 || x.dim ≤ d then n else if x.op = 2 then (n - 1) / 2 + 1 else 2 * n - 1

/-- The bytes of a row's elements, and of its scales. -/
def rowSize (f n : Nat) : Nat := (n * pointBits f + 7) / 8
def scaleSize (f n : Nat) : Nat := if isMx f then n / 32 else 0

/-- The start of a destination row. -/
def Xfer.destRow (x : Xfer) (d : Dest) (y z : Nat) : Nat := d.base + y * x.dy + z * x.dz

/-- The start of a source row. -/
def Xfer.srcRow (x : Xfer) (y z : Nat) : Nat := x.src + y * x.sy + z * x.sz

/-- The pieces of a run of n bytes at an address that lie in one granule each: the number, and piece k. -/
def pieceCount (a n : Nat) : Nat := if n = 0 then 0 else (a % 64 + n + 63) / 64
def piece (a n k : Nat) : Nat × Nat :=
  let lo := 64 * k - a % 64
  let hi := min n (64 * (k + 1) - a % 64)
  (lo, hi - lo)

/-- The rows and the units of a row (R335), whose granules are those of the first destination. -/
def Xfer.rows (x : Xfer) : Nat := x.destCount 1 * x.destCount 2

def Xfer.rowBase (x : Xfer) (ρ : Nat) : Nat :=
  match x.dests with
  | d :: _ => x.destRow d (ρ % x.destCount 1) (ρ / x.destCount 1)
  | [] => 0

/-- The units of a row. Log entry 63 (DEDUCED). -/
def Xfer.units (x : Xfer) (ρ : Nat) : Nat :=
  pieceCount (x.rowBase ρ) (rowSize x.df (x.destCount 0)) + (if scaleSize x.df (x.destCount 0) = 0 then 0 else 1)

/-- Unit k of a row: where its bytes lie in the row, and whether they are its scales. Log entry 63 (DEDUCED). -/
def Xfer.unit (x : Xfer) (ρ k : Nat) : Nat × Nat × Bool :=
  let n := rowSize x.df (x.destCount 0)
  if k < pieceCount (x.rowBase ρ) n then ((piece (x.rowBase ρ) n k).1, (piece (x.rowBase ρ) n k).2, false)
  else (n, scaleSize x.df (x.destCount 0), true)

/-! ## Checks (R328) -/

/-- The partition a channel is granted to (R290, R328): the issuer's own where it is one. -/
def State.chanPart (s : State) (ch q : Nat) : Option Nat :=
  let has (p : Nat) : Bool := (s.part p).valid && (s.part p).chan.getLsbD (ch % 64)
  match (s.partOf q).filter has with
  | some p => some p
  | none => (List.range 8).find? fun p => has p && (s.part p).regions.any fun r => dieOf r = ch / 64

/-- The translation of a channel's accesses (R180, R328). -/
def State.chanTr (s : State) (ch q : Nat) : Perm → Nat → Except AccErr Nat :=
  if q = service then s.physTr else s.translate (s.chanPart ch q)

/-- Check 1. Log entry 61 (DEDUCED). -/
def check1 (d : List Word) : Bool :=
  recBits d 0 6 1 != 0 || recBits d 1 63 52 != 0 || recBits d 3 63 58 != 0 || recBits d 6 63 50 != 0 ||
    recBits d 11 63 8 != 0 || (d.drop 13).any (· != 0) || ((d.drop 8).take 3).drop (recBits d 6 9 8) != List.replicate (3 - recBits d 6 9 8) 0 ||
    (destWords d).any destBad || recBits d 6 3 0 ≥ 4 || recBits d 6 7 6 = 3 || (xferOf d).counts.contains 0

/-- Check 2. -/
def Xfer.check2 (x : Xfer) : Bool :=
  let bad (f : Nat) : Bool := !isListed f || f = 0 || f = fmtANY || f = fmtF64
  bad x.sf || bad x.df || (x.op = 0 && x.sf != x.df) || ((isImg x.sf || isImg x.df) && x.op != 0) ||
    ((isMx x.sf || isMx x.df) && (x.op ≥ 2 || x.counts.getD 0 0 % 32 != 0)) || (x.stencil != 0) != (x.op ≥ 2)

/-- Check 3: the first address or stride that is no multiple of its element size. Log entry 62 (DEDUCED). -/
def Xfer.check3 (x : Xfer) : Option Nat :=
  let se := pointSize x.sf
  let de := pointSize x.df
  ([(x.src, se)] ++ x.dests.map (fun d => (d.base, de)) ++ [(x.sy, se), (x.sz, se), (x.dy, de), (x.dz, de)]).findSome?
    fun p => if p.1 % p.2 != 0 then some p.1 else none

/-- Check 4, with the refusal of a group that is not in the pool (R372); it is not made for a chain of the service
sequencer (R180). Log entry 62 (DEDUCED). -/
def State.check4 (s : State) (ch q : Nat) (d : List Word) : Bool :=
  let x := xferOf d
  let inPart (r : Nat) : Bool := (s.chanPart ch q).any fun p => (s.part p).rmask.testBit r
  let t := ch / 64 * 4096 + recBits d 6 28 17
  q != service && (((d.getD 6 0).getLsbD 16 && !inPart (recBits d 6 49 43)) ||
    ((d.getD 6 0).getLsbD 29 && ((s.task t).state == .free || some (s.task t).part != s.chanPart ch q)) ||
    x.dests.any fun e => e.node && (!inPart e.region || s.group (groupOf e.region) != .pool))

/-- The first byte, by its place in a row of a transfer, that a destination writes beyond its node (R328, check 5). -/
def Xfer.overIn (x : Xfer) (n y z : Nat) : Option Nat :=
  let beyond := x.dests.filterMap fun d =>
    let off := (d.base % 0x20000) + y * x.dy + z * x.dz
    if d.node && off + n > 0x20000 then some (0x20000 - off, x.destRow d y z + (0x20000 - off)) else none
  match beyond with
  | [] => none
  | p :: ps => some (ps.foldl (fun (b : Nat × Nat) q => if q.1 < b.1 then q else b) p).2

/-- Check 5. Log entry 62 (DEDUCED). -/
def Xfer.check5 (x : Xfer) : Option Nat :=
  let n := rowSize x.df (x.destCount 0) + scaleSize x.df (x.destCount 0)
  let ny := x.destCount 1
  match (List.range (x.destCount 2)).find? fun z => (x.overIn n (ny - 1) z).isSome with
  | none => none
  | some z => (List.range ny).findSome? fun y => x.overIn n y z

/-- The status code of a failed access (R308). -/
def AccErr.status : AccErr → Nat
  | .unmapped => 0x05
  | .violation => 0x06
  | .ecc => 0x09

/-- What the checks of a record find: the table to append, a code and its FAILADDR, or an entry awaited; with the state that
their reads leave (R299, R395). -/
inductive Checked where
  | wait
  | bad (code fail : Nat) (s : State)
  | good (table : List Word) (s : State)

/-- Checks 6 and 7: the stencil table is read whole, as far as a table may reach, before it is judged. -/
def State.checkTable (s : State) (ch q : Nat) (x : Xfer) : Checked :=
  if x.op < 2 then .good [] s
  else
    let tr := s.chanTr ch q
    let s := s.countSeqWalk q x.stencil
    match s.readAt tr x.stencil 16 with
    | .error .wait => .wait
    | .error (.fail e _) => .bad e.status x.stencil s
    | .ok (h, s') =>
        match s'.readAt tr (x.stencil + 16) (satTo 2048 (tableSize h) - 16) with
        | .error .wait => .wait
        | .error (.fail e _) => .bad e.status x.stencil s'
        | .ok (ts, s'') =>
          if headBad x.op x.stencil h then .bad 0x11 x.stencil s''
          else if (bytesToWords ts).any (tapBad (h.getD 0 0).toNat) then .bad 0x11 x.stencil s''
          else .good (bytesToWords (h ++ ts)) s''

/-- The headers a record may stand under (R294): the one of its table, where that can be read and gives a number of
dimensions, and each number of dimensions where not; none while the table awaits an entry. Log entry 62 (DEDUCED). -/
def State.tableHeads (s : State) (ch q : Nat) (x : Xfer) : Option (List (List Word)) :=
  if x.op < 2 then some [[]]
  else
    match s.readAt (s.chanTr ch q) x.stencil 16 with
    | .ok (h, _) =>
      if 1 ≤ (h.getD 0 0).toNat && (h.getD 0 0).toNat ≤ 3 then some [bytesToWords h] else some [[1], [2], [3]]
    | .error .wait => none
    | .error (.fail _ _) => some [[1], [2], [3]]

/-- The checks of R328 in their order; check 5 takes the shape that the table gives, and where it gives none fails where
it does so under every number of dimensions. Log entry 62 (DEDUCED). -/
def State.checkRecord (s : State) (ch q : Nat) (d : List Word) : Checked :=
  let x := xferOf d
  if check1 d then .bad 0x01 0 s
  else if x.check2 then .bad 0x01 0 s
  else
    match x.check3 with
    | some a => .bad 0x07 a s
    | none =>
      if s.check4 ch q d then .bad 0x06 0 s
      else
        match (s.tableHeads ch q x).map fun hs => hs.map fun h => { x with table := h }.check5 with
        | none => .wait
        | some as =>
          match as.head?.join with
          | some a => if as.all (·.isSome) then .bad 0x06 a s else s.checkTable ch q x
          | none => s.checkTable ch q x

/-! ## Chains (R326, R327, R362, R364) -/

/-- A save no longer waits for a channel's record (R360). -/
def Task.recordOver (ch : Nat) (x : Task) : Task :=
  { x with saved := x.saved.map fun v => { v with copies := v.copies.filter (· != ch) } }

/-- A record of a channel is over: no drain and no save waits for it any longer (R316, R360). -/
def State.recordOver (s : State) (ch : Nat) : State :=
  { s with
    ctxs := s.ctxs.map fun kc => (kc.1, { kc.2 with copies := kc.2.copies.filter (· != ch) })
    tasks := s.tasks.map fun kt => (kt.1, kt.2.recordOver ch) }

/-- A stop is reported to the task scheduler (R327, R362, R364): a page fault to the pager, any other to the task.
Log entry 64 (DEDUCED). -/
def State.reportStop (s : State) (ch code : Nat) (va : Word) : State :=
  let x := s.chan ch
  match x.task with
  | none => s
  | some t =>
    let fault (c : BitVec 8) : State := s.flagFault t c 1 x.issuer
    match code with
    | 0x05 =>
      match s.chanPart ch x.issuer with
      | some p => s.queueFault p t 3 va.toNat x.issuer (.chan ch)
      | none => s
    | 0x09 => fault causeECCU
    | 0x07 => fault causeALIGN
    | 0x01 | 0x06 | 0x11 => fault causeACCESS
    | _ => s

/-- COPY_CHAIN_START (R290, R326): an idle channel takes the head of its queue. -/
def execCopyChainStart (die ch : Nat) (s : State) : Outcome State Fault Refusal :=
  let k := die * 64 + ch
  let x := s.chan k
  match x.mode, x.queue with
  | .idle, (a, q, t) :: rest =>
    .next (s.setChan k { x with
      mode := .run
      queue := rest
      recAt := a
      issuer := q
      task := t
      data := []
      phase := .read
      row := []
      abort := false })
  | _, _ => .next s

/-- A FENCE of the thread that queued a channel's chain holds its reads or its writes back (R276, R277). -/
def State.chanFenced (s : State) (x : Chan) : Bool := (s.seq x.issuer).fenceHolds &&& 0x30 != 0

/-- COPY_RECORD_READ (R326-R329): the record is read once and checked; one with OWN = 0 ends the walk. -/
def execCopyRecordRead (die ch : Nat) (s : State) : Outcome State Fault Refusal :=
  let k := die * 64 + ch
  let x := s.chan k
  if x.mode != .run || x.phase != .read || s.chanFenced x then .next s
  else
    match s.readAt (s.chanTr k x.issuer) x.recAt.toNat 128 with
    | .error .wait => .next s
    | .error (.fail e _) =>
      .next (((s.countSeqWalk x.issuer x.recAt.toNat).setChan k { x with
        mode := .stop
        data := []
        phase := .final (BitVec.ofNat 8 e.status) x.recAt }).reportStop k e.status x.recAt)
    | .ok (bs, t) =>
      let walked (u : State) : State := u.countSeqWalk x.issuer x.recAt.toNat
      let d := bytesToWords bs
      if !(d.getD 0 0).getLsbD 0 then .next ((walked t).setChan k { x with mode := .idle, data := [] })
      else
        match t.checkRecord k x.issuer d with
        | .wait => .next s
        | .bad c f u => .next ((walked u).setChan k { x with data := d, phase := .final (BitVec.ofNat 8 c) (wd f) })
        | .good ws u => .next ((walked u).setChan k { x with data := d ++ ws, phase := .units 0 })

/-! ## Units (R331-R336) -/

/-- What a unit reads: how it goes on, having read pieces of physical memory. -/
inductive Got (α : Type) where
  | wait
  | fail (e : AccErr) (va : Nat)
  | ok (v : α) (ps : List (Nat × Nat))

/-- A run of source bytes read, granule by granule. -/
def State.readGran (s : State) (tr : Perm → Nat → Except AccErr Nat) (va n : Nat) : Nat → Got (List Byte)
  | 0 => .ok [] []
  | f + 1 =>
    let k := min n (64 - va % 64)
    if n = 0 then .ok [] []
    else
      match s.runAt tr .read va k with
      | .error .wait => .wait
      | .error (.fail e a) => .fail e a
      | .ok ps =>
        match State.readGran s tr (va + k) (n - k) f with
        | .ok bs qs => .ok (s.loadRuns ps ++ bs) (ps ++ qs)
        | r => r

def State.peek (s : State) (tr : Perm → Nat → Except AccErr Nat) (va n : Nat) : Got (List Byte) :=
  s.readGran tr va n (n / 64 + 3)

/-- Reads one after another. -/
def gather {α : Type} : List (Unit → Got α) → Got (List α)
  | [] => .ok [] []
  | g :: rest =>
    match g () with
    | .wait => .wait
    | .fail e a => .fail e a
    | .ok v ps =>
      match gather rest with
      | .wait => .wait
      | .fail e a => .fail e a
      | .ok vs qs => .ok (v :: vs) (ps ++ qs)

/-- The exact value of source point i of a row. -/
def State.srcValue (s : State) (tr : Perm → Nat → Except AccErr Nat) (x : Xfer) (row i : Nat) : Got ExactVal :=
  let w := pointBits x.sf
  match s.peek tr (row + i * w / 8) ((i * w % 8 + w + 7) / 8) with
  | .wait => .wait
  | .fail e a => .fail e a
  | .ok bs ps =>
    let code := numOf bs / 2 ^ (i * w % 8) % 2 ^ w
    if isMx x.sf then
      match s.peek tr (row + rowSize x.sf (x.counts.getD 0 0) + i / 32) 1 with
      | .wait => .wait
      | .fail e a => .fail e a
      | .ok sc qs => .ok (scaledValue x.sf code (numOf sc)) (ps ++ qs)
    else .ok (valueOf x.sf code) ps

/-- The index a boundary mode reads (R332). -/
def bounded (bnd n : Nat) (i : Int) : Option Nat :=
  if 0 ≤ i && i < n then some i.toNat
  else
    match bnd with
    | 0 => none
    | 1 => some (if i < 0 then 0 else n - 1)
    | _ => some (i % (n : Nat)).toNat

/-- A tap's contribution (R333, R334). Log entry 61 (DEDUCED). -/
def StencilTap.times (t : StencilTap) (k : Nat) : ExactVal → ExactVal
  | .nan => .nan
  | .inf n => .inf (n != (t.num < 0))
  | .fin n m e => .fin (n != (t.num < 0)) (m * t.num.natAbs) (e - k)

/-- A sum of contributions in one lane, resolved (R333). -/
def stencilSum (fmt rnd : Nat) (ps : List ExactVal) : Nat :=
  let b : Int := match ps.foldl (fun a v => maxLead a v.lead) none with
    | some l => l - 48
    | none => 0
  let lane := ps.foldl (Lane.enter b) Lane.zero
  roundTo fmt (Round.of2 rnd) ((Image.zero 1 b).rounded false lane)

/-- A destination point of a restriction or a prolongation (R294): its code.  A class that the table does not hold has an
empty sum (R333). -/
def State.stencilPoint (s : State) (tr : Perm → Nat → Except AccErr Nat) (x : Xfer) (p : List Nat) : Got Nat :=
  let at_ (d : Nat) : Nat := p.getD d 0
  let cls : Nat := if x.op = 3 then at_ 0 % 2 + 2 * (at_ 1 % 2) + 4 * (at_ 2 % 2) else 0
  let base (d : Nat) : Nat := if d < x.dim then (if x.op = 2 then 2 * at_ d else at_ d / 2) else at_ d
  let taps := if cls < x.classes then x.tapsOf cls else []
  let reads := (taps.filter fun t => t.num != 0).filterMap fun t =>
    let ix (d : Nat) : Option Nat := bounded x.bnd (x.counts.getD d 0) (base d + t.off.getD d 0)
    match ix 0, ix 1, ix 2 with
    | some i, some j, some k => some fun (_ : Unit) =>
      match s.srcValue tr x (x.srcRow j k) i with
      | .ok v ps => .ok (t.times x.shift v) ps
      | .wait => .wait
      | .fail e a => .fail e a
    | _, _, _ => none
  match gather reads with
  | .wait => .wait
  | .fail e a => .fail e a
  | .ok vs ps => .ok (stencilSum x.df x.rnd vs) ps

/-- One destination point whose format is no MX format: its bytes. -/
def State.pointBytes (s : State) (tr : Perm → Nat → Except AccErr Nat) (x : Xfer) (px y z : Nat) : Got (List Byte) :=
  let code : Got Nat → Got (List Byte)
    | .ok c ps => .ok (bytesOf (pointSize x.df) c) ps
    | .wait => .wait
    | .fail e a => .fail e a
  match x.op with
  | 0 => s.peek tr (x.srcRow y z + px * pointSize x.sf) (pointSize x.sf)
  | 1 => code (match s.srcValue tr x (x.srcRow y z) px with
    | .ok v ps => .ok (roundTo x.df (Round.of2 x.rnd) v) ps
    | .wait => .wait
    | .fail e a => .fail e a)
  | _ => code (s.stencilPoint tr x [px, y, z])

/-- A block of 32 points converted to an MX format (R246, R331): its bytes and its scale. -/
def State.mxBlock (s : State) (tr : Perm → Nat → Except AccErr Nat) (x : Xfer) (b y z : Nat) : Got (List Byte × Nat) :=
  match gather ((List.range 32).map fun i (_ : Unit) => s.srcValue tr x (x.srcRow y z) (32 * b + i)) with
  | .wait => .wait
  | .fail e a => .fail e a
  | .ok vs ps =>
    let r := mxRow x.df vs vs fun _ => Round.of2 x.rnd
    .ok (packBytes (fmtBits x.df) r.1, r.2) ps

/-- The physical address of byte i of some pieces. -/
def byteIn : List (Nat × Nat) → Nat → Option Nat
  | [], _ => none
  | p :: ps, i => if i < p.2 then some (p.1 + i) else byteIn ps (i - p.2)

/-- A point's bytes stand in memory for the points of its unit that follow (R335). -/
def State.scratch (s : State) (dests : List (List (Nat × Nat))) (off : Nat) (bs : List Byte) : State :=
  dests.foldl (fun s ps => bs.zipIdx.foldl (fun (s : State) b =>
    match byteIn ps (off + b.2) with
    | some a => { s with mem := Memory.putByte s.mem a b.1 }
    | none => s) s) s

/-- The parts of a unit in order, each formed from memory as the ones before it leave it (R335): the unit's bytes. -/
def State.inTurn (s : State) (part : State → Nat → Got (List Byte)) (dests : List (List (Nat × Nat))) (off : Nat) :
    List Nat → Got (List Byte)
  | [] => .ok [] []
  | i :: rest =>
    match part s i with
    | .wait => .wait
    | .fail e a => .fail e a
    | .ok bs ps =>
      match State.inTurn (s.scratch dests off bs) part dests (off + bs.length) rest with
      | .wait => .wait
      | .fail e a => .fail e a
      | .ok cs qs => .ok (bs ++ cs) (ps ++ qs)

/-- The blocks of 32 points that bytes [lo, lo + n) of a row converted to an MX format lie in, in order: those converted
with an earlier unit are at hand, and each other one is converted when its first point is produced (R331, R335).
The bytes, and the blocks of the row so far. Log entry 63 (DEDUCED). -/
def State.mxBlocks (s : State) (tr : Perm → Nat → Except AccErr Nat) (x : Xfer) (y z : Nat)
    (dests : List (List (Nat × Nat))) (lo n : Nat) (row : List (List Byte × Nat)) :
    Nat → Nat → Got (List Byte × List (List Byte × Nat))
  | 0, _ => .ok ([], row) []
  | f + 1, b =>
    let k := 4 * fmtBits x.df
    let low := max lo (b * k)
    let high := min (lo + n) ((b + 1) * k)
    if high ≤ low then .ok ([], row) []
    else
      let got : Got (List Byte × Nat) := match row[b]? with
        | some v => .ok v []
        | none => s.mxBlock tr x b y z
      match got with
      | .wait => .wait
      | .fail e a => .fail e a
      | .ok v ps =>
        let bs := (v.1.drop (low - b * k)).take (high - low)
        match State.mxBlocks (s.scratch dests (low - lo) bs) tr x y z dests lo n
            (if b < row.length then row else row ++ [v]) f (b + 1) with
        | .wait => .wait
        | .fail e a => .fail e a
        | .ok (cs, row) qs => .ok (bs ++ cs, row) (ps ++ qs)

/-- The destination addresses of a unit, by destination. -/
def Xfer.unitDests (x : Xfer) (ρ : Nat) (u : Nat × Nat × Bool) : List (Dest × Nat) :=
  x.dests.map fun d => (d, x.destRow d (ρ % x.destCount 1) (ρ / x.destCount 1) + u.1)

/-- A record in progress still reaches a memory node of a group that is quiescing, which waits for it (R372). -/
def State.forRecord (s : State) (d : Dest) : State :=
  if d.node && s.group (groupOf d.region) == .quiescing then s.setGroup (groupOf d.region) .pool else s

/-- The pieces that a run of a destination is written to, granule by granule, or the first failure (R338).
Log entry 63 (DEDUCED). -/
def State.writeGran (s : State) (tr : Perm → Nat → Except AccErr Nat) (va n : Nat) : Nat → Except RunErr (List (Nat × Nat))
  | 0 => .ok []
  | f + 1 =>
    let k := min n (64 - va % 64)
    if n = 0 then .ok []
    else
      match s.runAt tr .write va k with
      | .error e => .error e
      | .ok ps =>
        match State.writeGran s tr (va + k) (n - k) f with
        | .error e => .error e
        | .ok qs => .ok (ps ++ qs)

/-- The pieces a unit is written to, destination by destination, or the first failure (R338). -/
def State.unitPieces (s : State) (tr : Perm → Nat → Except AccErr Nat) (n : Nat) :
    List (Dest × Nat) → Except RunErr (List (List (Nat × Nat)))
  | [] => .ok []
  | d :: rest =>
    match (s.forRecord d.1).writeGran (if d.1.node then s.physTr else tr) d.2 n (n / 64 + 3) with
    | .error e => .error e
    | .ok ps =>
      match State.unitPieces s tr n rest with
      | .error e => .error e
      | .ok more => .ok (ps :: more)

/-- The bytes of a unit, and the blocks of its row that have been converted (R331, R335). -/
def State.unitBytes (s : State) (tr : Perm → Nat → Except AccErr Nat) (x : Xfer) (ρ : Nat) (u : Nat × Nat × Bool)
    (dests : List (List (Nat × Nat))) (row : List (List Byte × Nat)) : Got (List Byte × List (List Byte × Nat)) :=
  let y := ρ % x.destCount 1
  let z := ρ / x.destCount 1
  let plain : Got (List Byte) → Got (List Byte × List (List Byte × Nat))
    | .ok bs ps => .ok (bs, row) ps
    | .wait => .wait
    | .fail e a => .fail e a
  if isMx x.df then
    if x.op = 0 then plain (s.inTurn (fun s i => s.peek tr (x.srcRow y z + u.1 + i) 1) dests 0 (List.range u.2.1))
    else if u.2.2 then .ok (row.map fun b => BitVec.ofNat 8 b.2, row) []
    else s.mxBlocks tr x y z dests u.1 u.2.1 row (u.2.1 + 1) (u.1 / (4 * fmtBits x.df))
  else
    let w := pointSize x.df
    plain (s.inTurn (fun s px => s.pointBytes tr x px y z) dests 0 ((List.range (u.2.1 / w)).map (· + u.1 / w)))

/-- Pieces have been read: BUFW entries are emptied, and each granule of HBM4 is counted once.
Log entry 63 (DEDUCED). -/
def State.unitRead (s : State) (ps : List (Nat × Nat)) : State :=
  let s := ps.foldl (fun (s : State) p => s.emptyEntry p.1 p.2) s
  ((ps.map fun p => p.1 / 64).eraseDups).foldl (fun (s : State) g => s.countHbm (64 * g) 64) s

/-- The taps that a unit's points evaluate (R341, R395). -/
def Xfer.unitTaps (x : Xfer) (u : Nat × Nat × Bool) : Nat :=
  if x.op < 2 then 0 else u.2.1 / pointSize x.df * x.taps

/-- The energy of an engine (R395), by bytes read, bytes written and taps. Log entry 65 (DEDUCED). -/
def State.countEngine (s : State) (ch rd wr taps : Nat) : State :=
  s.addEnergy 2 (ch / 16) ((rd + wr) * 3600 + taps * 13500)

/-- What the next unit of a channel's record comes to: the row and the unit, its pieces by destination, and its bytes. -/
structure UnitNow where
  row : Nat
  unit : Nat × Nat × Bool
  dests : Except RunErr (List (List (Nat × Nat)))
  got : Got (List Byte × List (List Byte × Nat))

/-- The next unit of a channel in its record, where one is left to write. -/
def State.unitNow (s : State) (k : Nat) : Option UnitNow :=
  let c := s.chan k
  match c.mode, c.phase with
  | .run, .units n =>
    let x := xferOf c.data
    let ρ := n / 2 ^ 18
    if x.rows ≤ ρ then none
    else
      let u := x.unit ρ (n % 2 ^ 18)
      let tr := s.chanTr k c.issuer
      let dests := s.unitPieces tr u.2.1 (x.unitDests ρ u)
      some ⟨ρ, u, dests, s.unitBytes tr x ρ u (match dests with
        | .ok ps => ps
        | .error _ => []) c.row⟩
  | _, _ => none

/-- The unit waits for an entry of a memory node (R299). -/
def UnitNow.waits (v : UnitNow) : Bool :=
  match v.got, v.dests with
  | .wait, _ | .ok _ _, .error .wait | .fail .ecc _, .error .wait => true
  | _, _ => false

/-- A channel has a unit that its engine can serve now. -/
def State.canServe (s : State) (k : Nat) : Bool :=
  !s.chanFenced (s.chan k) && (s.unitNow k).any fun v => (s.chan k).abort || !v.waits

/-- It is a channel's turn at its engine: no channel between the one served last and this one, in ascending order and
round, has a unit to serve (R341). Channel c of engine e of a die is die * 64 + e * 16 + c. Log entry 63 (DEDUCED). -/
def State.chanTurn (s : State) (k : Nat) : Bool :=
  let last := s.served.getD (k / 16) 15
  !(List.range ((k % 16 + 15 - last) % 16)).any fun i => s.canServe (k / 16 * 16 + (last + 1 + i) % 16)

/-- COPY_WRITE_UNIT (R331-R341): the next unit is formed and written to every destination, or ends the transfer.
Log entry 63 (DEDUCED). -/
def execCopyWriteUnit (die ch : Nat) (s : State) : Outcome State Fault Refusal :=
  let k := die * 64 + ch
  let c := s.chan k
  match c.phase, s.unitNow k with
  | .units n, some v =>
    if !s.canServe k || !s.chanTurn k then .next s
    else
      let s := { s with served := s.served.set 15 (k / 16) (k % 16) }
      let stop (s : State) (code : Nat) (fail : Nat) : Outcome State Fault Refusal :=
        .next (s.setChan k { c with phase := .final (BitVec.ofNat 8 code) (wd fail) })
      if c.abort then stop s 0x10 0
      else
        match v.got, v.dests with
        | .wait, _ | _, .error .wait => .next s
        | .fail .unmapped a, _ => stop s 0x05 a
        | .fail .violation a, _ => stop s 0x06 a
        | _, .error (.fail e a) => stop s e.status a
        | .fail .ecc a, .ok ds =>
          let grans := (ds.flatMap fun ps => ps.flatMap fun p => linesMet p.1 p.2).eraseDups
          stop (grans.foldl State.markPoison (s.countSeqWalk c.issuer c.recAt.toNat)) 0x09 (a / 64 * 64)
        | .ok (bs, row) ps, .ok ds =>
          let x := xferOf c.data
          let s := (s.countSeqWalk c.issuer c.recAt.toNat).unitRead ps
          let s := ds.foldl (fun (s : State) qs => s.storeRuns qs bs) s
          let s := s.countEngine k (ps.map (·.2)).sum (v.unit.2.1 * ds.length) (x.unitTaps v.unit)
          let more := n % 2 ^ 18 + 1 < x.units v.row
          .next (s.setChan k { c with
            phase := .units (if more then n + 1 else (v.row + 1) * 2 ^ 18)
            row := if more then row else [] })
  | _, _ => .next s

/-! ## The end of a record (R329, R337) -/

/-- The final write: STATUS, FAILADDR, and OWN of word 0 as memory holds it at that moment (R329).
Log entry 64 (DEDUCED). -/
def State.finalWrite (s : State) (q : Nat) (tr : Perm → Nat → Except AccErr Nat) (a code : Nat) (fail : Word) : Option State :=
  match s.runAt tr .write a 8, s.runAt tr .write (a + 0x58) 16 with
  | .ok ps, .ok qs =>
    let w0 := numOf (s.loadRuns ps)
    let s := s.countSeqWalk q a
    let s := if code = 0x02 then s.storeRuns ps (bytesOf 8 (w0 - w0 % 2)) else s
    some (s.storeRuns qs (wordsToBytes [wd code, fail]))
  | _, _ => none

/-- The log that a channel's events enter: that of the anchor region of the task that queued the chain (R177). -/
def State.chanLog (s : State) (x : Chan) : Nat :=
  match x.task with
  | some t => (s.task t).anchor
  | none => service

/-- Completion action n of a record (R337): the tag, the counter, the flag. Log entry 64 (DEDUCED). -/
def State.complete (s : State) (k n : Nat) : State :=
  let x := s.chan k
  let w := x.data.getD 6 0
  match n with
  | 0 => if w.getLsbD 16 && bitsOf w 43 7 < 96 then s.setTag (bitsOf w 43 7) (bitsOf w 10 6) else s
  | 1 => if w.getLsbD 29 then s.lowerFor (s.chanLog x) (k / 64 * 4096 + bitsOf w 17 12) 1 else s
  | _ => if w.getLsbD 30 then s.setFlag (k / 64 * 4096 + bitsOf w 31 12) true else s

/-- COPY_RECORD_COMPLETE (R326, R329, R337): once every unit is written the actions run one after another, and the final
write ends the record; the channel goes on along the chain, stops, or is idle. Log entry 64 (DEDUCED). -/
def execCopyRecordComplete (die ch : Nat) (s : State) : Outcome State Fault Refusal :=
  let k := die * 64 + ch
  let c := s.chan k
  let tr := s.chanTr k c.issuer
  let ended (code : Nat) (fail : Word) : State := ((s.finalWrite c.issuer tr c.recAt.toNat code fail).getD s).recordOver k
  let idle : Chan := { c with mode := .idle, data := [], row := [], abort := false }
  if s.chanFenced c then .next s
  else
    match c.mode, c.phase with
    | .run, .units n =>
      if n / 2 ^ 18 < (xferOf c.data).rows then .next s
      else if c.abort then .next (s.setChan k { c with phase := .final 0x10 0 })
      else .next ((s.complete k 0).setChan k { c with phase := .acts 1 })
    | .run, .acts n =>
      if n < 3 then .next ((s.complete k n).setChan k { c with phase := .acts (n + 1) })
      else
        let w0 := c.data.getD 0 0
        if bitsOf w0 6 58 = 0 || c.abort then .next ((ended 0x02 0).setChan k idle)
        else .next ((ended 0x02 0).setChan k { c with recAt := w0 &&& ~~~ 0x3F, data := [], phase := .read })
    | .run, .final code fail =>
      if code = 0x10 then .next ((ended code.toNat fail).setChan k idle)
      else .next (((ended code.toNat fail).setChan k { c with mode := .stop, row := [], abort := false }).reportStop k code.toNat fail)
    | _, _ => .next s

/-! ## Commands at commit (R290) -/

/-- CPCH appends a head to a channel's queue, with the thread that queued it and the task it belongs to. -/
def State.commitCpch (s : State) (q ch : Nat) (a : Word) : State :=
  s.updChan ch fun x => { x with queue := x.queue ++ [(a, q, s.taskOf q)] }

/-- CPST: a stopped channel walks again from the record where it stopped. -/
def State.commitCpst (s : State) (ch : Nat) : State :=
  s.updChan ch fun x =>
    if x.mode == .stop then { x with mode := .run, phase := .read, data := [], row := [], fault := none, abort := false } else x

/-- CPAB: the queue is discarded, that of an idle channel too, which holds the heads of the block's own CPCHs; and a record in progress takes code 0x10 at its next unit, as one does that has failed
or at which the channel stopped; a record past its last unit ends as it would have, and the channel goes no further.
Log entry 64 (DEDUCED). -/
def State.commitCpab (s : State) (ch : Nat) : State :=
  s.updChan ch fun x =>
    match x.mode with
    | .idle => { x with queue := [] }
    | .run =>
      match x.phase with
      | .read => { x with queue := [], mode := .idle, data := [] }
      | .final _ _ => { x with queue := [], phase := .final 0x10 0 }
      | _ => { x with queue := [], abort := true }
    | .stop =>
      if x.data.isEmpty then { x with queue := [], mode := .idle }
      else { x with queue := [], mode := .run, phase := .final 0x10 0 }

end Sys2Proof.Machine
end

