-- ==== Sys2Proof/Machine/Exits.lean ====
section
/-! DEFINITION. The exits of a block, HALT apart (R51, R137-R144). -/

namespace Sys2Proof.Machine

open Host (Outcome)

/-- The check of a target computed at run time (R137). -/
def checkTarget (t : Word) : Option (BitVec 8) :=
  if t &&& 0xF != 0 then some causeALIGN else if bitsOf t 52 12 != 0 then some causeACCESS else none

/-- An exit fires; a second one raises ILLINS, also after one whose own check has failed (R19, R51, R156).
Log entry 18 (DEDUCED). -/
def Blk.leave (b : Blk) (e : Exit) : Blk :=
  if b.otherFired e.ix fun i => (exitOf i).isSome then b.raise e.ix causeILLINS (wd e.ix) else { b with exits := [e] }

/-- An exit to a target that is checked (R137). Log entry 120 (DESIGN CHOICE). -/
def Blk.leaveTo (b : Blk) (x : BitVec 3) (ix : Nat) (k : ExitKind) (t : Word) : Blk :=
  match checkTarget t with
  | some c => b.raise ix c t
  | none => b.leave ⟨x.toNat, ix, k, t, false⟩

/-- A call: the target's own checks come first, then the depth of the store (R138). -/
def Blk.leaveCall (b : Blk) (depth : Nat) (x : BitVec 3) (ix : Nat) (t : Word) : Blk :=
  match checkTarget t with
  | some c => b.raise ix c t
  | none => if depth ≥ 32 then b.raise ix causeCALLDEPTH t else b.leave ⟨x.toNat, ix, .call, t, false⟩

/-- BR (R51). -/
def execBr (f : BX) (s : State) : Outcome State Fault Refusal :=
  s.fireBlk f.pr false fun b =>
    some ((b.fire s.curIx 6).leave ⟨f.x.toNat, s.curIx, .go, b.offTarget f.off, false⟩)

/-- BRI (R137). -/
def execBri (f : BX) (s : State) : Outcome State Fault Refusal :=
  s.fireBlk f.pr false fun b =>
    match b.operand s.curIx slotL with
    | some l => some ((b.fire s.curIx 6).leaveTo f.x s.curIx .go l)
    | none => none

/-- CALL (R138). -/
def execCall (f : BX) (s : State) : Outcome State Fault Refusal :=
  s.fireBlk f.pr false fun b =>
    some ((b.fire s.curIx 6).leaveCall (s.seq s.cur).ras.length f.x s.curIx (b.offTarget f.off))

/-- CALLI (R138). -/
def execCalli (f : BX) (s : State) : Outcome State Fault Refusal :=
  s.fireBlk f.pr false fun b =>
    match b.operand s.curIx slotL with
    | some l => some ((b.fire s.curIx 6).leaveCall (s.seq s.cur).ras.length f.x s.curIx l)
    | none => none

/-- RET (R138): the entry it pops is the newest at commit, and the check of R137 is of the one that is newest when it
fires. Log entry 96 (DEDUCED). -/
def execRet (f : BX) (s : State) : Outcome State Fault Refusal :=
  s.fireBlk f.pr false fun b =>
    let b := b.fire s.curIx 6
    match (s.seq s.cur).ras with
    | [] => some (b.raise s.curIx causeRETEMPTY 0)
    | a :: _ => some (b.leaveTo f.x s.curIx .ret a)

/-- A table read of a JTAB as it is made: it waits at a window as a load does, and passes the checks of a load (R134,
R141, R299). Log entry 46 (DEDUCED). -/
inductive TableRead where
  | wait
  | trap (cause : BitVec 8)
  | ok (r : LoadRec)

def State.readTable (s : State) (b : Blk) (va : Word) : TableRead :=
  match s.checkAccess s.cur .read va 8 with
  | .error c => .trap c
  | .ok pa =>
    let r : LoadRec := ⟨0, s.curIx, va, wd pa, 8, false, noTarget, true, 0, true⟩
    if !s.loadReady b r then .wait
    else if s.loadFails b r then .trap causeECCU
    else .ok { r with value := s.loadValue b r }

/-- A block with a table read made. -/
def Blk.withRead (b : Blk) (r : LoadRec) : Blk := { b with loads := b.loads ++ [r] }

/-- JTAB (R141): the table reads see memory as a load ahead of every id of the block. Log entry 46 (DEDUCED). -/
def execJtab (f : BX) (s : State) : Outcome State Fault Refusal :=
  s.fireWith f.pr false fun b =>
    match b.operand s.curIx slotL, b.operand s.curIx slotR with
    | some l, some r =>
      let b' := b.fire s.curIx 6
      match s.readTable b l with
      | .wait => none
      | .trap c => some (b'.raise s.curIx c l, id)
      | .ok t1 =>
        let after (t : State) : State := t.afterRead s.cur 0 t1
        if r.toNat ≥ t1.value.toNat % 2 ^ 32 then
          some ((b'.withRead t1).leave ⟨f.x.toNat, s.curIx, .go, b.offTarget f.off, false⟩, after)
        else
          let a := l + 8 + 8 * r
          match s.readTable b a with
          | .wait => none
          | .trap c => some ((b'.withRead t1).raise s.curIx c a, after)
          | .ok t2 =>
            some (((b'.withRead t1).withRead t2).leaveTo f.x s.curIx .go t2.value, fun t => (after t).afterRead s.cur 0 t2)
    | _, _ => none

/-- LOOP (R142). -/
def execLoop (f : BX) (s : State) : Outcome State Fault Refusal :=
  s.fireBlk f.pr false fun b =>
    some ((b.fire s.curIx 6).leave ⟨f.x.toNat, s.curIx, .loop, b.offTarget f.off, f.off.toInt ≤ 0⟩)

/-- SCALL (R143). -/
def execScall (f : BX) (s : State) : Outcome State Fault Refusal :=
  s.fireBlk f.pr false fun b =>
    some ((b.fire s.curIx 6).leave ⟨f.x.toNat, s.curIx, .scall (f.off.toNat % 4096), 0, false⟩)

/-- TRAP (R143). -/
def execTrap (f : BX) (s : State) : Outcome State Fault Refusal :=
  s.fireBlk f.pr false fun b =>
    some ((b.fire s.curIx 6).leave ⟨f.x.toNat, s.curIx, .trap (f.off.toNat % 4096), 0, false⟩)

/-- ERET reads sq.epc when it fires (R144). -/
def execEret (f : BX) (s : State) : Outcome State Fault Refusal :=
  s.fireBlk f.pr false fun b => some ((b.fire s.curIx 6).leaveTo f.x s.curIx .eret (s.seq s.cur).epc)

end Sys2Proof.Machine
end

