-- ==== Sys2Proof/Machine/IntAlu.lean ====
section
/-! DEFINITION. Moves, integer operations, immediate operations and compares of the control thread
(R47-R50, R120-R125). -/

namespace Sys2Proof.Machine

open Host (Outcome)

/-! ## The results -/

/-- An operation of both widths (R120): on 64 bits, or on bits [31:0] with the result sign-extended. -/
def widths (m : BitVec 3) (f64 : Word → Word → Word) (f32 : BitVec 32 → BitVec 32 → BitVec 32) (a b : Word) :
    Word :=
  if m.getLsbD 0 then (f32 (a.setWidth 32) (b.setWidth 32)).signExtend 64 else f64 a b

/-- The high half of the signed or unsigned product (R121). -/
def mulhOf (n : Nat) (a b : BitVec n) : BitVec n := BitVec.ofInt n (a.toInt * b.toInt / (2 ^ n : Nat))
def mulhuOf (n : Nat) (a b : BitVec n) : BitVec n := BitVec.ofNat n (a.toNat * b.toNat / 2 ^ n)

/-- Division (R122): by zero it gives all ones; the least value by -1 gives that value. -/
def divOf (n : Nat) (a b : BitVec n) : BitVec n := if b = 0 then BitVec.allOnes n else a.sdiv b
def divuOf (n : Nat) (a b : BitVec n) : BitVec n := if b = 0 then BitVec.allOnes n else a.udiv b
/-- Remainder (R122): by zero it gives the dividend, and otherwise takes the dividend's sign. -/
def remOf (n : Nat) (a b : BitVec n) : BitVec n := if b = 0 then a else a.srem b
def remuOf (n : Nat) (a b : BitVec n) : BitVec n := if b = 0 then a else a.umod b

/-- A shift count: r[5:0], or r[4:0] on 32 bits (R120). -/
def countOf (n : Nat) (b : BitVec n) : Nat := b.toNat % n

def shlOf (n : Nat) (a b : BitVec n) : BitVec n := a <<< countOf n b
def shrOf (n : Nat) (a b : BitVec n) : BitVec n := a >>> countOf n b
def sraOf (n : Nat) (a b : BitVec n) : BitVec n := a.sshiftRight (countOf n b)
def rolOf (n : Nat) (a b : BitVec n) : BitVec n := a.rotateLeft (countOf n b)
def minOf (n : Nat) (a b : BitVec n) : BitVec n := if a.slt b then a else b
def maxOf (n : Nat) (a b : BitVec n) : BitVec n := if a.slt b then b else a
def minuOf (n : Nat) (a b : BitVec n) : BitVec n := if a.ult b then a else b
def maxuOf (n : Nat) (a b : BitVec n) : BitVec n := if a.ult b then b else a

/-- Leading zeros and set bits of a number of n bits (R123). -/
def clzNat (n v : Nat) : Nat := if v = 0 then n else n - 1 - v.log2
def popNat : Nat → Nat → Nat
  | 0, _ => 0
  | n + 1, v => v % 2 + popNat n (v / 2)

/-- CLZ and POPC of both widths (R120, R123). -/
def clzOf (m : BitVec 3) (a : Word) : Word :=
  if m.getLsbD 0 then wd (clzNat 32 (a.toNat % 2 ^ 32)) else wd (clzNat 64 a.toNat)
def popcOf (m : BitVec 3) (a : Word) : Word :=
  if m.getLsbD 0 then wd (popNat 32 (a.toNat % 2 ^ 32)) else wd (popNat 64 a.toNat)

/-- EXT in the mode M gives (R17, R123). -/
def extOf (m : BitVec 3) (a : Word) : Word :=
  match m.toNat with
  | 0 => (a.setWidth 8).signExtend 64
  | 1 => (a.setWidth 16).signExtend 64
  | 2 => (a.setWidth 32).signExtend 64
  | 3 => (a.setWidth 8).setWidth 64
  | 4 => (a.setWidth 16).setWidth 64
  | _ => (a.setWidth 32).setWidth 64

/-- A truth value as a compare delivers it (R125). -/
def truth (b : Bool) : Word := if b then 1 else 0

/-- A compare of both widths (R125). -/
def compares (m : BitVec 3) (f64 : Word → Word → Bool) (f32 : BitVec 32 → BitVec 32 → Bool) (a b : Word) : Word :=
  truth (if m.getLsbD 0 then f32 (a.setWidth 32) (b.setWidth 32) else f64 a b)

/-- MOVHI (R50). -/
def movhiOf (imm : BitVec 12) (a : Word) : Word := a <<< 12 ||| imm.setWidth 64

/-- A two-operand integer operation of class 0 or 1 fires (R120, R131). -/
def State.alu2 (s : State) (f : T2) (cls : Nat) (f64 : Word → Word → Word)
    (f32 : BitVec 32 → BitVec 32 → BitVec 32) : Outcome State Fault Refusal :=
  s.fire2 f.pr f.a cls [f.t1, f.t2] (widths f.m f64 f32)

/-- A two-operand compare fires (R125). -/
def State.cmp2 (s : State) (f : T2) (f64 : Word → Word → Bool) (f32 : BitVec 32 → BitVec 32 → Bool) :
    Outcome State Fault Refusal :=
  s.fire2 f.pr f.a 0 [f.t1, f.t2] (compares f.m f64 f32)

/-- An immediate operation fires (R124). -/
def State.aluI (s : State) (f : TI) (cls : Nat) (g : Word → Word) : Outcome State Fault Refusal :=
  s.fire1 f.pr f.a cls [f.t1] g

/-! ## Moving values (R47-R50) -/

/-- The registers of fired WRGs whose values exist only once the block has committed (R271). -/
def Blk.lateRegs (b : Blk) : List Nat :=
  b.mem.flatMap (fun m => match m.eff with
    | .amo _ _ _ _ _ _ ixs _ => b.wrgRegs ixs
    | _ => []) ++
  b.effs.flatMap fun e => match e.2 with
    | .bar _ ixs => b.wrgRegs ixs
    | .flag _ _ ixs => b.wrgRegs ixs
    | _ => []

/-- What RDG of gN reads (R47, R171): the value the last committed block left, or, in a run-ahead block, what the
youngest older block that writes gN has ready; none while that block's WRG has not fired. -/
def Seq.readReg (x : Seq) (blk g : Nat) : Option Word :=
  let older := (x.blocks.take blk).reverse.filter fun b => b.wmask.getLsbD g
  older.foldl (fun found b =>
    match found with
    | some (some w) => some (some w)
    | some none => some none
    | none =>
      match b.regs.find? g with
      | some (.word w) => some (some w)
      | some .null => if b.lateRegs.contains g then some none else none
      | none => some none) none |>.getD (some (x.reg g))

/-- RDG (R47). -/
def execRdg (f : RD) (s : State) : Outcome State Fault Refusal :=
  s.fireBlk .always true fun b =>
    match (s.seq s.cur).readReg s.curBlk f.g.toNat with
    | some v => some ((b.fire s.curIx 0).deliver [f.t1, f.t2] (.word v))
    | none => none

/-- A WRG that may fire in a run-ahead block: unpredicated, its value from an RDG or an access-slice instruction
(R171). -/
def Blk.wrgAhead (b : Blk) (ix : Nat) (pr : Pr) : Bool :=
  pr == .always && (List.range b.words.length).any fun k =>
    match b.instr k with
    | some (.rdg f) => f.t1.toNat == ix * 4 || f.t2.toNat == ix * 4
    | some (.movi f) => f.a && f.t1.toNat == ix * 4
    | some (.sysr f) => f.a && f.t1.toNat == ix * 4
    | some (.ld f) | some (.lds f) => f.a && f.t1.toNat == ix * 4
    | some (.mov f) | some (.add f) | some (.sub f) | some (.mul f) | some (.mulh f) | some (.mulhu f)
    | some (.div f) | some (.divu f) | some (.rem f) | some (.remu f) | some (.and f) | some (.or f)
    | some (.xor f) | some (.shl f) | some (.shr f) | some (.sra f) | some (.rol f) | some (.min f)
    | some (.max f) | some (.minu f) | some (.maxu f) | some (.clz f) | some (.popc f) | some (.ext f)
    | some (.teq f) | some (.tne f) | some (.tlt f) | some (.tltu f) | some (.tle f) | some (.tleu f)
    | some (.tgt f) | some (.tgtu f) | some (.tge f) | some (.tgeu f) | some (.fadd f) | some (.fsub f)
    | some (.fmul f) | some (.fdiv f) | some (.fma f) | some (.fmin f) | some (.fmax f) | some (.fcvt f)
    | some (.fteq f) | some (.ftlt f) | some (.ftle f) | some (.fsqrt f) =>
      f.a && (f.t1.toNat == ix * 4 || f.t2.toNat == ix * 4)
    | some (.movhi f) | some (.addi f) | some (.andi f) | some (.ori f) | some (.xori f) | some (.shli f)
    | some (.shri f) | some (.srai f) | some (.muli f) | some (.teqi f) | some (.tnei f) | some (.tlti f)
    | some (.tgei f) => f.a && f.t1.toNat == ix * 4
    | _ => false

/-- WRG (R48): it holds its value until commit; a second WRG that fires for one register raises ILLINS (R19). -/
def execWrg (f : WR) (s : State) : Outcome State Fault Refusal :=
  let ahead := match s.blk s.cur s.curBlk with
    | some b => b.wrgAhead s.curIx f.pr
    | none => false
  s.fireBlk f.pr ahead fun b =>
    match b.slot s.curIx slotL with
    | some v =>
      let b := b.fire s.curIx 0
      if b.regs.has f.g.toNat then some (b.raise s.curIx causeILLINS (wd s.curIx))
      else some { b with regs := b.regs.put f.g.toNat v }
    | none => none

/-- NULL (R49). -/
def execNull (f : TB) (s : State) : Outcome State Fault Refusal :=
  s.fireBlk f.pr false fun b => some ((b.fire s.curIx 0).deliver [f.t1, f.t2] .null)

def execMov (f : T2) (s : State) : Outcome State Fault Refusal := s.fire1 f.pr f.a 0 [f.t1, f.t2] id

/-- MOVI (R50). -/
def execMovi (f : TI) (s : State) : Outcome State Fault Refusal :=
  s.fireBlk f.pr f.a fun b => some ((b.fire s.curIx 0).deliver [f.t1] (.word (imm12 f.imm)))

def execMovhi (f : TI) (s : State) : Outcome State Fault Refusal := s.aluI f 0 (movhiOf f.imm)

/-! ## Integer operations (R120-R124) -/

def execAdd (f : T2) (s : State) : Outcome State Fault Refusal := s.alu2 f 0 (· + ·) (· + ·)
def execSub (f : T2) (s : State) : Outcome State Fault Refusal := s.alu2 f 0 (· - ·) (· - ·)
def execMul (f : T2) (s : State) : Outcome State Fault Refusal := s.alu2 f 1 (· * ·) (· * ·)
def execMulh (f : T2) (s : State) : Outcome State Fault Refusal := s.alu2 f 1 (mulhOf 64) (mulhOf 32)
def execMulhu (f : T2) (s : State) : Outcome State Fault Refusal := s.alu2 f 1 (mulhuOf 64) (mulhuOf 32)
def execDiv (f : T2) (s : State) : Outcome State Fault Refusal := s.alu2 f 1 (divOf 64) (divOf 32)
def execDivu (f : T2) (s : State) : Outcome State Fault Refusal := s.alu2 f 1 (divuOf 64) (divuOf 32)
def execRem (f : T2) (s : State) : Outcome State Fault Refusal := s.alu2 f 1 (remOf 64) (remOf 32)
def execRemu (f : T2) (s : State) : Outcome State Fault Refusal := s.alu2 f 1 (remuOf 64) (remuOf 32)
def execAnd (f : T2) (s : State) : Outcome State Fault Refusal := s.alu2 f 0 (· &&& ·) (· &&& ·)
def execOr (f : T2) (s : State) : Outcome State Fault Refusal := s.alu2 f 0 (· ||| ·) (· ||| ·)
def execXor (f : T2) (s : State) : Outcome State Fault Refusal := s.alu2 f 0 (· ^^^ ·) (· ^^^ ·)
def execShl (f : T2) (s : State) : Outcome State Fault Refusal := s.alu2 f 0 (shlOf 64) (shlOf 32)
def execShr (f : T2) (s : State) : Outcome State Fault Refusal := s.alu2 f 0 (shrOf 64) (shrOf 32)
def execSra (f : T2) (s : State) : Outcome State Fault Refusal := s.alu2 f 0 (sraOf 64) (sraOf 32)
def execRol (f : T2) (s : State) : Outcome State Fault Refusal := s.alu2 f 0 (rolOf 64) (rolOf 32)
def execMin (f : T2) (s : State) : Outcome State Fault Refusal := s.alu2 f 0 (minOf 64) (minOf 32)
def execMax (f : T2) (s : State) : Outcome State Fault Refusal := s.alu2 f 0 (maxOf 64) (maxOf 32)
def execMinu (f : T2) (s : State) : Outcome State Fault Refusal := s.alu2 f 0 (minuOf 64) (minuOf 32)
def execMaxu (f : T2) (s : State) : Outcome State Fault Refusal := s.alu2 f 0 (maxuOf 64) (maxuOf 32)
def execClz (f : T2) (s : State) : Outcome State Fault Refusal := s.fire1 f.pr f.a 0 [f.t1, f.t2] (clzOf f.m)
def execPopc (f : T2) (s : State) : Outcome State Fault Refusal := s.fire1 f.pr f.a 0 [f.t1, f.t2] (popcOf f.m)
def execExt (f : T2) (s : State) : Outcome State Fault Refusal := s.fire1 f.pr f.a 0 [f.t1, f.t2] (extOf f.m)

def execAddi (f : TI) (s : State) : Outcome State Fault Refusal := s.aluI f 0 (· + imm12 f.imm)
def execAndi (f : TI) (s : State) : Outcome State Fault Refusal := s.aluI f 0 (· &&& imm12 f.imm)
def execOri (f : TI) (s : State) : Outcome State Fault Refusal := s.aluI f 0 (· ||| imm12 f.imm)
def execXori (f : TI) (s : State) : Outcome State Fault Refusal := s.aluI f 0 (· ^^^ imm12 f.imm)
def execShli (f : TI) (s : State) : Outcome State Fault Refusal := s.aluI f 0 (· <<< (f.imm.toNat % 64))
def execShri (f : TI) (s : State) : Outcome State Fault Refusal := s.aluI f 0 (· >>> (f.imm.toNat % 64))
def execSrai (f : TI) (s : State) : Outcome State Fault Refusal :=
  s.aluI f 0 fun a => a.sshiftRight (f.imm.toNat % 64)
def execMuli (f : TI) (s : State) : Outcome State Fault Refusal := s.aluI f 1 (· * imm12 f.imm)

/-! ## Compares (R125) -/

def execTeq (f : T2) (s : State) : Outcome State Fault Refusal := s.cmp2 f (· == ·) (· == ·)
def execTne (f : T2) (s : State) : Outcome State Fault Refusal := s.cmp2 f (· != ·) (· != ·)
def execTlt (f : T2) (s : State) : Outcome State Fault Refusal := s.cmp2 f BitVec.slt BitVec.slt
def execTltu (f : T2) (s : State) : Outcome State Fault Refusal := s.cmp2 f BitVec.ult BitVec.ult
def execTle (f : T2) (s : State) : Outcome State Fault Refusal := s.cmp2 f BitVec.sle BitVec.sle
def execTleu (f : T2) (s : State) : Outcome State Fault Refusal := s.cmp2 f BitVec.ule BitVec.ule
def execTgt (f : T2) (s : State) : Outcome State Fault Refusal :=
  s.cmp2 f (fun a b => b.slt a) (fun a b => b.slt a)
def execTgtu (f : T2) (s : State) : Outcome State Fault Refusal :=
  s.cmp2 f (fun a b => b.ult a) (fun a b => b.ult a)
def execTge (f : T2) (s : State) : Outcome State Fault Refusal :=
  s.cmp2 f (fun a b => b.sle a) (fun a b => b.sle a)
def execTgeu (f : T2) (s : State) : Outcome State Fault Refusal :=
  s.cmp2 f (fun a b => b.ule a) (fun a b => b.ule a)
def execTeqi (f : TI) (s : State) : Outcome State Fault Refusal := s.aluI f 0 fun a => truth (a == imm12 f.imm)
def execTnei (f : TI) (s : State) : Outcome State Fault Refusal := s.aluI f 0 fun a => truth (a != imm12 f.imm)
def execTlti (f : TI) (s : State) : Outcome State Fault Refusal := s.aluI f 0 fun a => truth (a.slt (imm12 f.imm))
def execTgei (f : TI) (s : State) : Outcome State Fault Refusal :=
  s.aluI f 0 fun a => truth ((imm12 f.imm).sle a)

end Sys2Proof.Machine
end

