-- ==== Sys2Proof/Machine/Block.lean ====
section
/-! DEFINITION. The life of a block: fetch, decode, resolution, commit, timeout and run-ahead, and DBGHALT (R11-R19,
R112, R140-R143, R146, R151-R172, R358, R402). -/

namespace Sys2Proof.Machine

open Host (Outcome)

/-! ## Fetch (R153) -/

/-- What a fetch of some bytes meets: an entry awaited, a trap with the address of the first failing line, or the
bytes and the lines of physical memory they come from. -/
inductive Fetched where
  | wait
  | fail (cause : BitVec 8) (line : Word)
  | ok (bs : List Byte) (lines : List Nat)

/-- A run of bytes cut into 64-byte lines. -/
def linesOf (va : Nat) : Nat → Nat → List (Nat × Nat)
  | 0, _ => []
  | f + 1, n =>
    let k := 64 - va % 64
    if n = 0 then [] else if n ≤ k then [(va, n)] else (va, k) :: linesOf (va + k) f (n - k)

/-- Lines are fetched in order. -/
def State.fetchLines (s : State) (q : Nat) : List (Nat × Nat) → Fetched
  | [] => .ok [] []
  | (va, n) :: rest =>
    let line := wd (va / 64 * 64)
    match s.seqTranslate q .fetch va with
    | .error e => .fail e.cause line
    | .ok pa =>
      match s.checkPhys false va pa n with
      | .error .wait => .wait
      | .error (.fail e _) => .fail e.cause line
      | .ok _ =>
        match s.fetchLines q rest with
        | .ok bs ls => .ok (s.load pa n ++ bs) (linesMet pa n ++ ls)
        | r => r

/-- n bytes are fetched from an address on. -/
def State.fetch (s : State) (q va n : Nat) : Fetched := s.fetchLines q (linesOf va (n / 64 + 2) n)

/-- N of a block's header (R11). Log entry 50 (DEDUCED). -/
def headerCount (h : BitVec 128) : Nat := field h.toNat 14 8 + 1

/-- A block as it stands in memory: header and words (R11, R12). -/
inductive FetchedBlock where
  | wait
  | fail (cause : BitVec 8) (line : Word)
  | ok (k : Copy)

/-- A block is read from memory, its header first, then its words (R153). Log entry 50 (DEDUCED). -/
def State.fetchBlock (s : State) (q : Nat) (a : Word) : FetchedBlock :=
  match s.fetch q a.toNat 16 with
  | .wait => .wait
  | .fail c l => .fail c l
  | .ok hb l1 =>
    let h := BitVec.ofNat 128 (numOf hb)
    match s.fetch q (a.toNat + 16) (4 * headerCount h) with
    | .wait => .wait
    | .fail c l => .fail c l
    | .ok bs l2 =>
      .ok ⟨a, h, (chunks 4 bs).map fun c => BitVec.ofNat 32 (numOf c), s.stamps (l1 ++ l2).eraseDups⟩

/-- An uncorrectable error of a committed atomic is taken before the next block (R402). Log entry 49 (DEDUCED). -/
def Seq.takeEccu (x : Seq) : Seq :=
  match x.eccu, x.cond with
  | some v, .fetch e | some v, .held e => { x with eccu := none }.enterTrap causeECCU e v
  | some v, .decode k => { x with eccu := none }.enterTrap causeECCU k.addr v
  | _, _ => x

/-- The body that the loop buffer of a sequencer holds: none once a write has reached one of its lines (R155, R169).
Log entry 48 (DEDUCED). -/
def State.captured (s : State) (q : Nat) : List Copy :=
  if (s.seq q).lbuf.all fun k => s.fresh k.lines then (s.seq q).lbuf else []

/-- The next block may start: nothing holds the sequencer (R112, R281, R400). Log entry 54 (DEDUCED). -/
def State.mayStart (s : State) (q : Nat) : Bool :=
  (s.seq q).awaits.isEmpty && !(q = service && s.tap.halt)

/-- What the fetch of a block reads is counted where no cache serves it (R153, R395): of any stack, as a block may lie in
two lines. Log entry 60 (DEDUCED). -/
def State.countFetch (s : State) (q a : Nat) : State :=
  match s.seqTranslate q .fetch a with
  | .ok pa => if inHbm pa then s.countBehind (List.range 8) a else s.countCached q a pa
  | .error _ => s.countSeqWalk q a

/-- BLOCK_FETCH (R153): what was held is taken first (R159, R164, R402); then the block starts from the loop buffer
without a fetch (R167), or it is read, or the fetch traps.  What it reads is counted where no cache serves it (R395).
Log entry 50 (DEDUCED). -/
def execBlockFetch (q : Nat) (s : State) : Outcome State Fault Refusal :=
  let s := (s.updSeq q Seq.takeEccu).takeAsync q
  match (s.seq q).cond with
  | .fetch a =>
    if !s.mayStart q then .next s
    else
      match (s.captured q).find? fun k => k.addr == a with
      | some k => .next (s.updSeq q fun x => { x with cond := .decode k })
      | none =>
        match s.fetchBlock q a with
        | .wait => .next s
        | .fail c l => .next ((s.countFetch q a.toNat).updSeq q fun x => x.enterTrap c a l)
        | .ok k => .next ((s.countFetch q a.toNat).updSeq q fun x => { x with cond := .decode k })
  | _ => .next s

/-! ## Decode (R18) -/

/-- An instruction of a format with every field zero, which has the slots of its opcode. -/
def formSample : Form → Instr
  | .rd c => c ⟨0, 0, 0⟩
  | .wr c => c ⟨.always, 0⟩
  | .t2 c => c ⟨false, .always, 0, 0, 0⟩
  | .tb c => c ⟨.always, 0, 0⟩
  | .ti c => c ⟨false, .always, 0, 0⟩
  | .tc c => c ⟨.always, 0, 0⟩
  | .ls c => c ⟨false, .always, 0, 0, 0, 0⟩
  | .st c => c ⟨.always, 0, 0, 0⟩
  | .am c => c ⟨.always, 0, 0, false, 0, 0⟩
  | .fn c => c ⟨0, 0, 0, 0⟩
  | .bx c => c ⟨.always, 0, 0⟩

/-- A word of a format is predicated. -/
def formPredicated (w : BitVec 32) : Form → Bool
  | .rd _ | .fn _ => false
  | .wr _ => w.extractLsb' 22 2 != 0
  | _ => w.extractLsb' 21 2 != 0

/-- A word of a format carries A = 1 (R13). -/
def formAccess (w : BitVec 32) : Form → Bool
  | .rd _ | .fn _ | .wr _ => false
  | _ => bitAt w 23

/-- A word of a listed opcode as the checks of a block see it: its opcode's instruction, the slots it has, its targets,
its A bit, and the instruction it stands for where it passes its own word's checks. -/
structure Raw where
  kind : Instr
  slots : List Nat
  targets : List Nat
  a : Bool
  ins : Option Instr

/-- A word as the checks of a block see it; none for an opcode that is not listed. -/
def rawOf (w : BitVec 32) : Option Raw :=
  (formOf (w.extractLsb' 24 8).toNat).map fun f =>
    { kind := formSample f
      slots := (needsOf (formSample f)).1 ++ if formPredicated w f then [slotP] else []
      targets := ((formTargets w f).filter (· != noTarget)).map (·.toNat)
      a := formAccess w f
      ins := (decode w).toOption }

def isWrg : Instr → Bool
  | .wrg _ => true
  | _ => false

def isRdg : Instr → Bool
  | .rdg _ => true
  | _ => false

/-- The result reaches only a WRG (R49, R271). Log entry 59 (DEDUCED). -/
def wrgOnly : Instr → Bool
  | .null _ | .amoadd _ | .amoswp _ | .amocas _ | .amomin _ | .amomax _ | .amoand _ | .amoor _ | .bar _ | .flgs _
  | .flgc _ => true
  | _ => false

/-- The store id an instruction names. -/
def storeId : Instr → Option Nat
  | .st f | .snul f => some f.lsid.toNat
  | .amoadd f | .amoswp f | .amocas f | .amomin f | .amomax f | .amoand f | .amoor f => some f.lsid.toNat
  | _ => none

/-- The die field of a copy-channel command (R16). -/
def dieField : Instr → Nat
  | .cpch f | .cpst f | .cpab f => f.imm.toNat / 64 % 4
  | _ => 0

/-- A target that the consumer cannot take (R18). -/
def badTarget (raws : List (Option Raw)) (k : Nat) (r : Raw) (t : Nat) : Bool :=
  t / 4 = k ||
    match (raws[t / 4]?).getD none with
    | none => true
    | some c => !c.slots.contains (t % 4) || (wrgOnly r.kind && !(isWrg c.kind && t % 4 = slotL))

/-- The words that name a slot of instruction k. Log entry 59 (DEDUCED). -/
def producers (raws : List (Option Raw)) (k sl : Nat) : List Raw :=
  raws.filterMap fun r => match r with
    | some r => if r.targets.contains (k * 4 + sl) then some r else none
    | none => none

/-- Instruction k fails a check of its own (R18, R146). -/
def failsOwn (raws : List (Option Raw)) (h : Nat) (svc : Bool) (k : Nat) : Bool :=
  match (raws[k]?).getD none with
  | none => true
  | some r =>
    match r.ins with
    | none => true
    | some i =>
      r.targets.any (badTarget raws k r) ||
      r.slots.any (fun sl =>
        (producers raws k sl).isEmpty || (r.a && (producers raws k sl).any fun p => !(p.a || isRdg p.kind))) ||
      (match i with
        | .wrg f => !h.testBit (64 + f.g.toNat)
        | _ => false) ||
      (storeId i).any (fun n => !h.testBit (32 + n)) ||
      (loadId i).any (fun n => h.testBit (32 + n)) ||
      (exitOf i).any (fun x => x > field h 18 16) ||
      (!svc && dieField i != 0)

/-- A failure that no single instruction carries (R18). -/
def failsBlock (is : List Instr) (h : Nat) : Bool :=
  ((List.range 64).any fun g => h.testBit (64 + g) && !is.any fun i => match i with
    | .wrg f => f.g.toNat = g
    | _ => false) ||
  ((List.range 32).any fun n => h.testBit (32 + n) && !is.any fun i => storeId i == some n) ||
  ((List.range (field h 18 16 + 1)).any fun x => !is.any fun i => exitOf i == some x)

/-- The value of sq.tval where a block fails a check of R18; none where it passes them all. -/
def decodeFault (hdr : BitVec 128) (words : List (BitVec 32)) (svc : Bool) : Option Nat :=
  let h := hdr.toNat
  let raws := words.map rawOf
  if field h 7 0 != 0xB5 || h.testBit 15 || field h 31 21 != 0 then some 0xFF
  else if !h.testBit 20 && raws.any (fun r => r.any (·.a)) then some 0xFF
  else
    match (List.range words.length).find? (failsOwn raws h svc) with
    | some k => some k
    | none => if failsBlock (raws.filterMap fun r => r.bind (·.ins)) h then some 0xFF else none

/-- A block that starts. -/
def Blk.fresh (k : Copy) (deadline : Nat) : Blk where
  addr := k.addr
  hdr := k.hdr
  lines := k.lines
  wmask := k.hdr.extractLsb' 64 64
  smask := k.hdr.extractLsb' 32 32
  nexits := field k.hdr.toNat 18 16 + 1
  lc := k.hdr.getLsbD 19
  slice := k.hdr.getLsbD 20
  words := k.words
  deadline := deadline
  slots := []
  arrived := []
  fired := []
  waits := []
  traps := []
  regs := []
  mem := []
  loads := []
  effs := []
  exits := []
  events := []

/-- The copy a block started from. -/
def Blk.copy (b : Blk) : Copy := ⟨b.addr, b.hdr, b.words, b.lines⟩

/-- BLOCK_DECODE (R154): what has come since the fetch is taken first, for the block has not started (R112, R159); then
the whole block is checked, and it starts, or ILLINS is taken. -/
def execBlockDecode (q : Nat) (s : State) : Outcome State Fault Refusal :=
  let s := s.takeAsync q
  match (s.seq q).cond with
  | .decode k =>
    match decodeFault k.hdr k.words (q = service) with
    | some v => .next (s.updSeq q fun x => x.enterTrap causeILLINS k.addr (wd v))
    | none =>
      .next (s.updSeq q fun x => { x with cond := .run, blocks := [Blk.fresh k (s.now + x.btime.toNat)] })
  | _ => .next s

/-! ## Resolution (R156, R157) -/

/-- Nothing of the block is in progress or enabled (R156). -/
def Blk.settled (b : Blk) : Bool := b.firstEnabled.isNone && b.loads.all (·.done)

/-- The words of a context as the CFGWs of a block would leave them in a slot of region q (R288).
Log entry 104 (DEDUCED). -/
def Blk.rewritten (b : Blk) (q slot : Nat) (p : Plan) : Plan := p.map fun rc =>
  if rc.1 = q then
    (q, b.effs.foldl (fun c e => match e.2 with
      | .cfgw k site i v => if k = slot then c.withParam site i v else c
      | _ => c) rc.2)
  else rc

/-- The checks of the contexts that a block's CFGAs and CFGWs would have armed or written (R32, R288): of a CFGA's context
with what the block loads and writes, and of a written context where the block's CFGWs make it one that fails.
Log entry 104 (DEDUCED). -/
def State.rejectsOf (s : State) (q : Nat) (b : Blk) : List TrapCond :=
  b.effs.filterMap fun e => match e.2 with
    | .cfga slot => ((b.rewritten q slot (s.planOf (s.armable b q slot) slot)).slotReject s.sbufs).map fun w =>
        ⟨e.1, causeCFGREJECT, w⟩
    | .cfgw slot _ _ _ =>
      let p := s.planOf (s.contextAt q slot) slot
      ((b.rewritten q slot p).slotReject s.sbufs).bind fun w =>
        if p.slotReject s.sbufs == some w then none else some ⟨e.1, causeCFGREJECT, w⟩
    | _ => none

/-- The trap conditions of a settled block: those raised, and those of its CFGAs and CFGWs (R32, R57, R288). -/
def State.trapsOf (s : State) (q : Nat) (b : Blk) : List TrapCond :=
  b.traps ++ (b.effs.filterMap fun e => match e.2 with
    | .cfga slot => if s.cfgaEmpty b q slot then some ⟨e.1, causeACCESS, wd slot⟩ else none
    | _ => none) ++ s.rejectsOf q b

/-- The rejection records of a resolved block enter its region's log, each once (R32). Log entry 104 (DEDUCED). -/
def State.logRejects (s : State) (q : Nat) (b : Blk) : State :=
  ((s.rejectsOf q b).map (·.tval)).eraseDups.foldl (fun s w => s.log q none 0x0B 0 w 0) s

/-- The condition of the lowest index, the first raised of several. -/
def lowestTrap : List TrapCond → Option TrapCond
  | [] => none
  | t :: ts =>
    match lowestTrap ts with
    | some u => if u.ix < t.ix then some u else some t
    | none => some t

/-- The block is abandoned and a trap is taken with sq.epc = its header (R157, R163). -/
def State.trapBlock (s : State) (q : Nat) (cause : BitVec 8) (a tval : Word) : State :=
  (s.dropMarked q).updSeq q fun x => x.abandon.enterTrap cause a tval

/-- BLOCK_RESOLVE (R157, R161): a settled block with a trap condition is abandoned, if its time has not run out; any other
waits or commits. -/
def execBlockResolve (q : Nat) (s : State) : Outcome State Fault Refusal :=
  match (s.seq q).cond, s.blk q 0 with
  | .run, some b =>
    if !(b.settled && s.now < b.deadline) then .next s
    else
      match lowestTrap (s.trapsOf q b) with
      | some t => .next ((s.logRejects q b).trapBlock q t.cause b.addr t.tval)
      | none => .next s
  | _, _ => .next s

/-- What a block still lacks to commit (R151, R157). -/
def Blk.lacksReg (b : Blk) : Bool := (List.range 64).any fun g => b.wmask.getLsbD g && !b.regs.has g
def Blk.lacksStore (b : Blk) : Bool := (List.range 32).any fun n => b.smask.getLsbD n && !b.stored n

/-- Every commit condition of a settled block holds (R157). -/
def State.ready (s : State) (q : Nat) (b : Blk) : Bool :=
  b.settled && (s.trapsOf q b).isEmpty && b.waits.isEmpty && !b.lacksReg && !b.lacksStore && b.exits.length = 1

/-- The heads a block queues on a channel. -/
def Blk.headsFor (b : Blk) (ch : Nat) : Nat := (b.effs.filter fun e => match e.2 with
  | .cpch c _ => c = ch
  | _ => false).length

/-- The heads that commits of other sequencers under way, which wait in a FENCE, are to queue on a channel (R158, R290).
Log entry 64 (DEDUCED). -/
def State.headsComing (s : State) (q ch : Nat) : Nat :=
  (s.seqs.map fun kq => if kq.1 != q && kq.2.committing then (kq.2.blocks.head?).elim 0 fun b => b.headsFor ch else 0).sum

/-- The queues have room for what a block pushes (R59, R158, R290). Log entry 64 (DEDUCED). -/
def State.roomFor (s : State) (q : Nat) (b : Blk) : Bool :=
  ((List.range 4).all fun k => (b.pushed k).isEmpty ||
    ((s.region q).ing.getD k []).length + (b.pushed k).length ≤ 8) &&
  b.effs.all fun e => match e.2 with
    | .cpch ch _ => (s.chan ch).queue.length + s.headsComing q ch + b.headsFor ch ≤ 4
    | _ => true


/-! ## Commit (R158) -/

/-- Step 1: registers (R48). -/
def Seq.takeRegs (x : Seq) (b : Blk) : Seq :=
  b.regs.foldl (fun x e => match e.2 with
    | .word v => x.setReg e.1 v
    | .null => x) x

/-- What the elements of the context armed in a region have issued and is not yet performed (R276, R277). -/
def State.issued (s : State) (q : Nat) : List Issued :=
  match (s.region q).armed.bind fun cid => (s.ctxs.find? cid).map fun c => (cid, c) with
  | some (cid, c) => (c.elems.filter fun ke => ke.2.readsDue != 0 || ke.2.writesDue != 0).map fun ke =>
      ⟨cid, ke.1, ke.2.wdone + ke.2.writesDue, ke.2.rdone + ke.2.readsDue⟩
  | none => []

/-- An access that an element had issued is in a class of a mask and is not yet performed (R276, R277). -/
def State.unperformed (s : State) (pred : BitVec 8) (i : Issued) : Bool :=
  match (s.ctxs.find? i.ctx).bind fun c => (c.elems.find? i.elem).map fun el => (c, el) with
  | some (c, el) =>
    (pred.getLsbD (c.writeClass i.elem el.cfg) && el.cfg.writesMem && el.wdone < i.writes) ||
      (pred.getLsbD (c.readClass i.elem el.cfg) && el.cfg.readsMem && el.rdone < i.reads)
  | none => false

/-- Step 2 (R158): the effects on memory in order of position.  A FENCE whose predecessors are not all performed holds
the rest back (R277). Log entries 4 (DEDUCED), 45 (DEDUCED). -/
def State.commitMem (s : State) (q : Nat) (b : Blk) (began : List Issued) : List MemOp → State × List MemOp
  | [] => (s, [])
  | m :: rest =>
    match m.eff with
    | .fence _ pred _ => if began.any (s.unperformed pred) then (s, m :: rest) else s.commitMem q b began rest
    | _ => (s.performMem q b m).commitMem q b began rest

/-- Effects in order of instruction. -/
def insertEff (e : Nat × Eff) : List (Nat × Eff) → List (Nat × Eff)
  | [] => [e]
  | f :: t => if e.1 < f.1 then e :: f :: t else f :: insertEff e t

def sortEffs (l : List (Nat × Eff)) : List (Nat × Eff) := l.foldr insertEff []

/-- Step 3: port-node queues (R59, R60), whose transfers are movements (R114). -/
def State.commitQueues (s : State) (q : Nat) (b : Blk) (effs : List Eff) : State :=
  let moves := (List.range 4).any (fun k => b.popped k != 0) || effs.any fun e => match e with
    | .spush _ _ | .inj _ _ => true
    | _ => false
  let s := if moves then s.moved q else s
  let s := s.updRegion q fun x => { x with egr := queueTab fun k => (x.egr.getD k []).drop (b.popped k) }
  effs.foldl (fun s e => match e with
    | .spush k v => s.updRegion q fun x => { x with ing := x.ing.put k (x.ing.getD k [] ++ [(false, v)]) }
    | .inj k h => s.updRegion q fun x => { x with ing := x.ing.put k (x.ing.getD k [] ++ [(true, h)]) }
    | _ => s) s

/-- Step 4: fabric commands, in the order marks, CFGW, CFGA and DRAIN, TCNT (R57, R58, R226, R288). -/
def State.commitFabric (s : State) (q : Nat) (b : Blk) (effs : List Eff) : State :=
  let s := b.cfglSlots.foldl (fun s p => s.updRegion p.1 fun x =>
    match x.slots.find? p.2 with
    | some c => { x with slots := x.slots.put p.2 { c with marked := false } }
    | none => x) s
  let s := effs.foldl (fun s e => match e with
    | .cfgw slot site p v => s.commitCfgw q slot site p v
    | _ => s) s
  let s := effs.foldl (fun s e => match e with
    | .cfga slot => s.commitCfga q slot
    | .drain => s.commitDrain q
    | _ => s) s
  effs.foldl (fun s e => match e with
    | .tcnt site n => s.commitTcnt q site n
    | _ => s) s

/-- No BAR of a lower instruction has fired in a block. Log entry 54 (DEDUCED). -/
def Blk.firstBar (b : Blk) (ix : Nat) : Bool := !b.effs.any fun e => e.1 < ix && match e.2 with
  | .bar _ _ => true
  | _ => false

/-- One effect of step 5, with its instruction (R271, R281, R283, R286, R287, R290). -/
def State.commitSync (s : State) (q : Nat) (b : Blk) (e : Nat × Eff) : State :=
  match e.2 with
  | .bar h ixs =>
    let regs := b.wrgRegs ixs
    { s with arrivals := s.arrivals ++ [(⟨h, q, regs, b.firstBar e.1⟩ : Arrival)] }.updSeq q fun x => { x with awaits := x.awaits ++ regs }
  | .flag f v ixs =>
    let old : Word := if s.flag f then 1 else 0
    (s.setFlag f v).updSeq q fun x => (b.wrgRegs ixs).foldl (fun x g => x.setReg g old) x
  | .tagf t => s.updSeq q fun x => { x with tres := x.tres ||| (1 <<< t) }
  | .tagc m =>
    (s.updRegion q fun x => { x with tags := x.tags &&& ~~~ m }).updSeq q fun x => { x with tres := x.tres &&& ~~~ m }
  | .depd t n => s.lowerLogged q t n
  | .depr t n => s.setCount q t n
  | .cpch ch a => s.commitCpch q ch a
  | .cpst ch => s.commitCpst ch
  | .cpab ch => s.commitCpab ch
  | _ => s

/-- Step 6: system registers, then TM (R53, R165), which an ERET clears whatever a SYSW of its block has made it.
Log entry 100 (DEDUCED). -/
def State.commitRegs (s : State) (q : Nat) (effs : List Eff) (e : Exit) : State :=
  let s := effs.foldl (fun s f => match f with
    | .sysw id v => s.writeReg q id v
    | _ => s) s
  if e.kind == .eret then s.updSeq q Seq.leaveTrap else s

/-- Where an exit leads: a RET to the newest entry, as the SYSWs of its block have left it (R138, R158).
Log entry 96 (DEDUCED). -/
def Seq.exitTarget (x : Seq) (e : Exit) : Word :=
  match e.kind with
  | .ret => x.ras.headD e.target
  | _ => e.target

/-- Step 7: the return-address store, and the delivered bits of the latch (R138, R145). Log entry 96 (DEDUCED). -/
def Seq.commitStore (x : Seq) (b : Blk) (e : Exit) : Seq :=
  let ras := match e.kind with
    | .call => (b.fallThrough :: x.ras).take 32
    | .ret => x.ras.drop 1
    | _ => x.ras
  let bits := match x.blocks with
    | c :: _ => c.effs.foldl (fun (m : BitVec 12) f => match f.2 with
        | .waited k => m ||| k
        | _ => m) 0
    | [] => 0
  { x with ras := ras, latch := x.latch &&& ~~~ bits }

/-- The committed blocks from the most recent start of a block on (R168). Log entry 48 (DEDUCED). -/
def loopBody (t : Word) : List Copy → Option (List Copy)
  | [] => none
  | r :: rest => if r.addr == t then some [r] else (loopBody t rest).map (r :: ·)

/-- The loop buffer and the record of committed blocks after a block (R168, R169): a body is captured, or released by
an exit that leaves it. Log entry 48 (DEDUCED). -/
def State.loopAfter (s : State) (q : Nat) (b : Blk) (e : Exit) (next : Word) : State :=
  s.updSeq q fun x =>
    let recent := (b.copy :: x.recent.filter fun r => r.addr != b.addr).take 9
    let x := { x with recent := recent }
    let body := if e.kind == .loop && e.back && x.lben then
        match loopBody next recent with
        | some l => if l.length ≤ 8 && l.all (·.hdr.getLsbD 19) then some l else none
        | none => none
      else none
    match body with
    | some l => { x with lbuf := l }
    | none => if x.lbuf.any fun r => r.addr == next then x else { x with lbuf := [] }

/-- A stage of the task whose control thread a sequencer is has ended (R353). -/
def State.stageHalts (s : State) (q : Nat) : State :=
  match s.taskOf q with
  | none => s
  | some t => s.updTask t fun x => { x with stages := x.stages.map fun (g : Stage) =>
      if g.thread && g.regions.head? == some q then { g with ended := true } else g }

/-- A halt (R54, R358): the sequencer keeps the resume address; a yield within a grace is saved at once.  The committed
block, whose events are counted (R382), is over. -/
def State.haltAt (s : State) (q : Nat) (next : Word) (eret : Bool) : State :=
  let s := s.updSeq q fun x => { x with lbuf := [], recent := [], blocks := x.blocks.drop 1 }
  match (if eret then (s.anchorTask q).filter fun t => (s.task t).grace.isSome else none) with
  | some t => (s.updSeq q fun x => { x.dropAhead 0 with cond := .fetch next }).startSave t
  | none => (s.updSeq q fun x => { x.dropAhead 0 with cond := .halted next }).stageHalts q

/-- The run-ahead block that becomes the oldest: it is the next block, its copy has not been discarded, and nothing is to
happen before it starts (R155, R159, R170). Log entry 47 (DEDUCED). -/
def State.promotable (s : State) (q : Nat) (rest : List Blk) (next : Word) : Bool :=
  match rest with
  | b :: _ => b.addr == next && s.fresh b.lines && s.mayStart q && !(s.seq q).waitDrain && (s.seq q).eccu.isNone &&
      (s.seq q).asyncHang.isNone && (s.seq q).asyncPreempt.isNone && (s.seq q).asyncDbg.isEmpty
  | [] => false

/-- The target of an exit is next (R170). -/
def Seq.predicts (x : Seq) (a t : Word) : Seq :=
  { x with predict := ((a, t) :: x.predict.filter fun e => e.1 != a).take 64 }

/-- The block at next starts, held while a DRAIN is under way (R58). -/
def State.goOn (s : State) (q : Nat) (drained : Bool) (next : Word) : State :=
  let rest := (s.seq q).blocks.drop 1
  if s.promotable q rest next then
    s.updSeq q fun x => { x with
      cond := .run
      blocks := match rest with
        | c :: t => { c with deadline := s.now + x.btime.toNat } :: t
        | [] => [] }
  else
    let hold (x : Seq) : Bool := x.waitDrain && (drained || !x.tm)
    let s := s.updSeq q fun x =>
      { { x with blocks := rest }.dropAhead 0 with cond := if hold x then .held next else .fetch next }
    (s.updSeq q Seq.takeEccu).takeAsync q

/-- A trap that follows the commit (R143). Log entry 49 (DEDUCED). -/
def State.trapAfter (s : State) (q : Nat) (b : Blk) (drained : Bool) (cause : BitVec 8) (n : Nat) : State :=
  let s := s.updSeq q fun x => { x with blocks := x.blocks.drop 1 }.enterTrap cause b.fallThrough (wd n)
  s.updSeq q fun x => match x.cond with
    | .fetch a => if drained && x.waitDrain then { x with cond := .held a } else x
    | _ => x

/-- Step 8: the next block, a capture, a halt or a trap (R140, R158). -/
def State.commitExit (s : State) (q : Nat) (b : Blk) (halts drained : Bool) (e : Exit) : State :=
  match e.kind with
  | .scall n => s.trapAfter q b drained causeSCALL n
  | .trap n => s.trapAfter q b drained causeTRAPI n
  | k =>
    let s := (s.updSeq q fun x => x.predicts b.addr e.target).loopAfter q b e e.target
    if halts then s.haltAt q e.target (k == .eret) else s.goOn q drained e.target

/-- Steps 3 to 8 of the commit of a block that leaves by an exit (R158). Log entry 49 (DEDUCED). -/
def State.commitRest (s : State) (q : Nat) (b : Blk) (e : Exit) : State :=
  let effs := (sortEffs b.effs).map (·.2)
  let s := if q = service then s else (s.commitQueues q b effs).commitFabric q b effs
  let s := (sortEffs b.effs).foldl (fun s f => s.commitSync q b f) s
  let s := s.updSeq q fun x => x.countEvents b.events
  let s := s.commitRegs q effs e
  let e := { e with target := (s.seq q).exitTarget e }
  let s := s.updSeq q fun x => x.commitStore b e
  (s.commitExit q b (effs.any fun f => f == .halt) (effs.any fun f => f == .drain) e).afterCommit q

/-- The commit goes on from some effects on memory: to its end, or to a FENCE that is not complete (R158, R277). -/
def State.commitOn (s : State) (q : Nat) (b : Blk) (e : Exit) (began : List Issued) (ms : List MemOp) : State :=
  match s.commitMem q b began ms with
  | (s, []) => s.commitRest q b e
  | (s, rest) => s.updSeq q fun x => { x with cond := .commit rest began }

/-- The commit of a block begins: step 1, and the BUFW entries that its loads have read are emptied (R158, R299). -/
def State.commitBlock (s : State) (q : Nat) (b : Blk) (e : Exit) : State :=
  let began := s.issued q
  let s := s.updSeq q fun x => x.takeRegs b
  (b.loads.foldl (fun s l => s.emptyEntry l.pa.toNat l.n) s).commitOn q b e began (sortMem b.mem)

/-- BLOCK_COMMIT (R158, R161): a block whose conditions hold commits once the queues have room, if its time has not run
out; a commit that waits in a FENCE goes on. Log entry 45 (DEDUCED). -/
def execBlockCommit (q : Nat) (s : State) : Outcome State Fault Refusal :=
  match (s.seq q).cond, s.blk q 0 with
  | .run, some b =>
    if !(s.ready q b && s.roomFor q b && s.now < b.deadline) then .next s
    else
      match b.exits with
      | [e] => .next (s.commitBlock q b e)
      | _ => .next s
  | .commit ms began, some b =>
    match b.exits with
    | [e] => .next ((s.updSeq q fun x => { x with cond := .run }).commitOn q b e began ms)
    | _ => .next s
  | _, _ => .next s

/-! ## The block timeout (R161) -/

/-- What sq.tval reports of a block that has timed out (R151). -/
def Blk.lacks (b : Blk) : Word :=
  wd (satTo 128 b.fired.length * 2 ^ 8 + bitOf (!b.waits.isEmpty) 3 + bitOf b.lacksStore 2 + bitOf b.lacksReg 1 +
    bitOf (!b.fired.any fun k => (b.instr k).any fun i => (exitOf i).isSome) 0)

/-- BLKHANG (R161): a block whose time has run out before its commit begins or it resolves to a trap is abandoned.
Log entry 74 (DESIGN CHOICE). -/
def execBlkhang (q : Nat) (s : State) : Outcome State Fault Refusal :=
  match (s.seq q).cond, s.blk q 0 with
  | .run, some b =>
    if s.now < b.deadline then .next s
    else .next (s.trapBlock q causeBLKHANG b.addr b.lacks)
  | _, _ => .next s

/-! ## Run-ahead (R170) -/

/-- Run-ahead stops at a block that holds one of these. -/
def stopsAhead : Instr → Bool
  | .scall _ | .trap _ | .eret _ | .halt _ => true
  | _ => false

/-- The instructions of a block. -/
def Blk.instrs (b : Blk) : List Instr := (List.range b.words.length).filterMap b.instr

/-- Where exit x0 of a block leads, where that is fixed by the block or the return-address store. -/
def Blk.firstExit (b : Blk) (ras : List Word) : Option Word :=
  b.instrs.findSome? fun i => match i with
    | .br f | .loop f | .call f => if f.x = 0 then some (b.offTarget f.off) else none
    | .ret f => if f.x = 0 then ras.head? else none
    | _ => none

/-- The block predicted after one (R170). Log entry 47 (DEDUCED). -/
def Seq.predicted (x : Seq) (b : Blk) : Option Word :=
  if b.instrs.any stopsAhead then none
  else
    match x.predict.find? fun e => e.1 == b.addr with
    | some e => some e.2
    | none => b.firstExit x.ras

/-- RUNAHEAD_BLOCK_START (R170): a predicted block with AS = 1 that passes its checks starts behind the youngest.
Log entry 47 (DEDUCED). -/
def execRunaheadBlockStart (q : Nat) (s : State) : Outcome State Fault Refusal :=
  let x := s.seq q
  match x.cond, x.blocks.getLast? with
  | .run, some b =>
    if !x.raen || x.blocks.length > 4 then .next s
    else
      match x.predicted b with
      | none => .next s
      | some a =>
        match s.fetchBlock q a with
        | .ok k =>
          if (decodeFault k.hdr k.words (q = service)).isSome || !k.hdr.getLsbD 20 then .next s
          else .next ((s.countFetch q a.toNat).updSeq q fun x => { x with blocks := x.blocks ++ [Blk.fresh k (s.now + x.btime.toNat)] })
        | _ => .next s
  | _, _ => .next s

/-! ## Debug halts (R112) -/

/-- DBGHALT (R112, R164): a held DBGHALT is taken between blocks, where nothing of higher precedence is held. -/
def execDbghalt (q : Nat) (s : State) : Outcome State Fault Refusal :=
  if (s.seq q).asyncDbg.isEmpty || (s.seq q).cond == .run then .next s else .next (s.takeAsync q)

end Sys2Proof.Machine
end

