-- ==== Sys2Proof/Machine/Float.lean ====
section
/-! DEFINITION. Floating-point operations of the control thread (R126-R130). -/

namespace Sys2Proof.Machine

open Host (Outcome)

/-- The format that M[0] names (R126). -/
def fpFmt (m : BitVec 3) : Nat := if m.getLsbD 0 then fmtF64 else fmtF32

/-- A word read as an operand of a format: F32 patterns from bits [31:0] (R126). -/
def fpIn (fmt : Nat) (w : Word) : ExactVal := valueOf fmt (w.toNat % 2 ^ fmtBits fmt)

/-- A value rounded to nearest even and delivered zero-extended (R126). -/
def fpOut (fmt : Nat) (v : ExactVal) : Word := wd (roundTo fmt .rne v)

def fp2 (g : ExactVal → ExactVal → ExactVal) (m : BitVec 3) (a b : Word) : Word :=
  fpOut (fpFmt m) (g (fpIn (fpFmt m) a) (fpIn (fpFmt m) b))

def fmaOf (m : BitVec 3) (a b c : Word) : Word :=
  fpOut (fpFmt m) (ExactVal.add .rne (ExactVal.mul (fpIn (fpFmt m) a) (fpIn (fpFmt m) b)) (fpIn (fpFmt m) c))

def fsqrtOf (m : BitVec 3) (a : Word) : Word := fpOut (fpFmt m) (fpIn (fpFmt m) a).sqrt

/-- FMIN and FMAX (R128). -/
def fpick (greater : Bool) (m : BitVec 3) (a b : Word) : Word :=
  let w := fmtBits (fpFmt m)
  wd (pickCode (fpFmt m) greater (a.toNat % 2 ^ w) (b.toNat % 2 ^ w))

/-- FTEQ, FTLT and FTLE (R129). -/
def ftest (g : ExactVal → ExactVal → Bool) (m : BitVec 3) (a b : Word) : Word :=
  if g (fpIn (fpFmt m) a) (fpIn (fpFmt m) b) then 1 else 0

/-- FCVT as M selects (R17, R130). -/
def fcvtOf (m : BitVec 3) (a : Word) : Word :=
  match m.toNat with
  | 0 => fpOut fmtF64 (fpIn fmtF32 a)
  | 1 => fpOut fmtF32 (fpIn fmtF64 a)
  | 2 => wd (roundTo 0x04 .rtz (fpIn fmtF64 a))
  | 3 => fpOut fmtF64 (valueOf 0x04 a.toNat)
  | 4 => (BitVec.ofNat 32 (roundTo 0x03 .rtz (fpIn fmtF32 a))).signExtend 64
  | 5 => fpOut fmtF32 (valueOf 0x04 a.toNat)
  | 6 => wd (roundTo 0x08 .rtz (fpIn fmtF64 a))
  | _ => fpOut fmtF64 (valueOf 0x08 a.toNat)

def execFadd (f : T2) (s : State) : Outcome State Fault Refusal :=
  s.fire2 f.pr f.a 2 [f.t1, f.t2] (fp2 (ExactVal.add .rne) f.m)
def execFsub (f : T2) (s : State) : Outcome State Fault Refusal :=
  s.fire2 f.pr f.a 2 [f.t1, f.t2] (fp2 (fun a b => ExactVal.add .rne a b.neg) f.m)
def execFmul (f : T2) (s : State) : Outcome State Fault Refusal :=
  s.fire2 f.pr f.a 2 [f.t1, f.t2] (fp2 ExactVal.mul f.m)
def execFdiv (f : T2) (s : State) : Outcome State Fault Refusal :=
  s.fire2 f.pr f.a 2 [f.t1, f.t2] (fp2 ExactVal.div f.m)
def execFma (f : T2) (s : State) : Outcome State Fault Refusal :=
  s.fire3 f.pr f.a 2 [f.t1, f.t2] (fmaOf f.m)
def execFmin (f : T2) (s : State) : Outcome State Fault Refusal :=
  s.fire2 f.pr f.a 2 [f.t1, f.t2] (fpick false f.m)
def execFmax (f : T2) (s : State) : Outcome State Fault Refusal :=
  s.fire2 f.pr f.a 2 [f.t1, f.t2] (fpick true f.m)
def execFcvt (f : T2) (s : State) : Outcome State Fault Refusal :=
  s.fire1 f.pr f.a 2 [f.t1, f.t2] (fcvtOf f.m)
def execFteq (f : T2) (s : State) : Outcome State Fault Refusal :=
  s.fire2 f.pr f.a 2 [f.t1, f.t2] (ftest ExactVal.eqv f.m)
def execFtlt (f : T2) (s : State) : Outcome State Fault Refusal :=
  s.fire2 f.pr f.a 2 [f.t1, f.t2] (ftest ExactVal.lt f.m)
def execFtle (f : T2) (s : State) : Outcome State Fault Refusal :=
  s.fire2 f.pr f.a 2 [f.t1, f.t2] (ftest ExactVal.leq f.m)
def execFsqrt (f : T2) (s : State) : Outcome State Fault Refusal :=
  s.fire1 f.pr f.a 2 [f.t1, f.t2] (fsqrtOf f.m)

end Sys2Proof.Machine
end

