-- ==== Sys2Proof/Machine/Headrace.lean ====
section
/-! DEFINITION. The graph sequencer of a die: its walk of section records (R227, R228, R232, R348). -/

namespace Sys2Proof.Machine

open Host (Outcome)

/-- The queues of a region are emptied (R342, R350). -/
def Region.emptied (x : Region) : Region := { x with ing := [], egr := [] }

/-- A region the scheduler may give to a task of a partition (R348, R366, R372). -/
def State.freeFor (s : State) (p r : Nat) : Bool :=
  s.partOf r == some p && (s.taskOf r).isNone && s.group (groupOf r) == .pool && !(s.region r).lost &&
    (s.region r).armed.isNone

/-- A zero field of a section record is set, or its IMAGE is not a multiple of 64. Log entry 66 (DEDUCED). -/
def sectionBad (d : List Word) : Bool :=
  bitsOf (d.getD 0 0) 1 5 != 0 || bitsOf (d.getD 1 0) 0 6 != 0 || bitsOf (d.getD 3 0) 34 30 != 0 ||
    bitsOf (d.getD 4 0) 32 32 != 0 || bitsOf (d.getD 5 0) 40 24 != 0 || bitsOf (d.getD 6 0) 8 56 != 0

/-- STATUS of a failed read (R228). -/
def AccErr.sectionStatus : AccErr → Nat
  | .unmapped => 0x05
  | .violation => 0x06
  | .ecc => 0x06

/-- The cause of the fault that a STATUS code makes (R364). -/
def statusCause (code : Nat) : BitVec 8 :=
  if code = 0x05 then causePFAULT else if code = 0x0D then causeCFGREJECT else causeACCESS

/-- The translation of a walk: that of its task's partition. -/
def State.walkTr (s : State) (t : Nat) : Perm → Nat → Except AccErr Nat := s.translate (some (s.task t).part)

/-- The walk of a die ends; its task's chain has stopped (R351). Log entry 66 (DEDUCED). -/
def State.endWalk (s : State) (d t : Nat) : State :=
  (s.setRace d { s.race d with task := none, data := [], loaded := false, waiting := false, goals := [] }).updTask t fun x =>
    { x with chainDone := true }

/-- fail(code, info) of R227: STATUS and INFO, OWN kept, and the task faulted. -/
def State.failWalk (s : State) (d t code : Nat) (info : Word) : State :=
  let a := (s.race d).recAt.toNat + 0x30
  let s := match s.writeVia (s.walkTr t) a (wordsToBytes [wd code, info]) with
    | .ok s => s
    | .error _ => s
  (s.endWalk d t).flagFault t (statusCause code) 2 (s.task t).anchor

/-- The name under which slots loaded for a section record stand: no region's CFGL loaded them.
Log entry 66 (DEDUCED). -/
def raceLoader (d : Nat) : Nat := 128 + d

/-- Slots take placed records for good. -/
def State.fillSlots (s : State) (ps : List Placed) : State :=
  ps.foldl (fun s p => s.updRegion p.region fun x => { x with slots := x.slots.put p.slot p.ctx }) s

/-- The records of a section's image, each list one context: several records stand at their ANCHOR, and RMASK names exactly
their regions (R232); a single one goes to each named region. -/
def State.placeSection (s : State) (d : Nat) (bs : List Byte) (rs : List Nat) (slot : Nat) (image : Word) :
    Except Word (List (List Placed)) :=
  let offered := rs.filter fun r => s.group (groupOf r) == .pool
  if !imageGood bs then .error (rejection 0x0F 0 0 0 0 (rs.headD 0))
  else if 1 < numAt bs 8 2 then
    let a := numAt bs 12 2
    let named := ((recordsOf bs).mapM (landing a)).any fun l => l.length = rs.length && rs.all l.contains
    if !named then .error (rejection 0x10 0 0 0 0 a)
    else (Sys2Proof.Machine.loadBytes bs a offered slot (raceLoader d) image s.sbufs).map fun ps => [ps]
  else
    rs.mapM fun r => Sys2Proof.Machine.loadBytes bs r (offered.filter (· == r)) slot (raceLoader d) image s.sbufs

/-- Placed records are loaded and are to be armed, the contexts they replace draining first (R57, R227). -/
def State.armPlaced (s : State) (issuer : Nat) (task : Option Nat) (ps : List Placed) : State :=
  let rs := ps.map (·.region)
  let s := s.fillSlots ps
  let s := ((rs.filterMap fun r => (s.region r).armed).eraseDups).foldl (fun s c => s.close c .drain) s
  let slots := (ps.map (·.slot)).eraseDups
  { s with armings := s.armings ++ slots.map fun k =>
      (⟨issuer, k, (ps.filter fun p => p.slot == k).map (·.region), task⟩ : Arming) }

/-- TCOUNT is added to every MMA and SYSM element of some regions (R201, R227). -/
def State.addCounts (s : State) (rs : List Nat) (n : Nat) : State :=
  let upd (ke : Nat × Elem) : Nat × Elem :=
    if rs.contains (ke.1 / 96) && ke.2.cfg.counts then
      (ke.1, ke.2.addCount n)
    else ke
  { s with ctxs := s.ctxs.map fun kc => (kc.1, { kc.2 with elems := kc.2.elems.map upd }) }

/-- The walk takes the next chain that waits for it. Log entry 66 (DEDUCED). -/
def State.takeChain (s : State) (d : Nat) : State :=
  let h := s.race d
  match h.task, h.queue with
  | none, x :: rest =>
    s.setRace d { h with
      task := some x.1
      recAt := x.2 &&& ~~~ 0x3F
      data := []
      loaded := false
      waiting := x.2.getLsbD 0
      goals := []
      queue := rest }
  | _, _ => s

/-- The record is read and its fields are checked. -/
def State.readSection (s : State) (d t : Nat) : State :=
  let h := s.race d
  match s.readVia (s.walkTr t) h.recAt.toNat 64 with
  | .error .wait => s
  | .error (.fail e va) => s.failWalk d t e.sectionStatus (wd va)
  | .ok (bs, s) =>
    let w := bytesToWords bs
    if !(w.getD 0 0).getLsbD 0 then s.endWalk d t
    else if sectionBad w then s.failWalk d t 0x01 h.recAt
    else s.setRace d { h with data := w }

/-- The regions that RMASK names and that are free are held (R348), their queues emptied of what an earlier task left
(R350). -/
def State.holdSection (s : State) (t : Nat) (rs : List Nat) : State :=
  let more := rs.filter fun r => s.freeFor (s.task t).part r
  more.foldl (fun s r => s.updRegion r Region.emptied) (s.updTask t fun x => { x with regions := x.regions ++ more })

/-- IMAGE is loaded and on its way to being armed. -/
def State.loadSection (s : State) (d t : Nat) (rs : List Nat) : State :=
  let h := s.race d
  let image := h.data.getD 1 0
  if image = 0 then s.setRace d { h with loaded := true }
  else
    match s.readImage (s.walkTr t) image.toNat with
    | .wait => s
    | .fail e va => s.failWalk d t e.sectionStatus (wd va)
    | .bytes bs pieces =>
      let s := (s.readDone pieces).countWalk image.toNat
      match s.placeSection d bs rs (bitsOf (h.data.getD 3 0) 32 2) image with
      | .error w => (s.logAs (s.task t).anchor 0x7F none 0x0B 0 w 0).failWalk d t 0x0D w
      | .ok groups =>
        (groups.foldl (fun s ps => s.armPlaced (raceLoader d) (some t) ps) s).setRace d { h with loaded := true }

/-- HEADRACE_RECORD_READ (R227, R348, R372): the section record is read, its regions are held, its image is armed and its
counts are added; each execution goes as far as what it waits for. Log entry 66 (DEDUCED). -/
def execHeadraceRecordRead (die : Nat) (s : State) : Outcome State Fault Refusal :=
  let s := s.takeChain die
  let h := s.race die
  match h.task with
  | none => .next s
  | some t =>
    if (s.task t).state != .run then .next (s.endWalk die t)
    else if h.waiting then .next s
    else if h.data.isEmpty then .next (s.readSection die t)
    else
      let rs := sectionRegions h.data
      if !h.loaded then
        let s := s.holdSection t rs
        if rs.all fun r => (s.task t).regions.contains r && s.group (groupOf r) == .pool then .next (s.loadSection die t rs) else .next s
      else if s.armings.any fun a => a.issuer = raceLoader die then .next s
      else
        let s := s.addCounts rs (bitsOf (h.data.getD 4 0) 0 32)
        .next (s.setRace die { h with waiting := true, goals := if h.goals.isEmpty then s.issuedIn rs else h.goals })

/-- An element has expired, where it counts (R201). -/
def Elem.sectionDone (el : Elem) : Bool :=
  !el.cfg.counts || el.cfg.uncounted || el.expired

/-- Every counted element of some regions has expired, and the writes issued there by the last expiry are performed
(R227, R228). -/
def State.sectionOver (s : State) (rs : List Nat) (goals : List (Nat × Nat × Nat)) : Bool :=
  (s.ctxs.all fun kc => kc.2.elems.all fun ke => !rs.contains (ke.1 / 96) || ke.2.sectionDone) &&
    goals.all fun g => ((s.ctxs.find? g.1).bind fun c => c.elems.find? g.2.1).all fun el => g.2.2 ≤ el.wdone

/-- DEN, TEN and FEN of a section (R227). Log entry 66 (DEDUCED). -/
def State.sectionActions (s : State) (d t : Nat) (w : Word) : State :=
  let s := if w.getLsbD 12 then s.lowerFor (s.task t).anchor (d * 4096 + bitsOf w 0 12) 1 else s
  let s := if w.getLsbD 19 && bitsOf w 20 7 < 96 then s.setTag (bitsOf w 20 7) (bitsOf w 13 6) else s
  if w.getLsbD 39 then s.setFlag (d * 4096 + bitsOf w 27 12) true else s

/-- STATUS, INFO and OWN are written in one write (R228). -/
def State.closeSection (s : State) (t a : Nat) : State :=
  match s.runAt (s.walkTr t) .both a 8, s.runAt (s.walkTr t) .write (a + 0x30) 16 with
  | .ok ps, .ok qs =>
    ((s.storeRuns qs (wordsToBytes [0x02, 0])).storeRuns ps (bytesOf 8 (numOf (s.loadRuns ps) / 2 * 2))).countWalk a
  | _, _ => s

/-- HEADRACE_SECTION_COMPLETE (R227, R228): the completion actions, the final write, and the next record.
Log entry 66 (DEDUCED). -/
def execHeadraceSectionComplete (die : Nat) (s : State) : Outcome State Fault Refusal :=
  let h := s.race die
  match h.task with
  | none => .next s
  | some t =>
    if (s.task t).state != .run then .next (s.endWalk die t)
    else if !h.waiting then .next s
    else if h.data.isEmpty then
      match s.readVia (s.walkTr t) h.recAt.toNat 64 with
      | .error .wait => .next s
      | .error (.fail e va) => .next (s.failWalk die t e.sectionStatus (wd va))
      | .ok (bs, s) =>
        let w := bytesToWords bs
        .next (s.setRace die { h with data := w, goals := s.issuedIn (sectionRegions w) })
    else if !s.sectionOver (sectionRegions h.data) h.goals then .next s
    else
      let s := (s.sectionActions die t (h.data.getD 5 0)).closeSection t h.recAt.toNat
      let next := h.data.getD 0 0 &&& ~~~ 0x3F
      if next = 0 then .next (s.endWalk die t)
      else .next (s.setRace die { h with recAt := next, data := [], loaded := false, waiting := false, goals := [] })

end Sys2Proof.Machine
end

