-- ==== Sys2Proof/Machine/MlDsa.lean ====
section
/-! DEFINITION. ML-DSA-87 (FIPS 204), the signature of firmware images and of measurement reports, and the identity key
pair (R400).  R400 names the algorithm by its standard, whose text is no part of the spec. -/

namespace Sys2Proof.Machine

/-! ## Polynomials over Z_q modulo X^256 + 1: 256 coefficients below q, lowest first -/

/-- The modulus q. -/
def dsaQ : Nat := 8380417

/-- Ranges of ML-DSA-87: gamma1, gamma2, beta, and the bound omega on the ones of a hint. -/
def dsaGamma1 : Nat := 2 ^ 19
def dsaGamma2 : Nat := 261888
def dsaBeta : Nat := 120
def dsaOmega : Nat := 75

/-- The coefficient that stands for an integer, and the integer of least size that a coefficient stands for. -/
def dsaOfInt (i : Int) : Nat := (i % (dsaQ : Int)).toNat
def dsaCentre (a : Nat) : Int := if dsaQ / 2 < a then (a : Int) - dsaQ else a

def polyAdd (a b : List Nat) : List Nat := List.zipWith (fun x y => (x + y) % dsaQ) a b
def polySub (a b : List Nat) : List Nat := List.zipWith (fun x y => (x + dsaQ - y) % dsaQ) a b
def polyMul (a b : List Nat) : List Nat := List.zipWith (fun x y => x * y % dsaQ) a b

/-- An inverse of 2 modulo q. -/
def dsaHalf : Nat := 4190209

/-- The power of the root of unity 1753 that node k of the transform's tree takes: k's eight bits reversed. -/
def dsaPower (k : Nat) : Nat := ((List.range 8).map fun i => if k.testBit i then 2 ^ (7 - i) else 0).sum

/-- The number-theoretic transform below node k of its tree, so many levels deep. -/
def nttAt : Nat → Nat → List Nat → List Nat
  | 0, _, w => w
  | d + 1, k, w =>
    let lo := w.take (w.length / 2)
    let hi := (w.drop (w.length / 2)).map (· * (1753 ^ dsaPower k % dsaQ) % dsaQ)
    nttAt d (2 * k) (polyAdd lo hi) ++ nttAt d (2 * k + 1) (polySub lo hi)

/-- Its inverse; the root of unity has the order 512. -/
def invNttAt : Nat → Nat → List Nat → List Nat
  | 0, _, w => w
  | d + 1, k, w =>
    let lo := invNttAt d (2 * k) (w.take (w.length / 2))
    let hi := invNttAt d (2 * k + 1) (w.drop (w.length / 2))
    (polyAdd lo hi).map (· * dsaHalf % dsaQ) ++
      (polySub lo hi).map (· * (1753 ^ (512 - dsaPower k) * dsaHalf % dsaQ) % dsaQ)

def ntt (w : List Nat) : List Nat := nttAt 8 1 w
def invNtt (w : List Nat) : List Nat := invNttAt 8 1 w

/-- A matrix times a vector, both transformed, and the product transformed back. -/
def dsaMulVec (a : List (List (List Nat))) (v : List (List Nat)) : List (List Nat) :=
  a.map fun row => invNtt ((List.zipWith polyMul row v).foldl polyAdd (List.replicate 256 0))

/-- A transformed polynomial times each one of a vector. -/
def dsaScale (c : List Nat) (v : List (List Nat)) : List (List Nat) := v.map fun p => invNtt (polyMul c (ntt p))

def vecAdd (a b : List (List Nat)) : List (List Nat) := List.zipWith polyAdd a b
def vecSub (a b : List (List Nat)) : List (List Nat) := List.zipWith polySub a b

/-- The largest size of a coefficient of a vector. -/
def dsaNorm (v : List (List Nat)) : Nat := (v.flatten.map fun a => (dsaCentre a).natAbs).foldl max 0

/-! ## Rounding and hints -/

/-- A coefficient as high part times 2 gamma2 plus low part. -/
def dsaDecompose (r : Nat) : Nat × Int :=
  let m := 2 * dsaGamma2
  let low : Int := if dsaGamma2 < r % m then (r % m : Nat) - (m : Int) else (r % m : Nat)
  if (r : Int) - low = dsaQ - 1 then (0, low - 1) else (((r : Int) - low) / (m : Int) |>.toNat, low)

/-- A coefficient as high part times 2^13 plus low part. -/
def dsaPower2 (r : Nat) : Nat × Int :=
  let low : Int := if 4096 < r % 8192 then (r % 8192 : Nat) - (8192 : Int) else (r % 8192 : Nat)
  (((r : Int) - low) / 8192 |>.toNat, low)

/-- The high part of a coefficient as a hint corrects it. -/
def dsaUseHint (hint : Bool) (r : Nat) : Nat :=
  let d := dsaDecompose r
  if !hint then d.1 else if 0 < d.2 then (d.1 + 1) % 16 else (d.1 + 15) % 16

/-! ## Bits and bytes -/

/-- Numbers of so many bits packed one after another, lowest bit first. -/
def dsaPack (w : Nat) (p : List Nat) : List Byte :=
  bytesOf (p.length * w / 8) (p.foldr (fun a n => a + 2 ^ w * n) 0)
def dsaUnpack (w : Nat) (bs : List Byte) : List Nat :=
  let n := numOf bs
  (List.range (bs.length * 8 / w)).map fun i => n / 2 ^ (w * i) % 2 ^ w

/-- A polynomial packed as differences from a bound, and unpacked. -/
def dsaPackFrom (b w : Nat) (p : List Nat) : List Byte := dsaPack w (p.map fun a => ((b : Int) - dsaCentre a).toNat)
def dsaUnpackFrom (b w : Nat) (bs : List Byte) : List Nat :=
  (dsaUnpack w bs).map fun (a : Nat) => dsaOfInt ((b : Int) - (a : Nat))

/-- The bytes of a vector of n polynomials, each by itself. -/
def dsaUnpackVec (n size : Nat) (f : List Byte → List Nat) (bs : List Byte) : List (List Nat) :=
  (List.range n).map fun i => f ((bs.drop (size * i)).take size)

/-- A hint of eight polynomials: where its ones stand, in order, and how many there are up to each polynomial. -/
def dsaHintPack (h : List (List Bool)) : List Byte :=
  let places := h.map fun p => (p.zipIdx.filter (·.1)).map fun b => BitVec.ofNat 8 b.2
  let all := places.flatten
  let counts := (List.range h.length).map fun i => BitVec.ofNat 8 ((places.take (i + 1)).map List.length).sum
  all ++ List.replicate (dsaOmega - all.length) 0 ++ counts

/-- Places rise strictly. -/
def dsaRising : List Nat → Bool
  | a :: b :: rest => a < b && dsaRising (b :: rest)
  | _ => true

/-- The hint of its bytes, where they are one. -/
def dsaHintUnpack (bs : List Byte) : Option (List (List Bool)) :=
  let places := (bs.take dsaOmega).map (·.toNat)
  let counts := 0 :: (bs.drop dsaOmega).map (·.toNat)
  let spans := List.zipWith (fun a b => (a, b)) counts (counts.drop 1)
  let span (p : Nat × Nat) : List Nat := (places.drop p.1).take (p.2 - p.1)
  if spans.all (fun p => p.1 ≤ p.2 && p.2 ≤ dsaOmega && dsaRising (span p)) &&
      (places.drop (counts.getLast?.getD 0)).all (· == 0) then
    some (spans.map fun p => (List.range 256).map (span p).contains)
  else none

/-! ## Sampling.  A stretch of the stream is taken that leaves a sample short with a chance below 2^-256. -/

/-- Row i, column j of the public matrix, transformed: the numbers of 23 bits below q. -/
def dsaMatrix (rho : List Byte) : List (List (List Nat)) :=
  let three : List Byte → Nat := fun b => numOf b % 2 ^ 23
  (List.range 8).map fun r => (List.range 7).map fun c =>
    (((chunks 3 (shake 168 (rho ++ [BitVec.ofNat 8 c, BitVec.ofNat 8 r]) 2016)).map three).filter (· < dsaQ)).take 256

/-- A polynomial with coefficients from -2 to 2. -/
def dsaSmall (seed : List Byte) (i : Nat) : List Nat :=
  let half := (shake 136 (seed ++ bytesOf 2 i) 680).flatMap fun b => [b.toNat % 16, b.toNat / 16]
  ((half.filter (· < 15)).take 256).map fun b => dsaOfInt (2 - (b % 5 : Nat))

/-- The vector of masks of a signature's attempt. -/
def dsaMask (seed : List Byte) (kappa : Nat) : List (List Nat) :=
  (List.range 7).map fun r => dsaUnpackFrom dsaGamma1 20 (shake 136 (seed ++ bytesOf 2 (kappa + r)) 640)

/-- The challenge's walk: place i takes what stands at the next byte that is no greater, which takes a sign. -/
def dsaBallWalk (signs : Nat) : Nat → List Byte → List Nat → List Nat
  | _, [], c => c
  | i, b :: bs, c =>
    if 255 < i then c
    else if i < b.toNat then dsaBallWalk signs i bs c
    else dsaBallWalk signs (i + 1) bs
      ((c.set i (c.getD b.toNat 0)).set b.toNat (if signs.testBit (i - 196) then dsaQ - 1 else 1))

/-- The challenge: 60 coefficients of 1 or -1. -/
def dsaBall (seed : List Byte) : List Nat :=
  let bs := shake 136 seed 544
  dsaBallWalk (numOf (bs.take 8)) 196 (bs.drop 8) (List.replicate 256 0)

/-! ## Keys and signatures -/

/-- The bytes of the high parts that a challenge is taken from. -/
def dsaHighBytes (w : List (List Nat)) : List Byte := w.flatMap (dsaPack 4)

/-- The message of a signature: no context, and the bytes signed. -/
def dsaMessage (tr m : List Byte) : List Byte := shake 136 (tr ++ [0, 0] ++ m) 64

/-- The key pair of a seed of 32 bytes: public key of 2,592 bytes and private key. Log entry 107 (PRESUMED). -/
def mldsaKeys (seed : List Byte) : List Byte × List Byte :=
  let e := shake 136 (seed ++ [8, 7]) 128
  let rho := e.take 32
  let s1 := (List.range 7).map (dsaSmall ((e.drop 32).take 64))
  let s2 := (List.range 8).map fun i => dsaSmall ((e.drop 32).take 64) (i + 7)
  let t := (vecAdd (dsaMulVec (dsaMatrix rho) (s1.map ntt)) s2).map fun p => p.map dsaPower2
  let pub := rho ++ t.flatMap fun p => dsaPack 10 (p.map (·.1))
  (pub, rho ++ e.drop 96 ++ shake 136 pub 64 ++ s1.flatMap (dsaPackFrom 2 3) ++ s2.flatMap (dsaPackFrom 2 3) ++
    t.flatMap fun p => dsaPackFrom 4096 13 (p.map fun a => dsaOfInt a.2))

/-- What a private key holds: the matrix, the key of the masks, the hash of the public key, and the secret vectors. -/
structure DsaSecret where
  matrix : List (List (List Nat))
  seed : List Byte
  tr : List Byte
  s1 : List (List Nat)
  s2 : List (List Nat)
  t0 : List (List Nat)
  deriving DecidableEq, Repr

def dsaSecretOf (sk : List Byte) : DsaSecret where
  matrix := dsaMatrix (sk.take 32)
  seed := (sk.drop 32).take 32
  tr := (sk.drop 64).take 64
  s1 := dsaUnpackVec 7 96 (dsaUnpackFrom 2 3) (sk.drop 128)
  s2 := dsaUnpackVec 8 96 (dsaUnpackFrom 2 3) (sk.drop 800)
  t0 := dsaUnpackVec 8 416 (dsaUnpackFrom 4096 13) (sk.drop 1568)

/-- One attempt at a signature, which may be rejected. -/
def dsaAttempt (k : DsaSecret) (mu seed : List Byte) (kappa : Nat) : Option (List Byte) :=
  let y := dsaMask seed kappa
  let w := dsaMulVec k.matrix (y.map ntt)
  let high := w.map fun p => p.map fun a => (dsaDecompose a).1
  let ct := shake 136 (mu ++ dsaHighBytes high) 64
  let c := ntt (dsaBall ct)
  let z := vecAdd y (dsaScale c k.s1)
  let r := vecSub w (dsaScale c k.s2)
  let low := (r.flatten.map fun a => (dsaDecompose a).2.natAbs).foldl max 0
  let ct0 := dsaScale c k.t0
  let hint := List.zipWith (List.zipWith fun a b => (dsaDecompose a).1 != (dsaDecompose b).1) (vecAdd r ct0) r
  if dsaGamma1 - dsaBeta ≤ dsaNorm z || dsaGamma2 - dsaBeta ≤ low || dsaGamma2 ≤ dsaNorm ct0 ||
      dsaOmega < (hint.flatten.filter id).length then none
  else some (ct ++ z.flatMap (dsaPackFrom dsaGamma1 20) ++ dsaHintPack hint)

/-- Attempts until one is not rejected. -/
def dsaAttempts (k : DsaSecret) (mu seed : List Byte) : Nat → Nat → List Byte
  | 0, _ => []
  | f + 1, kappa => (dsaAttempt k mu seed kappa).getD (dsaAttempts k mu seed f (kappa + 7))

/-- The signature of 4,627 bytes of a private key over some bytes, with 32 random bytes. Log entry 107 (PRESUMED). -/
def mldsaSign (sk m rnd : List Byte) : List Byte :=
  let k := dsaSecretOf sk
  let mu := dsaMessage k.tr m
  dsaAttempts k mu (shake 136 (k.seed ++ rnd ++ mu) 64) 814 0

/-- A signature over some bytes verifies under a public key. Log entry 107 (PRESUMED). -/
def mldsaVerify (pk m sig : List Byte) : Bool :=
  match dsaHintUnpack (sig.drop 4544) with
  | none => false
  | some hint =>
    let ct := sig.take 64
    let z := dsaUnpackVec 7 640 (dsaUnpackFrom dsaGamma1 20) (sig.drop 64)
    let t1 := dsaUnpackVec 8 320 (dsaUnpack 10) (pk.drop 32)
    let c := ntt (dsaBall ct)
    let w := vecSub (dsaMulVec (dsaMatrix (pk.take 32)) (z.map ntt)) (dsaScale c (t1.map fun p => p.map (· * 8192)))
    let high := List.zipWith (List.zipWith dsaUseHint) hint w
    pk.length == 2592 && sig.length == 4627 && dsaNorm z < dsaGamma1 - dsaBeta &&
      ct == shake 136 (dsaMessage (shake 136 pk 64) m ++ dsaHighBytes high) 64

end Sys2Proof.Machine
end

