-- ==== Sys2Proof/Machine/HostLink.lean ====
section
/-! DEFINITION. The Tabnen link, the test access port, boot and attestation (R396, R400, Debug access of chapter 19). -/

namespace Sys2Proof.Machine

open Host (Outcome)

/-- The link answers the host. -/
def State.reply (s : State) (r : Reply) : State := { s with replies := s.replies ++ [r] }

/-- The bits of an answer that the rules give (R396, R397, R400). -/
def Reply.bits : Reply → Nat
  | .data b => 8 * b.length
  | .ok => 0
  | .error _ => 64
  | .bootFailed _ _ => 64
  | .report n m _ _ sig => 8 * (n.length + (m.map List.length).sum + sig.length)

/-- The link answers the host, and the answer is counted (R395). Log entry 99 (DESIGN CHOICE). -/
def State.answer (s : State) (r : Reply) : State := (s.countLink 0 r.bits).reply r

/-- The host reads a register's mirror in the command window (R396). Log entry 90 (DEDUCED). -/
def State.mirrorRead (s : State) (id : Nat) : State :=
  match (if mirrored id then s.readReg service id else none) with
  | some v => (s.countLink 0 0).answer (.data (bytesOf 8 v.toNat))
  | none => s

/-- What a party without a row of its own does: a read of a mirror, and a message of firmware (R396, R397). -/
def State.outside (s : State) : Move → State
  | .mirrorRead id => s.mirrorRead id
  | .message part what v => s.interrupt 0x0004 part what v
  | _ => s

/-! ## The memory window (R396) -/

/-- A failed access is logged by the region whose MN it reached, else by the service sequencer, and answered with its
address (R396). Log entry 84 (DEDUCED). -/
def State.windowFails (s : State) (part : Nat) (va : Word) (owner : Option Nat) : State :=
  let q := match owner with
    | some r => r
    | none => service
  (s.log q none 0x0C 0 va (wd part)).answer (.error va)

/-- The region whose MN an address lies in. Log entry 84 (DEDUCED). -/
def ownerOf (pa : Nat) : Option Nat := if inHbm pa then none else some ((pa - 0x8000000000) / 0x400000)

/-- The sizes of a control thread's loads and stores (R133, R135). Log entry 84 (DEDUCED). -/
def accessSize (n : Nat) : Bool := [1, 2, 4, 8].contains n

/-- HOST_MEMORY_WINDOW (R396): a write of the bytes given, or a read of as many; a read of a BUFW entry waits until it is
full (R299). Log entry 84 (DEDUCED). -/
def execHostMemoryWindow (part : Nat) (va : Word) (write : Bool) (data : List Byte) (s : State) :
    Outcome State Fault Refusal :=
  let n := data.length
  let t := s.countLink 0 (52 + if write then 8 * n else 0)
  let perm : Perm := if write then .write else .read
  let tr := s.translate (some part) perm va.toNat
  if !accessSize n then .next (t.answer (.error va))
  else
    match s.checkOrder tr perm va n with
    | .error _ =>
      let owner := if va.toNat % n != 0 then none else match tr with
        | .ok pa => ownerOf pa
        | .error _ => none
      .next (t.windowFails part va owner)
    | .ok pa =>
      if write then .next ((((t.store pa data).countWalk va.toNat).countHbm pa n).answer .ok)
      else
        let ready := match s.windowAt pa n false with
          | .bufw c site e e' => s.bufwReady c site e e'
          | _ => true
        if !ready then .next s
        else if s.poisoned pa n then .next (t.windowFails part va (ownerOf pa))
        else .next ((((t.emptyEntry pa n).countWalk va.toNat).countHbm pa n).answer (.data (s.load pa n)))

/-! ## Task posts (R287, R347, R396) -/

/-- The task a post names, its amount, and whether a bit that must be zero is set. -/
def postTask (v : Word) : Nat := bitsOf v 12 2 * 4096 + bitsOf v 0 12
def postAmount (v : Word) : Nat := bitsOf v 16 16
def postBad (v : Word) : Bool := bitsOf v 32 32 != 0 || v.getLsbD 15

/-- A post is refused for a bit that must be zero. Log entry 85 (DEDUCED). -/
def State.postRefused (s : State) (v : Word) : State :=
  (s.log service none 0x09 0 (wd (postTask v)) v).answer (.error v)

/-- HOST_TASK_POST (R396). Log entry 85 (DEDUCED). -/
def execHostTaskPost (v : Word) (s : State) : Outcome State Fault Refusal :=
  let s := s.countLink 0 64
  if postBad v then .next (s.postRefused v)
  else .next ((s.lowerLogged service (postTask v) (postAmount v)).answer .ok)

/-- HOST_ARM_POST (R396). Log entry 85 (DEDUCED). -/
def execHostArmPost (v : Word) (s : State) : Outcome State Fault Refusal :=
  let s := s.countLink 0 64
  if postBad v then .next (s.postRefused v)
  else .next ((s.setCount service (postTask v) (postAmount v)).answer .ok)

/-! ## Boot (R400) -/

/-- A stage's image: header, payload, signature (R400).  A number where it is not one. Log entry 86 (DESIGN CHOICE). -/
def fwParts (img : List Byte) : Except Nat (List Byte × List Byte × List Byte) :=
  let h := img.take 64
  let n := Config.headerLength h
  if h.take 4 != [0x4A, 0x34, 0x46, 0x57] then .error 1
  else if img.length != 64 + n + 4627 then .error 2
  else .ok (h, (img.drop 64).take n, img.drop (64 + n))

/-- The checks of a stage (R400), with the vendor key against its fused hash: header, payload and digest, or a number of
the failed check. -/
def fwVerify (img : List Byte) : Except Nat (List Byte × List Byte × List Byte) :=
  match fwParts img with
  | .error e => .error e
  | .ok (h, p, sig) =>
    let d := sha3_512 (h ++ p)
    if Config.headerSvn h < Config.fusedSvn then .error 3
    else if sha3_512 Config.vendorKey != Config.fusedKeyHash then .error 5
    else if !mldsaVerify Config.vendorKey d sig then .error 4
    else .ok (h, p, d)

/-- A digest is extended into a measurement register (R400). -/
def Boot.extend (b : Boot) (k : Nat) (d : List Byte) : Boot :=
  { b with meas := b.meas.set k (sha3_512 (b.meas.getD k [] ++ d)) }

/-- A verified stage runs (R400): its digest is extended, its policy is in force, and the service sequencer starts at
it. Log entry 86 (DESIGN CHOICE). -/
def State.runStage (s : State) (h p d : List Byte) : State :=
  let k := s.boot.stage
  let pol := Config.headerPolicy h
  let b := s.boot.extend (Config.measIndex k % 8) d
  let s := { s with boot := { b with stage := k + 1, debug := pol.testBit 0, host := pol.testBit 1 } }
  (s.store (Config.firmwareBase k % 0x6000000000) p).updSeq service fun x =>
    { x with cond := .fetch (Config.firmwareEntry k &&& ~~~ 0xF) }

/-- Stages are verified and run in turn until one fails, which stops the boot (R400). -/
def State.bootStages (s : State) : List (List Byte) → State
  | [] => s
  | img :: rest =>
    match fwVerify img with
    | .ok (h, p, d) => (s.runStage h p d).bootStages rest
    | .error e =>
      { s with boot := { s.boot with failed := true } }.answer (.bootFailed s.boot.stage (Config.bootReason e))

/-- The identity key pair (R400): public and private key. Log entries 86 (DESIGN CHOICE) and 107 (PRESUMED).
Log entries 86 (DESIGN CHOICE), 107 (PRESUMED). -/
def identityKeys : List Byte × List Byte := mldsaKeys (bytesOf 32 Config.identitySeed.toNat)

/-- The module after a reset; what has been sent to the host, the identity key pair, which the first boot derives, and the
model's own fields, stay. Log entry 87 (DESIGN CHOICE). -/
def State.moduleReset (s : State) : State :=
  { State.reset with
    boot := { Boot.initial with keys := if s.boot.keys == ([], []) then identityKeys else s.boot.keys }
    plan := s.plan
    turn := s.turn
    free := s.free
    irqs := s.irqs
    replies := s.replies }

/-- MODULE_RESET (R400). Log entry 87 (DESIGN CHOICE). -/
def execModuleReset (stages : List (List Byte)) (s : State) : Outcome State Fault Refusal :=
  .next (s.moduleReset.bootStages stages)

/-- ATTESTATION_REQUEST (R400): the report that firmware returns. Log entry 87 (DESIGN CHOICE). -/
def execAttestationRequest (nonce : List Byte) (s : State) : Outcome State Fault Refusal :=
  if nonce.length != 64 || s.boot.stage = 0 || s.boot.failed then .next s
  else
    let m := s.boot.meas
    let msg := Config.reportMessage nonce m Config.fusedSvn 0x0004
    let sig := mldsaSign s.boot.keys.2 msg (bytesOf 32 (Config.signRandom s.free).toNat)
    .next ((s.countLink 0 (8 * nonce.length)).answer (.report nonce m Config.fusedSvn 0x0004 sig)).draw

/-! ## The test access port -/

/-- An instruction is in the port's instruction register, with its data register. -/
def State.setTap (s : State) (ir : BitVec 8) (dr : BitVec 96) : State := { s with tap := { s.tap with ir := ir, dr := dr } }

/-- The state of the pins, as captured. -/
def State.pins (s : State) : BitVec 96 := (Config.boundaryPins s.free).setWidth 96

/-- EXTEST: the boundary-scan register. Log entry 88 (DEDUCED). -/
def execExtest (s : State) : Outcome State Fault Refusal := .next (s.setTap 0x00 s.pins).draw

/-- IDCODE. -/
def execIdcode (s : State) : Outcome State Fault Refusal := .next (s.setTap 0x01 0x1A04D0F3)

/-- SAMPLE/PRELOAD: the boundary-scan register. Log entry 88 (DEDUCED). -/
def execSamplePreload (s : State) : Outcome State Fault Refusal := .next (s.setTap 0x02 s.pins).draw

/-- The sequencer a target names. -/
def regTarget (t : BitVec 8) : Option Nat := if t.toNat < 0x60 then some t.toNat else if t = 0x80 then some service else none

/-- The data register of REGACC. -/
def regaccDr (t : BitVec 8) (id : BitVec 12) (write : Bool) (v : Word) : BitVec 96 :=
  t ++ id ++ (if write then 1 else 0 : BitVec 12) ++ v

/-- REGACC, a read: zero while debug is off; for a target or an id that does not exist a free value.
Log entry 88 (DEDUCED). -/
def execRegaccRead (target : BitVec 8) (id : BitVec 12) (s : State) : Outcome State Fault Refusal :=
  if !s.boot.debug then .next (s.setTap 0x20 (regaccDr target id false 0))
  else
    match (regTarget target).bind fun q => s.readReg q id.toNat with
    | some v => .next (s.setTap 0x20 (regaccDr target id false v))
    | none => .next (s.setTap 0x20 (regaccDr target id false (Config.freeWord s.free))).draw

/-- REGACC, a write: ignored while debug is off, and on a register that takes no write. Log entry 88 (DEDUCED). -/
def execRegaccWrite (target : BitVec 8) (id : BitVec 12) (v : Word) (s : State) : Outcome State Fault Refusal :=
  let t := s.setTap 0x20 (regaccDr target id true v)
  match regTarget target with
  | some q => .next (if s.boot.debug && (s.readReg q id.toNat).isSome && !readOnly id.toNat then t.writeReg q id.toNat v else t)
  | none => .next t

/-- SQHALT with 1: the service sequencer stops between blocks. -/
def execSqhaltStop (s : State) : Outcome State Fault Refusal :=
  let t := s.setTap 0x21 1
  .next (if s.boot.debug then { t with tap := { t.tap with halt := true } } else t)

/-- SQHALT with 0: the service sequencer goes on. -/
def execSqhaltRelease (s : State) : Outcome State Fault Refusal :=
  let t := s.setTap 0x21 0
  .next (if s.boot.debug then { t with tap := { t.tap with halt := false } } else t)

/-- BYPASS. Log entry 88 (DEDUCED). -/
def execBypass (s : State) : Outcome State Fault Refusal := .next (s.setTap 0xFF 0)

end Sys2Proof.Machine
end

