-- ==== Sys2Proof/Machine/Remote.lean ====
section
/-! DEFINITION. Traffic with other modules (R398, R399): frames that arrive, frames sent again, and a peer that falls
silent.  A frame that carries no token answers how many frames have been taken in order (log entry 89). -/

namespace Sys2Proof.Machine

open Host (Outcome)

/-- The local handle (R301) of the buffer that a remote handle names (R398). -/
def localHandle (h : Nat) : Nat := field h 24 18 * 2 ^ 24 + field h 17 13 * 2 ^ 19 + field h 12 5 * 2 ^ 11

/-- A token from the words that carry it: header, payload, scales (R303). -/
def wordsToken (ws : List Word) : Token :=
  let h := ws.getD 0 0
  let bs := wordsToBytes (ws.drop 1)
  let n := payloadBytes h
  ⟨h, bodyOf h (bs.take n) ((bs.drop (8 * ceilDiv n 8)).take (scaleBytes h))⟩

/-- A token that arrives for a local buffer: none where it does not fit now (R303). -/
def State.remotePush (s : State) (h : Nat) (t : Token) : Option State :=
  let r := field h 30 24
  match s.sbufs.find? h with
  | none => some (if r < 96 then s.log r none 0x06 t.hdr (wd h) t.hdr else s)
  | some b =>
    if b.egr.isSome then some (s.log r none 0x07 t.hdr (wd h) 0)
    else
      match b.push t with
      | .stall => none
      | .done b' off lg =>
        let s := s.pushed h b' t off
        some (match lg with
          | some a => s.log r none 0x07 t.hdr (wd h) a
          | none => s)

/-- Tokens are pushed in order until one does not fit: the state, and how many were taken. -/
def State.remotePushes (s : State) (h : Nat) : List Token → State × Nat
  | [] => (s, 0)
  | t :: ts =>
    match s.remotePush h t with
    | none => (s, 0)
    | some u => let r := u.remotePushes h ts; (r.1, r.2 + 1)

/-- The answer to a peer: the frames of a buffer's stream taken in order. -/
def Peer.answerOf (p : Peer) (h : Nat) : Frame := ⟨(p.stream h).got, BitVec.ofNat 32 h, []⟩

/-- A frame is put on a port. -/
def State.sendFrame (s : State) (peer : Nat) (f : Frame) : State :=
  (s.setPeer peer { s.peer peer with wire := (s.peer peer).wire ++ [f] }).countFrame peer f

/-- A peer has answered for a buffer. -/
def Peer.answered (p : Peer) (h n now : Nat) : Peer :=
  { p.setStream h { p.stream h with sent := (p.stream h).sent.filter fun f => n ≤ f.seqno } with silent := false, since := now }

/-- The frames received are counted on the port they come by. -/
def State.countReceived (s : State) (peer seq handle : Nat) (words : List (List Word)) : State :=
  s.countFrame peer ⟨seq, BitVec.ofNat 32 handle, words.flatten⟩

/-- REMOTE_FRAME_RECEIVE (R399): the tokens of the next frame of a buffer enter it in order, those that do not fit when
the frame is sent again; a frame out of order is not taken. Log entry 89 (DESIGN CHOICE). -/
def execRemoteFrameReceive (peer seq handle : Nat) (words : List (List Word)) (s : State) : Outcome State Fault Refusal :=
  let s := s.countReceived peer seq handle words
  let p := s.peer peer
  let x := p.stream handle
  if words.isEmpty then .next (s.setPeer peer (p.answered handle seq s.now))
  else if seq < x.got then .next (s.sendFrame peer (p.answerOf handle))
  else if x.got < seq then .next s
  else
    let ts := (words.drop x.taken).map wordsToken
    let r := s.remotePushes (localHandle handle) ts
    if r.2 = ts.length then
      let p := p.setStream handle { x with got := x.got + 1, taken := 0 }
      .next ((r.1.setPeer peer p).sendFrame peer (p.answerOf handle))
    else .next (r.1.setPeer peer (p.setStream handle { x with taken := x.taken + r.2 }))

/-- REMOTE_RETRANSMIT (R399): a frame that no answer covers is sent again. Log entry 89 (DESIGN CHOICE). -/
def execRemoteRetransmit (peer k : Nat) (s : State) : Outcome State Fault Refusal :=
  match (s.peer peer).unanswered[k]? with
  | some f => .next (s.sendFrame peer f)
  | none => .next s

/-- REMOTE_PEER_TIMEOUT (R399): a peer that has answered nothing for 1 ms. Log entry 89 (DESIGN CHOICE). -/
def execRemotePeerTimeout (peer : Nat) (s : State) : Outcome State Fault Refusal :=
  let p := s.peer peer
  if !p.unanswered.isEmpty && p.since + 1000000 ≤ s.now then .next (s.setPeer peer { p with silent := true }) else .next s

end Sys2Proof.Machine
end

