-- ==== Sys2Proof/Machine/Scheduler.lean ====
section
/-! DEFINITION. The task scheduler: allocation, selection, launch, end, save, restore and fault of tasks, stages of a
pipeline, corrected errors, the time base and power control (R346-R360, R364-R366, R382, R393, R394). -/

namespace Sys2Proof.Machine

open Host (Outcome)

/-! ## Allocation and the host's commands (R346, R347) -/

/-- A task takes DEPS as its counter. -/
def Task.armed (x : Task) (now : Nat) : Task :=
  let n := recBits x.record 2 15 0
  { x with
    counter := BitVec.ofNat 16 n
    state := if n = 0 then .ready else .wait
    since := if n = 0 then now else x.since }

/-- TASK_ALLOCATE (R347). Log entry 67 (DEDUCED). -/
def execTaskAllocate (die task : Nat) (s : State) : Outcome State Fault Refusal :=
  let t := die * 4096 + task
  if (s.task t).state != .free then .next s
  else
    match s.readTaskRec t with
    | .error _ => .next s
    | .ok (r, s) => .next (s.setTask t ({ Task.initial with record := r }.armed s.now))

/-- TASK_RESET_BY_HOST (R347): the counter is loaded from DEPS, and FAULT becomes 0. -/
def execTaskResetByHost (die task : Nat) (s : State) : Outcome State Fault Refusal :=
  let t := die * 4096 + task
  if (s.task t).state != .faulted then .next s
  else
    match s.readTaskRec t with
    | .error _ => .next s
    | .ok (r, s) => .next ((s.setTask t ({ Task.initial with record := r }.armed s.now)).writeFault t 0)

/-- TASK_RELEASE_BY_HOST (R347). -/
def execTaskReleaseByHost (die task : Nat) (s : State) : Outcome State Fault Refusal :=
  let t := die * 4096 + task
  match (s.task t).state with
  | .wait | .ready | .done | .faulted => .next (s.setTask t Task.initial)
  | _ => .next s

/-! ## Selection (R348, R349) -/

/-- Effective priority (R349). -/
def Task.effective (x : Task) (now : Nat) : Nat := min 3 (x.prio + (now - x.since) / 64000)

/-- The order of selection (R349). -/
def State.before (s : State) (a b : Nat) : Bool :=
  let x := s.task a
  let y := s.task b
  let p := x.effective s.now
  let q := y.effective s.now
  q < p || (p == q && (x.since < y.since || (x.since == y.since && a < b)))

def State.insertTask (s : State) (t : Nat) : List Nat → List Nat
  | [] => [t]
  | u :: l => if s.before t u then t :: u :: l else u :: s.insertTask t l

/-- Dispatch of a partition's tasks is deferred (R393). -/
def State.deferred (s : State) (p : Nat) : Bool := s.svc.steps.any fun x => x.1 = 3 && x.2.1 = p

/-- The tasks of a die that wait for regions, in the order of selection. -/
def State.waiting (s : State) (d : Nat) : List Nat :=
  ((s.tasks.filter fun kt => kt.1 / 4096 = d && (kt.2.state = .ready || kt.2.state = .saved) &&
    !s.deferred kt.2.part).map (·.1)).foldr (fun t l => s.insertTask t l) []

/-- Slot 0 of some regions holds the records of an image in turn, unchanged since they were loaded. -/
def State.holdsImage (s : State) (image : Word) (rs : List Nat) : Bool :=
  rs.zipIdx.all fun rk => ((s.region rk.1).slots.find? 0).any fun c => c.image == image && c.record == rk.2 && !c.marked

/-- The records of a task's image, where it can be read. -/
def State.imageRecords (s : State) (p : Nat) (image : Word) : Option (List (List Byte)) :=
  match s.readImage (s.translate (some p)) image.toNat with
  | .bytes bs _ => if imageGood bs then some (recordsOf bs) else none
  | _ => none

/-- Where a task may be dispatched now: its regions, its anchor, its image's anchor, and the regions of its image's
records (R348). -/
structure Place where
  regions : List Nat
  anchor : Nat
  imageAt : Nat
  imageOn : List Nat

/-- Regions filled up to a demand with others, in their order. -/
def fillUp (n : Nat) (base others : List Nat) : Option (List Nat) :=
  let l := base ++ (others.filter fun r => !base.contains r).take (n - base.length)
  if l.length < n then none else some (sortNat l)

/-- A placement without an image, or with one that cannot be read. -/
def placePlain (x : Task) (local_ : List Nat) : Option Place :=
  match x.fixed with
  | some a =>
    if local_.contains a then (fillUp x.demand [a] local_).map fun l => ⟨l, a, a, []⟩ else none
  | none => (fillUp x.demand [] local_).map fun l => ⟨l, l.headD 0, l.headD 0, []⟩

/-- The regions on which records land from an anchor, where all are free. -/
def landAll (recs : List (List Byte)) (free : List Nat) (a : Nat) : Option (List Nat) :=
  match recs.mapM (landing a) with
  | some l => if l.all free.contains then some l else none
  | none => none

/-- A placement from an image's anchor. -/
def placeAt (x : Task) (recs : List (List Byte)) (free local_ : List Nat) (a : Nat) : Option Place :=
  match landAll recs free a with
  | none => none
  | some l =>
    let base := if x.fixed.isSome && !l.contains a then a :: l else l
    if !base.all free.contains then none
    else
      (fillUp (if recs.length = 1 then x.demand else base.length) base local_).map fun rs =>
        ⟨rs, if x.fixed.isSome then a else rs.headD 0, a, l⟩

/-- A placement is preferred to another: its regions hold the image, then it has the lowest region number (R348). -/
def State.better (s : State) (image : Word) (p q : Place) : Bool :=
  let hold (x : Place) : Bool := s.holdsImage image x.imageOn
  if hold p == hold q then (sortNat p.imageOn).headD 0 < (sortNat q.imageOn).headD 0 else hold p

/-- Where a task is placed (R348). Log entry 67 (DEDUCED). -/
def State.place (s : State) (t : Nat) (x : Task) : Option Place :=
  let free := (List.range 96).filter fun r => s.freeFor x.part r
  let local_ := free.filter fun r => dieOf r = t / 4096
  if x.image = 0 then placePlain x local_
  else
    match s.imageRecords x.part x.image with
    | none => placePlain x local_
    | some recs =>
      match x.fixed with
      | some a => placeAt x recs free local_ a
      | none =>
        let near := (local_.filter fun r => s.holdsImage x.image [r]) ++ local_.filter fun r => !s.holdsImage x.image [r]
        (List.range 24).foldl (fun (best : Option Place) k =>
          match best, placeAt x recs free near (t / 4096 * 24 + k) with
          | none, p => p
          | b, none => b
          | some b, some p => if s.better x.image p b then some p else some b) none

/-- A region is in the scheduling pool (R369, R372). -/
def State.pooled (s : State) (r : Nat) : Bool := s.group (groupOf r) == .pool

/-- What placing an image comes to. -/
inductive Placing where
  | wait
  | fail (cause : BitVec 8)
  | reject (w : Word)
  | ok (ps : List Placed)

/-- An image is read and placed from an anchor onto some regions. -/
def State.placing (s : State) (p loader : Nat) (image : Word) (a : Nat) (offered : List Nat) : Placing :=
  match s.readImage (s.translate (some p)) image.toNat with
  | .wait => .wait
  | .fail e _ => .fail e.cause
  | .bytes bs _ =>
    match Sys2Proof.Machine.loadBytes bs a (offered.filter s.pooled) 0 loader image s.sbufs with
    | .error w => .reject w
    | .ok ps => .ok ps

/-- What selection comes to (R346, R349); a fault with the record read, where one was. -/
inductive Choice where
  | fault (t : Nat) (cause : BitVec 8) (r : Option (List Word))
  | launch (t : Nat) (r : List Word) (p : Place)
  | resume (t : Nat)
  /-- stage i of a task: its regions, and what placing its image comes to -/
  | stage (t i : Nat) (rs : List Nat) (p : Placing)

/-- The first task of some that can be placed, or that is faulted at its dispatch. -/
def State.chooseFrom (s : State) : List Nat → Option Choice
  | [] => none
  | t :: ts =>
    let x := s.task t
    if x.state = .saved then
      match x.saved with
      | some v => if v.regions.all fun r => s.freeFor x.part r then some (.resume t) else s.chooseFrom ts
      | none => s.chooseFrom ts
    else
      match s.readTaskRec t with
      | .error .wait => s.chooseFrom ts
      | .error (.fail e _) => some (.fault t e.cause none)
      | .ok (r, _) =>
        if s.taskMalformed t r then some (.fault t causeACCESS (some r))
        else
          match s.place t { x with record := r } with
          | some p => some (.launch t r p)
          | none => s.chooseFrom ts

/-- The free regions of a task's partition on its die. -/
def State.freeOn (s : State) (t : Nat) : List Nat :=
  (List.range 96).filter fun r => s.freeFor (s.task t).part r && dieOf r = t / 4096

/-- The image of a stage at an unroll; 0 for none. -/
def Stage.image (g : Stage) (u : Nat) : Word := g.imgs.getD u.log2 0

/-- A place for an image among free regions of a die: the lowest. -/
def State.placeStage (s : State) (p d : Nat) (image : Word) (free : List Nat) : Option (Nat × List Nat) :=
  match s.imageRecords p image with
  | none => none
  | some recs => (List.range 24).findSome? fun k =>
      let a := d * 24 + k
      (landAll recs free a).map fun l => (a, sortNat l)

/-- What becomes of a stage that waits for regions, now (R349, R353): none where it is passed over.
Log entry 68 (DEDUCED). -/
def State.tryStage (s : State) (t i : Nat) (g : Stage) : Option Choice :=
  let p := (s.task t).part
  let image := g.image 1
  if image = 0 then some (.stage t i [] (.fail causeACCESS))
  else
    match s.placeStage p (t / 4096) image (s.freeOn t) with
    | none =>
      match s.placing p 0 image (t / 4096 * 24) [] with
      | .fail c => some (.stage t i [] (.fail c))
      | .reject w => if bitsOf w 56 8 = 0x0F then some (.stage t i [] (.reject w)) else none
      | _ => none
    | some (a, rs) =>
      match s.placing p (rs.headD 0) image a rs with
      | .wait => none
      | r => some (.stage t i rs r)

/-- The stages of a die that wait for regions: task, number, stage. -/
def State.waitingStages (s : State) (d : Nat) : List (Nat × Nat × Stage) :=
  (s.tasks.filter fun kt => kt.1 / 4096 = d && kt.2.state = .run && !kt.2.toFault && !s.deferred kt.2.part).flatMap fun kt =>
    (kt.2.stages.zipIdx.filter fun gi => gi.1.regions.isEmpty && !gi.1.ended).map fun gi => (kt.1, gi.2, gi.1)

/-- A waiting stage comes before a task, or before a stage of another task: by its task's PRIO, then by the ready times,
then by number (R349, R353). Log entry 68 (DEDUCED). -/
def State.stageBefore (s : State) (t u : Nat) (q : Nat) : Bool :=
  let x := s.task t
  let y := s.task u
  q < x.prio || (x.prio == q && (x.since < y.since || (x.since == y.since && t < u)))

/-- The first stage of a die that can be placed, or whose placing fails. -/
def State.chooseStage (s : State) (d : Nat) : Option Choice :=
  (s.waitingStages d).foldl (fun (best : Option (Nat × Choice)) g =>
    match best with
    | some b =>
      if s.stageBefore g.1 b.1 (s.task b.1).prio then ((s.tryStage g.1 g.2.1 g.2.2).map fun c => (g.1, c)).or best else best
    | none => (s.tryStage g.1 g.2.1 g.2.2).map fun c => (g.1, c)) none |>.map (·.2)

/-- The task a choice is of. -/
def Choice.task : Choice → Nat
  | .fault t _ _ | .launch t _ _ | .resume t | .stage t _ _ _ => t

/-- What a die's scheduler selects: the first of its waiting tasks and stages for which there is room (R349, R353). -/
def State.chosen (s : State) (d : Nat) : Option Choice :=
  match s.chooseFrom (s.waiting d), s.chooseStage d with
  | some c, some g => if s.stageBefore g.task c.task ((s.task c.task).effective s.now) then some g else some c
  | some c, none => some c
  | none, g => g

/-- The order number of the next dispatch. -/
def State.nextOrder (s : State) : Nat := (s.tasks.map (·.2.order)).foldl max 0 + 1

/-! ## Launch (R350, R353) -/

/-- Placed records are loaded and armed at once, in unarmed regions (R56, R57). -/
def State.armAtOnce (s : State) (t : Nat) (ps : List Placed) : State :=
  let slots := (ps.map (·.slot)).eraseDups
  slots.foldl (fun s k => s.armNow ((ps.filter fun p => p.slot == k).map (·.region)) k (some t)) (s.fillSlots ps)

/-- A control thread as launch sets it (R173, R350). -/
def Seq.launched (x : Seq) (t : Nat) (tvec entry : Word) : Seq :=
  { x with
    g := Tab.set [] 0 0 (wd (t % 4096))
    ras := []
    tm := false
    dbl := false
    dcause := 0
    raen := true
    lben := true
    esat := false
    cause := 0
    epc := 0
    tval := 0
    scratch := 0
    tvec := tvec &&& ~~~ 0xF
    btime := 0x10000
    energy := 0
    enOn := false
    senOn := false
    latch := 0
    tres := 0
    cond := if entry = 0 then .idle else .fetch entry
    asyncHang := none
    asyncPreempt := none
    asyncDbg := []
    blocks := []
    lbuf := []
    recent := []
    awaits := []
    waitDrain := false
    eccu := none }

/-- The sequencer of a region that runs no control thread of the task dispatched to it. -/
def Seq.quietly (x : Seq) : Seq :=
  { x with
    latch := 0
    cond := .idle
    asyncHang := none
    asyncPreempt := none
    asyncDbg := []
    blocks := [] }

/-- A stage record of a pipeline description (R353): images, input buffer, lock, first block. -/
structure StageRec where
  imgs : List Word
  inq : Nat
  lock : Bool
  entry : Word

def stageOf (w : List Word) : StageRec :=
  ⟨w.take 3, bitsOf (w.getD 3 0) 0 32, (w.getD 4 0).getLsbD 2, w.getD 5 0 &&& ~~~ 0xF⟩

/-- The stages that a pipeline description lists (R353). Log entry 68 (DEDUCED). -/
def State.readPipe (s : State) (p : Nat) (a : Word) : Except RunErr (List StageRec × State) :=
  match s.readVia (s.translate (some p)) a.toNat 16 with
  | .error e => .error e
  | .ok (h, s) =>
    let n := if numOf h % 64 = 0 then 64 else numOf h % 64
    match s.readAt (s.translate (some p)) (a.toNat + 16) (64 * n) with
    | .error e => .error e
    | .ok (bs, s) => .ok ((chunks 64 bs).map fun c => stageOf (bytesToWords c), s)

/-- What reading a task's pipeline at launch comes to; with the state that the reads leave. -/
inductive Staging where
  | wait
  | fail (cause : BitVec 8)
  | ok (l : List StageRec) (s : State)

/-- The stages of a task's pipeline, as its description lists them at launch (R353). -/
def State.staging (s : State) (t : Nat) : Staging :=
  let x := s.task t
  if x.pipe = 0 then .ok [] s
  else
    match s.readPipe x.part x.pipe with
    | .error .wait => .wait
    | .error (.fail e _) => .fail e.cause
    | .ok (gs, s) => .ok gs s

/-- A stage that waits for its regions. -/
def stageNew (g : StageRec) : Stage where
  regions := []
  thread := g.entry != 0
  entry := g.entry
  lock := g.lock
  imgs := g.imgs
  inq := g.inq
  unroll := 1
  highSince := none
  lowSince := none
  changed := 0
  ended := false
  next := 0
  extra := []
  gift := none

/-- CUR of a stage record is written (R353). -/
def State.writeCur (s : State) (t i u : Nat) : State :=
  let x := s.task t
  let a := x.pipe.toNat + 16 + 64 * i + 0x20
  let tr := s.translate (some x.part)
  match s.readVia tr a 1 with
  | .ok (bs, s) =>
    match s.writeVia tr a (bytesOf 1 (numOf bs / 4 * 4 + u.log2)) with
    | .ok s => s
    | .error _ => s
  | .error _ => s

/-- A stage of a task changes. -/
def Task.updStage (x : Task) (i : Nat) (f : Stage → Stage) : Task :=
  { x with stages := x.stages.zipIdx.map fun gi => if gi.2 = i then f gi.1 else gi.1 }

/-- A stage takes its regions, its image is loaded there and armed, and its thread starts; or its task is to be faulted
(R353). Log entry 68 (DEDUCED). -/
def State.startStage (s : State) (t i : Nat) (rs : List Nat) : Placing → State
  | .wait => s
  | .fail c => s.flagFault t c 0 (s.task t).anchor
  | .reject w => (s.log (s.task t).anchor none 0x0B 0 w 0).flagFault t causeCFGREJECT 0 (s.task t).anchor
  | .ok ps =>
    let g := ((s.task t).stages)[i]?
    let s := s.imageRead (s.translate (some (s.task t).part)) ((g.elim 0 fun g => g.image 1).toNat)
    let s := s.updTask t fun x =>
      { x.updStage i fun g => { g with regions := rs, changed := s.now } with regions := x.regions ++ rs }
    let s := rs.foldl (fun s r => (s.updRegion r Region.emptied).updSeq r Seq.quietly) s
    let s := (s.armAtOnce t ps).writeCur t i 1
    match g with
    | some g => if g.thread then s.updSeq (rs.headD 0) fun x => x.launched t ((s.task t).record.getD 6 0) g.entry else s
    | none => s

/-- TASK_SELECT (R346, R349, R353): the first task or stage that can be placed takes its regions, or is faulted. -/
def execTaskSelect (die : Nat) (s : State) : Outcome State Fault Refusal :=
  match s.chosen die with
  | some (.fault t c r) =>
    .next (((s.countWalk (s.taskRec t)).updTask t fun x => { x with record := r.getD x.record }).faultNow t c 0 0)
  | some (.launch t r p) =>
    .next ((s.countWalk (s.taskRec t)).updTask t fun x =>
      { x with
        state := .launch
        record := r
        regions := p.regions
        anchor := p.anchor
        imageAt := p.imageAt
        imageOn := p.imageOn
        order := s.nextOrder
        toFault := false
        chainDone := false
        stages := [] })
  | some (.stage t i rs p) => .next (s.startStage t i rs p)
  | _ => .next s

/-- What arming IMAGE at launch needs: nothing, the slots that hold it, or records to load. Log entry 67 (DEDUCED). -/
def State.launchImage (s : State) (t : Nat) : Placing :=
  let x := s.task t
  if x.image = 0 || (!x.imageOn.isEmpty && s.holdsImage x.image x.imageOn) then .ok []
  else s.placing x.part x.anchor x.image x.imageAt x.regions

/-- A task is faulted at launch, its anchor's log taking a rejection (R32, R347). Log entry 67 (DEDUCED). -/
def State.launchReject (s : State) (t : Nat) (w : Word) : State :=
  (s.log (s.task t).anchor none 0x0B 0 w 0).faultNow t causeCFGREJECT 0 (s.task t).anchor

/-- The steps of R350, once IMAGE is placed; the stages of a pipeline are to be selected (R353).
Log entry 67 (DEDUCED). -/
def State.launch (s : State) (t : Nat) (ps : List Placed) (stages : List StageRec) : State :=
  let x := s.task t
  let tvec := x.record.getD 6 0
  let s := x.regions.foldl (fun s r => s.updRegion r Region.emptied) s
  let s := x.regions.foldl (fun s r => s.updSeq r Seq.quietly) s
  let s := if x.image = 0 then s
    else if ps.isEmpty then s.armNow x.imageOn 0 (some t) else s.armAtOnce t ps
  let s := s.updSeq x.anchor fun y => y.launched t tvec x.entry
  let d := t / 4096
  let s := if x.chain = 0 then s
    else s.setRace d { s.race d with queue := (s.race d).queue ++ [(t, x.chain)] }
  s.updTask t fun y => { y with state := .run, chainDone := false, stages := stages.map stageNew }

/-- TASK_LAUNCH (R347, R350). -/
def execTaskLaunch (die task : Nat) (s : State) : Outcome State Fault Refusal :=
  let t := die * 4096 + task
  let x := s.task t
  if x.state != .launch then .next s
  else
    match s.launchImage t with
    | .wait => .next s
    | .fail c => .next (s.faultNow t c 0 x.anchor)
    | .reject w => .next (s.launchReject t w)
    | .ok ps =>
      match s.staging t with
      | .wait => .next s
      | .fail c => .next (s.faultNow t c 0 x.anchor)
      | .ok l s => .next ((if ps.isEmpty then s else s.imageRead (s.translate (some x.part)) x.image.toNat).launch t ps l)

/-! ## End and fault (R351, R364) -/

/-- A sequencer has halted (R54). -/
def Cond.isHalted : Cond → Bool
  | .halted _ => true
  | _ => false

/-- TASK_END (R351, R353); a context that was on its way when the task ended is drained once it is armed. -/
def execTaskEnd (die task : Nat) (s : State) : Outcome State Fault Refusal :=
  let t := die * 4096 + task
  let x := s.task t
  if x.state = .ending then .next (s.finishTask t)
  else if x.state = .run && !x.toFault && (x.entry = 0 || (s.seq x.anchor).cond.isHalted) && (x.chain = 0 || x.chainDone) &&
      x.stages.all (·.ended) then .next (s.endTask t)
  else .next s

/-- A control thread of a task that has stopped by R163. -/
def State.stoppedThread (s : State) (t : Nat) : Option Nat :=
  (s.task t).regions.find? fun r => (s.task t).threadOn r && (s.seq r).cond == .stopped

/-- TASK_FAULT (R364): FAULT is written, the task's threads and chain stop, and its contexts drain. -/
def execTaskFault (die task : Nat) (s : State) : Outcome State Fault Refusal :=
  let t := die * 4096 + task
  if (s.task t).state != .run then .next s
  else
    let s := match s.stoppedThread t with
      | some r =>
        let y := s.seq r
        s.flagFault t (if y.dbl then y.dcause else y.cause) 0 r
      | none => s
    let x := s.task t
    if !x.toFault then .next s
    else
      let s := x.regions.foldl (fun s r => (s.dropMarked r).updSeq r Seq.stopNow) (s.writeFault t x.faultWord)
      .next ((s.saveChain t).endTask t)

/-! ## Pre-emption (R356) -/

/-- Room is being made, or will be, in a partition on a die. -/
def State.makingRoom (s : State) (d p : Nat) : Bool :=
  s.tasks.any fun kt => kt.1 / 4096 = d && kt.2.part = p &&
    (kt.2.state = .saving || kt.2.state = .ending || (kt.2.state = .run && (kt.2.preempt.isSome || kt.2.grace.isSome)))

/-- The task to pre-empt for a base priority: the lowest, the latest dispatched among equals. Log entry 70 (DEDUCED). -/
def State.victim (s : State) (d p prio : Nat) : Option Nat :=
  (s.tasks.foldl (fun (best : Option (Nat × Task)) kt =>
    if kt.1 / 4096 = d && kt.2.part = p && kt.2.preemptible && kt.2.prio < prio then
      match best with
      | some b => if kt.2.prio < b.2.prio || (kt.2.prio == b.2.prio && b.2.order < kt.2.order) then some kt else best
      | none => some kt
    else best) none).map (·.1)

/-- A waiting task cannot be placed now. Log entry 70 (DEDUCED). -/
def State.unplaced (s : State) (t : Nat) : Bool := (s.chooseFrom [t]).isNone

/-- PREEMPT_DECISION (R356, R372). Log entry 70 (DEDUCED). -/
def execPreemptDecision (die : Nat) (s : State) : Outcome State Fault Refusal :=
  let quiescing := List.find? (fun kt : Nat × Task => kt.1 / 4096 = die && kt.2.preemptible && kt.2.preempt.isNone &&
    kt.2.grace.isNone && kt.2.regions.any fun r => s.group (groupOf r) == .quiescing) s.tasks
  match quiescing with
  | some kt => .next (s.decidePreempt kt.1 3)
  | none =>
    match (s.waiting die).findSome? fun t =>
        if s.unplaced t && !s.makingRoom die (s.task t).part then s.victim die (s.task t).part (s.task t).prio else none with
    | some v => .next (s.decidePreempt v 1)
    | none => .next s

/-! ## Save and restore (R359, R360, R384) -/

/-- A context of a task that is being saved has let its SLUICE pass; a stalled generator keeps what it has (R363). -/
def Ctx.savedOut (c : Ctx) : Bool :=
  c.mode == .save && c.empty && c.copies.isEmpty &&
    c.elems.all fun ke => (ke.2.passage == .passed || !ke.2.hasPorts) && (ke.2.quiet || ke.2.stall.isSome)

/-- An element as a save keeps it: its accumulator resolved where NRSAVE asks for it. -/
def Elem.kept_ (nr : Bool) (el : Elem) : Elem := if nr then { el with acc := el.acc.map Image.canonical } else el

/-- The task's state moves out of the module's tables, and the queues of its regions are empty to the next (R342); its
stream buffers stay (R302). -/
def State.putAway (s : State) (t : Nat) (v : Saved) : State :=
  let x := s.task t
  let ids := s.taskCtxs t
  let v := { v with
    ctxs := ids.filterMap fun c => (s.ctxs.find? c).map fun k =>
      { k with elems := k.elems.map fun ke => (ke.1, ke.2.kept_ x.nrsave) }
    seqs := (x.regions.filter x.threadOn).map fun r => (r, s.seq r)
    bufs := s.sbufs.filter fun kb => kb.2.owner == some t
    mxs := x.regions.map fun r => (r, (s.region r).mxmode) }
  let s := ids.foldl State.disarm s
  let s := x.regions.foldl (fun s r =>
    (s.updRegion r Region.emptied).updSeq r fun y => { y.quietly with tres := 0 }) s
  s.updTask t fun x => { x with state := .saved, since := s.now, regions := [], saved := some v }

/-- SAVE_COMPLETE (R359, R360). -/
def execSaveComplete (die task : Nat) (s : State) : Outcome State Fault Refusal :=
  let t := die * 4096 + task
  let x := s.task t
  match x.state, x.saved with
  | .saving, some v =>
    let cs := s.taskCtxs t
    if cs.any fun c => (s.ctxs.find? c).any fun k => k.mode == .run then .next (s.sluice t)
    else if s.taskArming t || s.anyFrozen x.regions || !v.copies.isEmpty || !(cs.all fun c => (s.ctxs.find? c).all Ctx.savedOut) ||
        !(x.regions.all fun r => (s.seq r).awaits.isEmpty && !(s.seq r).committing) then .next s
    else
      match s.writeImages t (v.chain.getD 0) v.chain.isSome ((sortNat x.regions).zipIdx) with
      | .error .wait => .next s
      | .error (.fail e _) => .next ((cs.foldl State.discard s).faultNow t e.cause 0 x.anchor)
      | .ok s => .next (s.putAway t v)
  | _, _ => .next s

/-- The image of a saved task's region j. -/
def Task.imageAddr (x : Task) (j : Nat) : Nat := x.saveArea.toNat + 0x800000 * j

/-- sq.status, sq.energy and sq.encfg of a saved task's threads are written back first (R384): the rest of its sequencers
waits for the whole image. Log entry 71 (DEDUCED). -/
def State.resumeMeters (s : State) (t : Nat) (v : Saved) : List (Nat × Nat) → Except RunErr State
  | [] => .ok s
  | (r, j) :: rest =>
    if v.seqs.has r then
      match s.readAt (s.walkTr t) ((s.task t).imageAddr j) 0x1000 with
      | .error e => .error e
      | .ok (bs, _) =>
        let ws := bytesToWords bs
        State.resumeMeters (s.updSeq r fun y =>
          { y.quietly.withStatus (wordOff ws 0x248) with
            energy := (wordOff ws 0x268).setWidth 48
            enOn := (wordOff ws 0x270).getLsbD 0
            senOn := (wordOff ws 0x270).getLsbD 1 }) t v rest
    else State.resumeMeters (s.updSeq r Seq.quietly) t v rest

/-- TASK_RESUME (R349, R359, R384): a saved task selected on its own regions; its meter runs again from here.
Log entry 71 (DEDUCED). -/
def execTaskResume (die task : Nat) (s : State) : Outcome State Fault Refusal :=
  let t := die * 4096 + task
  match s.chosen die, (s.task t).saved with
  | some (.resume u), some v =>
    if u != t then .next s
    else
      let w := s.updTask t fun x => { x with state := .resuming, regions := v.regions, order := s.nextOrder }
      match w.resumeMeters t v ((sortNat v.regions).zipIdx) with
      | .ok w => .next w
      | .error .wait => .next s
      | .error (.fail e _) => .next (w.faultNow t e.cause 0 (w.task t).anchor)
  | _, _ => .next s

/-- What is read back of one region: the pieces it lies in, the first 4 KiB, its site records, the bytes of its live buffers,
and its MN section. -/
structure ImageBack where
  region : Nat
  pieces : List (Nat × Nat)
  head : List Word
  recs : List Byte
  bufs : List Byte
  nodes : List (Nat × Nat)

/-- The bytes of the element section ahead of the live buffers. -/
def Saved.recordBytes (v : Saved) (r : Nat) (nr : Bool) : Nat :=
  (v.ctxs.map fun c => ((c.elemsIn r).map fun ke => (ke.2.record 0 ke.1 nr).length).sum).sum

def Saved.bufsIn (v : Saved) (r : Nat) : List (Nat × SBuf) := v.bufs.filter fun kb => field kb.1 30 24 = r

/-- One region's image is read back. Log entry 71 (DEDUCED). -/
def State.readBack (s : State) (t : Nat) (v : Saved) (r j : Nat) : Except RunErr ImageBack :=
  let a := (s.task t).imageAddr j
  let n := v.recordBytes r (s.task t).nrsave
  let m := ((v.bufsIn r).map (·.2.cap)).sum
  match s.runAt (s.walkTr t) .read a 0x1000, s.runAt (s.walkTr t) .read (a + 0x1000) (n + m) with
  | .ok hs, .ok rs =>
    let ws := bytesToWords (s.loadRuns hs)
    let es := s.loadRuns rs
    if (ws.getD 0 0).getLsbD 49 then
      match s.runAt (s.walkTr t) .read (a + 0x400000) nodesSize with
      | .ok ps => .ok ⟨r, hs ++ rs, ws, es.take n, es.drop n, ps⟩
      | .error e => .error e
    else .ok ⟨r, hs ++ rs, ws, es.take n, es.drop n, []⟩
  | .error e, _ => .error e
  | _, .error e => .error e

def State.readBacks (s : State) (t : Nat) (v : Saved) : List (Nat × Nat) → Except RunErr (List ImageBack)
  | [] => .ok []
  | (r, j) :: rest =>
    match s.readBack t v r j, s.readBacks t v rest with
    | .ok b, .ok bs => .ok (b :: bs)
    | .error e, _ => .error e
    | _, .error e => .error e

/-- A buffer holds what it held when it was saved. -/
def SBuf.untouched (a b : SBuf) : Bool :=
  a.head == b.head && a.occ == b.occ && a.toks == b.toks && a.ready == b.ready && a.popped == b.popped && a.taken == b.taken && a.skipping == b.skipping

/-- The bytes of live buffers are written back, of those that still hold what was saved (R302).
Log entry 71 (DEDUCED). -/
def State.fillBufs (s : State) : List (Nat × SBuf) → List Byte → State
  | [], _ => s
  | (h, b) :: rest, bs =>
    let s := if (s.sbufs.find? h).all b.untouched then
        s.store (mnAddr (field h 30 24) (field h 23 19) b.base) (bs.take b.cap)
      else s
    State.fillBufs s rest (bs.drop b.cap)

/-- A region's part of a restore. Log entry 71 (DEDUCED). -/
def State.restoreRegion (s : State) (v : Saved) (b : ImageBack) : State :=
  let r := b.region
  let s := if b.nodes.isEmpty then s else s.nodesIn (nodesAddr r) b.nodes
  let s := s.fillBufs (v.bufsIn r) b.bufs
  let s := s.updRegion r fun x => { x.fromImage b.head with mxmode := v.mxs.getD r 0 }
  match v.seqs.find? r with
  | none => s
  | some y => s.updSeq r fun x =>
      let z := ({ x with cause := y.cause, epc := y.epc, tval := y.tval, cond := y.cond } : Seq).fromImage b.head
      { z with
        waitDrain := y.waitDrain
        esat := x.esat
        energy := x.energy
        enOn := x.enOn
        senOn := x.senOn }

/-- The elements of a region of the saved contexts, each as its record holds it, in the order of the records (R360). -/
def reloadElems (nr : Bool) (r : Nat) : Tab Elem → List Byte → Tab Elem
  | [], _ => []
  | (k, el) :: rest, bs =>
    if k / 96 = r then (k, el.reload nr bs) :: reloadElems nr r rest (bs.drop (el.record 0 (k % 96) nr).length)
    else (k, el) :: reloadElems nr r rest bs

/-- The saved contexts with their elements as an image holds them. Log entry 71 (DEDUCED). -/
def Saved.reloaded (v : Saved) (nr : Bool) (b : ImageBack) : Saved :=
  { v with ctxs := v.ctxs.map fun c =>
      if c.regions.contains b.region then { c with elems := reloadElems nr b.region c.elems b.recs } else c }

/-- Parked tokens return to the heads of an input (R360), as far as its arc has slots (R88); each takes the place of a
request (R94). Log entry 71 (DEDUCED). -/
def Arc.unpark (els : Tab Elem) (a : Arc) : Arc :=
  match els.find? (a.dst / 4) with
  | none => a
  | some el =>
    let ts := (el.park.filter fun p => p.1 = a.dst % 4).map (·.2)
    let k := a.cap - a.toks.length
    let n := min k ts.length
    { a with
      toks := ((ts.take k).map fun t => ⟨t, true, 0⟩) ++ a.toks
      back := ts.drop k
      req := if a.demand then a.req + a.reqFly - n else a.req
      reqFly := if a.demand then 0 else a.reqFly }

/-- A saved context is armed again, as it stood; halt points withhold what they cover (R108, R112).
Log entry 71 (DEDUCED). -/
def State.rearm (s : State) (c : Ctx) : State :=
  let id := s.nextCtx
  let c' := { c with
    mode := .run
    copies := []
    arcs := c.arcs.map fun a => a.unpark c.elems
    elems := c.elems.map fun ke => (ke.1, { ke.2 with passage := .open, park := [], stall := none, fault := none }) }
  let s := { s with nextCtx := id + 1, ctxs := s.ctxs.put id c' }
  (c.regions.foldl (fun s r => s.updRegion r fun x => { x with armed := some id, ctx := c.slot }) s).refreshHalts id

/-- Where the task's chain stood, as the images hold it (R360): HSEQ where FLAGS[3] is set. Log entry 71 (DEDUCED). -/
def chainBack (bs : List ImageBack) : Option Word :=
  match bs with
  | b :: _ => if (b.head.getD 0 0).getLsbD 51 then some (wordOff b.head 0x10 &&& ~~~ 0x3F) else none
  | [] => none

/-- RESTORE_COMPLETE (R347, R359, R360). Log entry 71 (DEDUCED). -/
def execRestoreComplete (die task : Nat) (s : State) : Outcome State Fault Refusal :=
  let t := die * 4096 + task
  let x := s.task t
  match x.state, x.saved with
  | .resuming, some v =>
    match s.readBacks t v ((sortNat v.regions).zipIdx) with
    | .error .wait => .next s
    | .error (.fail e _) => .next (s.faultNow t e.cause 0 x.anchor)
    | .ok bs =>
      let s := bs.foldl (fun s b => ((s.readDone b.pieces).countWalk x.saveArea.toNat).restoreRegion v b) s
      let s := { s with sbufs := v.bufs.foldl (fun t kb => if t.has kb.1 then t else t.put kb.1 kb.2) s.sbufs }
      let s := ((bs.foldl (fun v b => v.reloaded x.nrsave b) v).ctxs.foldl State.rearm s).assignRoles
      let s := match chainBack bs with
        | some a => s.setRace die { s.race die with
            queue := (s.race die).queue ++ [(t, if v.chainWaits && v.chain == some a then a ||| 1 else a)] }
        | none => s
      .next (s.updTask t fun x => { x with state := .run, saved := none })
  | _, _ => .next s

/-! ## Pipelines (R353, R354) -/

/-- Some stage of a die is being changed. -/
def State.stageChanging (s : State) (d : Nat) : Bool :=
  s.tasks.any fun kt => kt.1 / 4096 = d && kt.2.stages.any fun g => g.next != 0

/-- The contexts armed in a stage's regions drain, and the stage is to run at another unroll, with some more regions held
for it, or those it gives up meant for another stage. Log entry 68 (DEDUCED). -/
def State.beginStage (s : State) (t i u : Nat) (extra : List Nat) (gift : Option (Nat × Nat)) : State :=
  let rs := match ((s.task t).stages)[i]? with
    | some g => g.regions
    | none => []
  let s := s.updTask t fun x =>
    { x.updStage i fun g => { g with next := u, extra := extra, gift := gift } with regions := x.regions ++ extra }
  let s := extra.foldl (fun s r => s.updRegion r Region.emptied) s
  ((rs.filterMap fun r => (s.region r).armed).eraseDups).foldl (fun s c => s.close c .drain) s

/-- A stage that has its regions may be changed now. -/
def Stage.free (g : Stage) (now : Nat) : Bool :=
  !g.lock && g.changed ≤ now && g.next = 0 && !g.ended && !g.regions.isEmpty

/-- A stage may be changed now, and its regions are in the pool, so that the loader takes its new mapping (R372).
Log entry 68 (DEDUCED). -/
def State.changeable (s : State) (g : Stage) : Bool := g.free s.now && g.regions.all s.pooled

/-- A donor: another stage of the partition on the die, of low occupancy, that runs at unroll 2 or 4 (R354).
Log entry 68 (DEDUCED). -/
def State.donor (s : State) (t i : Nat) : Option (Nat × Nat × Stage) :=
  s.tasks.findSome? fun kt =>
    if kt.1 / 4096 = t / 4096 && kt.2.part = (s.task t).part && kt.2.state = .run then
      (kt.2.stages.zipIdx.find? fun gi => (kt.1, gi.2) != (t, i) && s.changeable gi.1 && 2 ≤ gi.1.unroll &&
        gi.1.image (gi.1.unroll / 2) != 0 && !gi.1.thread && gi.1.lowSince.any fun h => h + 4000 ≤ s.now).map fun gi =>
          (kt.1, gi.2, gi.1)
    else none

/-- The regions that a stage takes beside its own at an unroll, given those it may take. -/
def State.takes (s : State) (t u : Nat) (g : Stage) (more : List Nat) : Option (List Nat) :=
  (s.placeStage (s.task t).part (t / 4096) (g.image u) (g.regions ++ more)).map fun p =>
    p.2.filter fun r => !g.regions.contains r

/-- The scheduler decides to widen a stage, or to narrow a donor first (R354). -/
def State.decideWiden (s : State) (t i : Nat) (g : Stage) : State :=
  let x := s.task t
  let wide := s.changeable g && g.unroll ≤ 2 && !g.thread && g.image (2 * g.unroll) != 0 &&
    g.highSince.any fun h => h + 4000 ≤ s.now
  if x.state != .run || s.stageChanging (t / 4096) || !wide then s
  else
    match s.takes t (2 * g.unroll) g (s.freeOn t) with
    | some extra => s.beginStage t i (2 * g.unroll) extra none
    | none =>
      match s.donor t i with
      | some (u, j, h) => s.beginStage u j (h.unroll / 2) [] (some (t, i))
      | none => s

/-- A stage has its new regions: it gives up the others, to the stage they are meant for where that takes them (R354). -/
def State.regroup (s : State) (t i : Nat) (g : Stage) (u : Nat) (rs : List Nat) : State :=
  let s := s.updTask t fun x =>
    { x.updStage i fun g =>
        { g with
          regions := rs
          unroll := u
          next := 0
          extra := []
          gift := none
          highSince := none
          lowSince := none
          changed := s.now + 16000 } with
      regions := (x.regions.filter fun r => !g.regions.contains r && !g.extra.contains r) ++ rs }
  match g.gift.bind fun k => (((s.task k.1).stages)[k.2]?).map fun h => (k, h) with
  | none => s
  | some (k, h) =>
    if !s.changeable h || (s.task k.1).state != .run then s
    else
      match s.takes k.1 (2 * h.unroll) h (s.freeOn k.1) with
      | some extra => s.beginStage k.1 k.2 (2 * h.unroll) extra none
      | none => s

/-- A stage whose drain is complete takes its new mapping; where that can no longer be placed, its old one.
Log entry 68 (DEDUCED). -/
def State.finishStage (s : State) (t i : Nat) (g : Stage) : State :=
  let x := s.task t
  let d := t / 4096
  let busy := g.regions.any fun r => (s.region r).armed.isSome || s.armings.any fun a => a.regions.contains r
  if busy then s
  else
    let offered := g.regions ++ g.extra
    let fits (u : Nat) : Option (Nat × Nat × List Nat) := (s.placeStage x.part d (g.image u) offered).map fun p => (u, p)
    match (fits g.next).or (fits g.unroll) with
    | none =>
      match s.placing x.part (g.regions.headD 0) (g.image g.next) (d * 24) [] with
      | .fail c => s.flagFault t c 0 (g.regions.headD 0)
      | .reject w => (s.log x.anchor none 0x0B 0 w 0).flagFault t causeCFGREJECT 0 (g.regions.headD 0)
      | _ => s
    | some (u, a, rs) =>
      match s.placing x.part (rs.headD 0) (g.image u) a rs with
      | .wait => s
      | .fail c => s.flagFault t c 0 (g.regions.headD 0)
      | .reject w => (s.log x.anchor none 0x0B 0 w 0).flagFault t causeCFGREJECT 0 (g.regions.headD 0)
      | .ok ps =>
        (((s.imageRead (s.translate (some x.part)) (g.image u).toNat).armAtOnce t ps).writeCur t i u).regroup t i g u rs

/-- STAGE_WIDEN (R354): a change is decided, or, once the stage has drained, carried out. -/
def execStageWiden (die task stage : Nat) (s : State) : Outcome State Fault Refusal :=
  let t := die * 4096 + task
  match ((s.task t).stages)[stage]? with
  | none => .next s
  | some g =>
    if (s.task t).state != .run then .next s
    else if g.next = 0 then .next (s.decideWiden t stage g) else .next (s.finishStage t stage g)

/-! ## Corrected errors (R365, R366) -/

/-- The number of the window that a time lies in. Log entry 74 (DESIGN CHOICE). -/
def State.windowNow (s : State) : Nat := s.now / 2 ^ s.svc.wexp

/-- ERROR_WINDOW_EXPIRE (R365). Log entry 72 (DEDUCED). -/
def execErrorWindowExpire (s : State) : Outcome State Fault Refusal :=
  if s.windowNow = s.errorWindow then .next s else .next { s with errors := [], errorWindow := s.windowNow }

/-- A structure becomes lasting (R366): an MN bank (kind 0, index region * 128 + bank) or a link lane (kind 1, index
region * 768 + site * 8 + lane) takes its region from the pool, a pseudo-channel (kind 2, index stack * 64 + channel)
makes TYPE 4 entries, and an adapter lane group (kind 3) is removed. Log entry 72 (DEDUCED). -/
def State.makeLasting (s : State) (kind index : Nat) : State :=
  let s := { s with lasting := s.lasting ++ [kind * 2 ^ 20 + index] }
  match kind with
  | 0 => s.updRegion (index / 128) fun x => { x with lost := true }
  | 1 => s.updRegion (index / 768) fun x => { x with lost := true }
  | 2 =>
    let parts := (List.range 8).filter fun p => (s.part p).valid
    let recs : List FaultRec := (Config.affectedPages index).flatMap fun a =>
      parts.map fun p => ⟨p, 0, 4, 0, 0, wd a, s.now, .nothing⟩
    { s with pageFaults := s.pageFaults ++ recs }.flushFaults
  | _ => s

/-- CORRECTED_ERROR (R365). Log entry 72 (DEDUCED). -/
def execCorrectedError (kind index : Nat) (s : State) : Outcome State Fault Refusal :=
  let s := afterOf s (execErrorWindowExpire s)
  let k := kind * 2 ^ 20 + index
  let n := s.errors.getD k 0 + 1
  let s := { s with errors := s.errors.put k n }
  if s.svc.thr != 0 && s.svc.thr ≤ n && !s.lasting.contains k then .next (s.makeLasting kind index) else .next s

/-! ## The time base (R180, R354, R382, R390) -/

/-- A task is resident on its anchor (R382). -/
def Task.resident (x : Task) : Bool :=
  match x.state with
  | .launch | .run | .ending | .saving | .resuming => true
  | _ => false

/-- The occupancy of a stage's input buffer is sampled (R354). -/
def State.sampleStage (s : State) (g : Stage) : Stage :=
  match s.sbufs.find? g.inq with
  | none => { g with highSince := none, lowSince := none }
  | some b =>
    { g with
      highSince := if 3 * b.cap < 4 * b.occ then some (g.highSince.getD s.now) else none
      lowSince := if 4 * b.occ < b.cap then some (g.lowSince.getD s.now) else none }

/-- The end of a millpond hold after 1.5 µs (R389). -/
def Region.endHold (x : Region) (now : Nat) : Region :=
  match x.millpond with
  | some t => if t + 1500 ≤ now then { x with millpond := none, lastMove := now } else x
  | none => x

/-- Idle intervals are observed (R390), and holds of the regulator end (R389). -/
def State.sampleRegion (s : State) (r : Nat) (x : Region) : Region :=
  (if s.regionIdle r then { x with idleSince := some (x.idleSince.getD s.now) } else x.endIdle s.now).endHold s.now

/-- A block is to commit now, or to resolve to a trap (R157). Log entry 74 (DESIGN CHOICE). -/
def State.resolvable (s : State) (q : Nat) (b : Blk) : Bool :=
  (s.ready q b && s.roomFor q b) || (b.settled && !(s.trapsOf q b).isEmpty)

/-- Time does not pass a moment at which something is to happen: a block that is ready commits, and one that has a trap
takes it, by its deadline, and one that has done neither ends within 64 ns after it (R85, R161); a hang is declared
when it is due (R114); a region is gated as its idle period begins (R390); power is measured every µs (R393).
Log entry 74 (DESIGN CHOICE). -/
def State.timeHeld (s : State) : Bool :=
  s.svc.nextMeasure ≤ s.now ||
  (s.seqs.any fun kq => kq.2.cond == .run && kq.2.blocks.head?.any fun b =>
    b.deadline + 64 ≤ s.now || (b.deadline ≤ s.now + 1 && s.now < b.deadline && s.resolvable kq.1 b)) ||
  s.regions.any fun kr => s.hung kr.1 || s.gateDue kr.1

/-- STATIC_ENERGY_TICK (R382): sq.time advances by one ns; static power is added where SEN is set and a task resident,
and what the scheduler samples is sampled. Log entry 74 (DESIGN CHOICE). -/
def execStaticEnergyTick (s : State) : Outcome State Fault Refusal :=
  if s.timeHeld then .next s
  else
    let s := { s with now := s.now + 1 }.endRelease
    let s := s.tasks.foldl (fun s kt =>
      if kt.2.resident && (s.seq kt.2.anchor).senOn then
        s.updSeq kt.2.anchor fun y => y.addEnergy (s.staticMw kt.2.anchor)
      else s) s
    .next { s with
      tasks := s.tasks.map fun kt => (kt.1, { kt.2 with stages := kt.2.stages.map s.sampleStage })
      regions := s.regions.map fun kr => (kr.1, s.sampleRegion kr.1 kr.2) }

/-! ## Power control (R393, R394) -/

/-- A die whose slack meets a test may change: at most once in four generations (R394). -/
def State.mayChange (s : State) (d : Nat) (p : Int → Int → Bool) : Bool :=
  match s.coll.slack.find? d with
  | none => false
  | some (n, m) => m != 0 && p (n * 20) m &&
      match s.coll.changed.find? d with
      | some g => g + 4 ≤ s.coll.gens
      | none => true

/-- The die is early: its slack is above 5 %. -/
def State.early (s : State) (d : Nat) : Bool := s.mayChange d fun n m => decide (m < n)

/-- The die is late: its slack is below -5 %. -/
def State.late (s : State) (d : Nat) : Bool := s.mayChange d fun n m => decide (n < -m)

/-- The collective control is enabled, and a die took part in its last generation (R394). -/
def State.collective (s : State) (d : Nat) : Bool := s.svc.coll.getLsbD 31 && s.coll.slack.has d

/-- A step down of a die is allowed (R394): of an early one, or of one that took no part. Log entry 79 (DEDUCED). -/
def State.collAllows (s : State) (d : Nat) (down : Bool) : Bool :=
  !s.collective d || if down then s.early d else s.late d

/-- The codes of some regions change by a step, and their dies are marked as changed. -/
def State.stepCodes (s : State) (rs : List Nat) (down : Bool) : State :=
  let s := rs.foldl (fun s r => s.updRegion r fun x => x.setCur (if down then x.vcur - 1 else x.vcur + 1)) s
  if s.svc.coll.getLsbD 31 then
    { s with coll := { s.coll with
        changed := ((rs.map dieOf).eraseDups).foldl (fun t d => t.put d s.coll.gens) s.coll.changed } }
  else s

/-- The stage of a partition to narrow: unroll above 1, of the lowest input occupancy. -/
def State.narrowable (s : State) (p : Nat) : Option (Nat × Nat × Nat) :=
  let occ (g : Stage) : Nat := ((s.sbufs.find? g.inq).map (·.occ)).getD 0
  let l := s.tasks.flatMap fun kt =>
    if kt.2.part = p && kt.2.state = .run && !s.stageChanging (kt.1 / 4096) then
      kt.2.stages.zipIdx.filterMap fun gi =>
        if s.changeable gi.1 && 2 ≤ gi.1.unroll && gi.1.image (gi.1.unroll / 2) != 0 && !gi.1.thread then
          some (kt.1, gi.2, gi.1)
        else none
    else []
  (l.foldl (fun (best : Option (Nat × Nat × Stage)) x =>
    match best with
    | some b => if occ x.2.2 < occ b.2.2 then some x else best
    | none => some x) none).map fun x => (x.1, x.2.1, x.2.2.unroll / 2)

/-- The valid partitions. -/
def State.validParts (s : State) : List Nat := (List.range 8).filter fun p => (s.part p).valid

/-- The budget of a partition in mW, times the number of regions of valid partitions (R393). -/
def State.budget (s : State) (p : Nat) : Int :=
  let n : Nat := (s.validParts.map fun k => (s.part k).regions.length).sum
  let floors : Nat := s.floorsBut 8
  1000 * ((s.part p).floor * n + ((s.svc.cap : Int) - floors) * (s.part p).regions.length)

/-- What a partition draws above its budget, in the same unit; its own power is a figure of the rails at the moment. -/
def State.excess (s : State) (p : Nat) : Int :=
  let n : Nat := (s.validParts.map fun k => (s.part k).regions.length).sum
  (Config.partPower s.free p : Int) * n - s.budget p

/-- A partition takes its place among others, the one furthest above its budget first. -/
def State.insertPart (s : State) (p : Nat) : List Nat → List Nat
  | [] => [p]
  | k :: t => if s.excess k ≤ s.excess p then p :: k :: t else k :: s.insertPart p t

/-- The partitions that steps are taken against, in order: those above their floors (R393). -/
def State.overFloor (s : State) : List Nat :=
  (s.validParts.filter fun p => (s.part p).floor * 1000 < Config.partPower s.free p).foldr (fun p l => s.insertPart p l) []

/-- The regions of a partition whose codes may be lowered a step (R393, R394). -/
def State.lowerable (s : State) (p : Nat) : List Nat :=
  (s.part p).regions.filter fun r => (s.region r).vcur != 0 && s.collAllows (dieOf r) true

/-- One step of R393: lower voltages, else narrow a stage, else defer dispatch, each of the first partition that admits
it. Log entry 79 (DEDUCED). -/
def State.throttle (s : State) : State :=
  let note (s : State) (k p : Nat) (l : List Nat) : State :=
    { s with svc := { s.svc with steps := (k, p, l) :: s.svc.steps, lastStep := s.now } }
  let ps := s.overFloor
  match ps.find? fun p => !(s.lowerable p).isEmpty with
  | some p =>
    if !s.svc.steps.isEmpty && s.now < s.svc.lastStep + 4000 then s else note (s.stepCodes (s.lowerable p) true) 1 p (s.lowerable p)
  | none =>
    match ps.findSome? fun p => (s.narrowable p).map fun x => (p, x) with
    | some (p, t, i, u) => note (s.beginStage t i u [] none) 2 p [t, i]
    | none =>
      match ps.find? fun p => !s.deferred p with
      | some p => note s 3 p []
      | none => s

/-- A narrowed stage goes back to twice its unroll: the state, and whether the step is undone. -/
def State.widenBack (s : State) (t i : Nat) : State × Bool :=
  match ((s.task t).stages)[i]? with
  | none => (s, true)
  | some g =>
    if (s.task t).state != .run || g.ended || 2 < g.unroll || g.image (2 * g.unroll) = 0 then (s, true)
    else if s.stageChanging (t / 4096) || !s.changeable g then (s, false)
    else
      match s.takes t (2 * g.unroll) g (s.freeOn t) with
      | some extra => (s.beginStage t i (2 * g.unroll) extra none, true)
      | none => (s, false)

/-- The step taken last is undone. Log entry 79 (DEDUCED). -/
def State.unthrottle (s : State) : State :=
  match s.svc.steps with
  | [] => s
  | (2, _, l) :: rest =>
    match s.widenBack (l.getD 0 0) (l.getD 1 0) with
    | (s, true) => { s with svc := { s.svc with steps := rest } }
    | (s, false) => s
  | (1, p, l) :: rest =>
    let up := l.filter fun r => (s.region r).vcur < (s.region r).vceil
    let go := up.filter fun r => s.collAllows (dieOf r) false
    let left := up.filter fun r => !go.contains r
    let s := s.stepCodes go false
    { s with svc := { s.svc with steps := if left.isEmpty then rest else (1, p, left) :: rest } }
  | _ :: rest => { s with svc := { s.svc with steps := rest } }

/-- The regions of late dies that are stepped up, where the budget of their partition allows (R394).
Log entry 79 (DEDUCED). -/
def State.raisable (s : State) : List Nat :=
  s.validParts.flatMap fun p =>
    if s.excess p ≤ 0 then
      (s.part p).regions.filter fun r =>
        s.collective (dieOf r) && s.late (dieOf r) && (s.region r).vcur < (s.region r).vceil
    else []

/-- Late dies are stepped up. -/
def State.raiseLate (s : State) : State :=
  let rs := s.raisable
  if rs.isEmpty then s else s.stepCodes rs false

/-- POWER_MEASURE (R393): every µs the mean of the last ten samples, in mW, is held against the cap.
Log entry 79 (DEDUCED). -/
def execPowerMeasure (mw : Nat) (s : State) : Outcome State Fault Refusal :=
  if s.now < s.svc.nextMeasure then .next s
  else
    let l := (mw :: s.svc.samples).take 10
    let cap := s.svc.cap * 1000 * l.length
    let s := { s with svc := { s.svc with samples := l, nextMeasure := (s.now / 1000 + 1) * 1000 } }
    if cap < l.sum then
      .next { s.throttle.draw with svc := { s.throttle.draw.svc with below := none } }
    else
      let s := s.raiseLate.draw
      if l.sum * 100 < cap * 95 then
        let since := s.svc.below.getD s.now
        let s := { s with svc := { s.svc with below := some since } }
        if since + 100000 ≤ s.now then .next s.unthrottle else .next s
      else .next { s with svc := { s.svc with below := none } }

end Sys2Proof.Machine
end

