-- ==== Sys2Proof/Machine/Dispatch.lean ====
section
/-! DEFINITION. What each instruction does: one arm a constructor, each one call of its meaning. -/

namespace Sys2Proof.Machine

open Host (Outcome)

/-- The meaning of an instruction in a state. -/
def exec (i : Instr) (s : State) : Host.Outcome State Fault Refusal :=
  match i with
  | .rdg f => Sys2Proof.Machine.execRdg f s
  | .wrg f => Sys2Proof.Machine.execWrg f s
  | .mov f => Sys2Proof.Machine.execMov f s
  | .movi f => Sys2Proof.Machine.execMovi f s
  | .movhi f => Sys2Proof.Machine.execMovhi f s
  | .null f => Sys2Proof.Machine.execNull f s
  | .snul f => Sys2Proof.Machine.execSnul f s
  | .add f => Sys2Proof.Machine.execAdd f s
  | .sub f => Sys2Proof.Machine.execSub f s
  | .mul f => Sys2Proof.Machine.execMul f s
  | .mulh f => Sys2Proof.Machine.execMulh f s
  | .mulhu f => Sys2Proof.Machine.execMulhu f s
  | .div f => Sys2Proof.Machine.execDiv f s
  | .divu f => Sys2Proof.Machine.execDivu f s
  | .rem f => Sys2Proof.Machine.execRem f s
  | .remu f => Sys2Proof.Machine.execRemu f s
  | .and f => Sys2Proof.Machine.execAnd f s
  | .or f => Sys2Proof.Machine.execOr f s
  | .xor f => Sys2Proof.Machine.execXor f s
  | .shl f => Sys2Proof.Machine.execShl f s
  | .shr f => Sys2Proof.Machine.execShr f s
  | .sra f => Sys2Proof.Machine.execSra f s
  | .rol f => Sys2Proof.Machine.execRol f s
  | .min f => Sys2Proof.Machine.execMin f s
  | .max f => Sys2Proof.Machine.execMax f s
  | .minu f => Sys2Proof.Machine.execMinu f s
  | .maxu f => Sys2Proof.Machine.execMaxu f s
  | .clz f => Sys2Proof.Machine.execClz f s
  | .popc f => Sys2Proof.Machine.execPopc f s
  | .ext f => Sys2Proof.Machine.execExt f s
  | .addi f => Sys2Proof.Machine.execAddi f s
  | .andi f => Sys2Proof.Machine.execAndi f s
  | .ori f => Sys2Proof.Machine.execOri f s
  | .xori f => Sys2Proof.Machine.execXori f s
  | .shli f => Sys2Proof.Machine.execShli f s
  | .shri f => Sys2Proof.Machine.execShri f s
  | .srai f => Sys2Proof.Machine.execSrai f s
  | .muli f => Sys2Proof.Machine.execMuli f s
  | .teq f => Sys2Proof.Machine.execTeq f s
  | .tne f => Sys2Proof.Machine.execTne f s
  | .tlt f => Sys2Proof.Machine.execTlt f s
  | .tltu f => Sys2Proof.Machine.execTltu f s
  | .tle f => Sys2Proof.Machine.execTle f s
  | .tleu f => Sys2Proof.Machine.execTleu f s
  | .tgt f => Sys2Proof.Machine.execTgt f s
  | .tgtu f => Sys2Proof.Machine.execTgtu f s
  | .tge f => Sys2Proof.Machine.execTge f s
  | .tgeu f => Sys2Proof.Machine.execTgeu f s
  | .teqi f => Sys2Proof.Machine.execTeqi f s
  | .tnei f => Sys2Proof.Machine.execTnei f s
  | .tlti f => Sys2Proof.Machine.execTlti f s
  | .tgei f => Sys2Proof.Machine.execTgei f s
  | .fadd f => Sys2Proof.Machine.execFadd f s
  | .fsub f => Sys2Proof.Machine.execFsub f s
  | .fmul f => Sys2Proof.Machine.execFmul f s
  | .fdiv f => Sys2Proof.Machine.execFdiv f s
  | .fma f => Sys2Proof.Machine.execFma f s
  | .fmin f => Sys2Proof.Machine.execFmin f s
  | .fmax f => Sys2Proof.Machine.execFmax f s
  | .fcvt f => Sys2Proof.Machine.execFcvt f s
  | .fteq f => Sys2Proof.Machine.execFteq f s
  | .ftlt f => Sys2Proof.Machine.execFtlt f s
  | .ftle f => Sys2Proof.Machine.execFtle f s
  | .fsqrt f => Sys2Proof.Machine.execFsqrt f s
  | .ld f => Sys2Proof.Machine.execLd f s
  | .lds f => Sys2Proof.Machine.execLds f s
  | .st f => Sys2Proof.Machine.execSt f s
  | .amoadd f => Sys2Proof.Machine.execAmoadd f s
  | .amoswp f => Sys2Proof.Machine.execAmoswp f s
  | .amocas f => Sys2Proof.Machine.execAmocas f s
  | .amomin f => Sys2Proof.Machine.execAmomin f s
  | .amomax f => Sys2Proof.Machine.execAmomax f s
  | .amoand f => Sys2Proof.Machine.execAmoand f s
  | .amoor f => Sys2Proof.Machine.execAmoor f s
  | .fence f => Sys2Proof.Machine.execFence f s
  | .br f => Sys2Proof.Machine.execBr f s
  | .bri f => Sys2Proof.Machine.execBri f s
  | .call f => Sys2Proof.Machine.execCall f s
  | .calli f => Sys2Proof.Machine.execCalli f s
  | .ret f => Sys2Proof.Machine.execRet f s
  | .jtab f => Sys2Proof.Machine.execJtab f s
  | .loop f => Sys2Proof.Machine.execLoop f s
  | .scall f => Sys2Proof.Machine.execScall f s
  | .trap f => Sys2Proof.Machine.execTrap f s
  | .eret f => Sys2Proof.Machine.execEret f s
  | .cfgl f => Sys2Proof.Machine.execCfgl f s
  | .cfga f => Sys2Proof.Machine.execCfga f s
  | .drain f => Sys2Proof.Machine.execDrain f s
  | .tcnt f => Sys2Proof.Machine.execTcnt f s
  | .spush f => Sys2Proof.Machine.execSpush f s
  | .spop f => Sys2Proof.Machine.execSpop f s
  | .space f => Sys2Proof.Machine.execSpace f s
  | .inj f => Sys2Proof.Machine.execInj f s
  | .cfgw f => Sys2Proof.Machine.execCfgw f s
  | .bar f => Sys2Proof.Machine.execBar f s
  | .bwait f => Sys2Proof.Machine.execBwait f s
  | .bph f => Sys2Proof.Machine.execBph f s
  | .flgs f => Sys2Proof.Machine.execFlgs f s
  | .flgc f => Sys2Proof.Machine.execFlgc f s
  | .flgt f => Sys2Proof.Machine.execFlgt f s
  | .flgw f => Sys2Proof.Machine.execFlgw f s
  | .tagw f => Sys2Proof.Machine.execTagw f s
  | .tagf f => Sys2Proof.Machine.execTagf f s
  | .tagc f => Sys2Proof.Machine.execTagc f s
  | .depd f => Sys2Proof.Machine.execDepd f s
  | .depr f => Sys2Proof.Machine.execDepr f s
  | .cpch f => Sys2Proof.Machine.execCpch f s
  | .cpst f => Sys2Proof.Machine.execCpst f s
  | .cpab f => Sys2Proof.Machine.execCpab f s
  | .sysr f => Sys2Proof.Machine.execSysr f s
  | .sysw f => Sys2Proof.Machine.execSysw f s
  | .halt f => Sys2Proof.Machine.execHalt f s
  | .waiti f => Sys2Proof.Machine.execWaiti f s
  | .blockFetch q => Sys2Proof.Machine.execBlockFetch q s
  | .blockDecode q => Sys2Proof.Machine.execBlockDecode q s
  | .blockResolve q => Sys2Proof.Machine.execBlockResolve q s
  | .blockCommit q => Sys2Proof.Machine.execBlockCommit q s
  | .blkhang q => Sys2Proof.Machine.execBlkhang q s
  | .runaheadBlockStart q => Sys2Proof.Machine.execRunaheadBlockStart q s
  | .dbghalt q => Sys2Proof.Machine.execDbghalt q s
  | .preempt die task reason => Sys2Proof.Machine.execPreempt die task reason s
  | .preemptGraceExpire die task => Sys2Proof.Machine.execPreemptGraceExpire die task s
  | .registerWrite q id v => Sys2Proof.Machine.execRegisterWrite q id v s
  | .sqStatusWrite q v => Sys2Proof.Machine.execSqStatusWrite q v s
  | .rasdWrite q v => Sys2Proof.Machine.execRasdWrite q v s
  | .dbgCtlWrite q v => Sys2Proof.Machine.execDbgCtlWrite q v s
  | .dbgHaltWrite q k v => Sys2Proof.Machine.execDbgHaltWrite q k v s
  | .dbgStep q v => Sys2Proof.Machine.execDbgStep q v s
  | .hangThaw q v => Sys2Proof.Machine.execHangThaw q v s
  | .hangDiscard q v => Sys2Proof.Machine.execHangDiscard q v s
  | .flogCtlWrite q v => Sys2Proof.Machine.execFlogCtlWrite q v s
  | .flogRdWrite q v => Sys2Proof.Machine.execFlogRdWrite q v s
  | .hangDeclaration r => Sys2Proof.Machine.execHangDeclaration r s
  | .tokenVisible p => Sys2Proof.Machine.execTokenVisible p s
  | .requestArrival p => Sys2Proof.Machine.execRequestArrival p s
  | .strayControlDiscard p => Sys2Proof.Machine.execStrayControlDiscard p s
  | .sluicePark p => Sys2Proof.Machine.execSluicePark p s
  | .remoteFrameReceive peer seq handle words => Sys2Proof.Machine.execRemoteFrameReceive peer seq handle words s
  | .remoteRetransmit peer k => Sys2Proof.Machine.execRemoteRetransmit peer k s
  | .remotePeerTimeout peer => Sys2Proof.Machine.execRemotePeerTimeout peer s
  | .contextArm c => Sys2Proof.Machine.execContextArm c s
  | .drainComplete c => Sys2Proof.Machine.execDrainComplete c s
  | .phaseEnd c => Sys2Proof.Machine.execPhaseEnd c s
  | .barrierArrival k => Sys2Proof.Machine.execBarrierArrival k s
  | .copyChainStart die ch => Sys2Proof.Machine.execCopyChainStart die ch s
  | .copyRecordRead die ch => Sys2Proof.Machine.execCopyRecordRead die ch s
  | .copyWriteUnit die ch => Sys2Proof.Machine.execCopyWriteUnit die ch s
  | .copyRecordComplete die ch => Sys2Proof.Machine.execCopyRecordComplete die ch s
  | .headraceRecordRead die => Sys2Proof.Machine.execHeadraceRecordRead die s
  | .headraceSectionComplete die => Sys2Proof.Machine.execHeadraceSectionComplete die s
  | .taskAllocate die task => Sys2Proof.Machine.execTaskAllocate die task s
  | .taskSelect die => Sys2Proof.Machine.execTaskSelect die s
  | .taskLaunch die task => Sys2Proof.Machine.execTaskLaunch die task s
  | .taskEnd die task => Sys2Proof.Machine.execTaskEnd die task s
  | .preemptDecision die => Sys2Proof.Machine.execPreemptDecision die s
  | .saveComplete die task => Sys2Proof.Machine.execSaveComplete die task s
  | .taskResume die task => Sys2Proof.Machine.execTaskResume die task s
  | .restoreComplete die task => Sys2Proof.Machine.execRestoreComplete die task s
  | .taskFault die task => Sys2Proof.Machine.execTaskFault die task s
  | .taskResetByHost die task => Sys2Proof.Machine.execTaskResetByHost die task s
  | .taskReleaseByHost die task => Sys2Proof.Machine.execTaskReleaseByHost die task s
  | .stageWiden die task stage => Sys2Proof.Machine.execStageWiden die task stage s
  | .pagerResolve part => Sys2Proof.Machine.execPagerResolve part s
  | .correctedError kind index => Sys2Proof.Machine.execCorrectedError kind index s
  | .quiesce v => Sys2Proof.Machine.execQuiesce v s
  | .quiesceComplete die col => Sys2Proof.Machine.execQuiesceComplete die col s
  | .retain v => Sys2Proof.Machine.execRetain v s
  | .retainComplete die col => Sys2Proof.Machine.execRetainComplete die col s
  | .gate v => Sys2Proof.Machine.execGate v s
  | .gateComplete die col => Sys2Proof.Machine.execGateComplete die col s
  | .release v => Sys2Proof.Machine.execRelease v s
  | .groupSelectDie v => Sys2Proof.Machine.execGroupSelectDie v s
  | .wake v => Sys2Proof.Machine.execWake v s
  | .wakeComplete die col => Sys2Proof.Machine.execWakeComplete die col s
  | .pwrCapWrite v => Sys2Proof.Machine.execPwrCapWrite v s
  | .pwrErrlogClear v => Sys2Proof.Machine.execPwrErrlogClear v s
  | .pwrVsetWrite v => Sys2Proof.Machine.execPwrVsetWrite v s
  | .voltageSlew r => Sys2Proof.Machine.execVoltageSlew r s
  | .pwrEvalWrite v => Sys2Proof.Machine.execPwrEvalWrite v s
  | .partitionLoad v => Sys2Proof.Machine.execPartitionLoad v s
  | .powerMeasure mw => Sys2Proof.Machine.execPowerMeasure mw s
  | .millpondHold r pct => Sys2Proof.Machine.execMillpondHold r pct s
  | .millpondRelease r pct => Sys2Proof.Machine.execMillpondRelease r pct s
  | .regionIdleGate r => Sys2Proof.Machine.execRegionIdleGate r s
  | .regionIdleWake r => Sys2Proof.Machine.execRegionIdleWake r s
  | .hostMemoryWindow part va write data => Sys2Proof.Machine.execHostMemoryWindow part va write data s
  | .hostTaskPost v => Sys2Proof.Machine.execHostTaskPost v s
  | .hostArmPost v => Sys2Proof.Machine.execHostArmPost v s
  | .attestationRequest nonce => Sys2Proof.Machine.execAttestationRequest nonce s
  | .moduleReset stages => Sys2Proof.Machine.execModuleReset stages s
  | .regaccRead target id => Sys2Proof.Machine.execRegaccRead target id s
  | .regaccWrite target id v => Sys2Proof.Machine.execRegaccWrite target id v s
  | .accessPerformed q blk ix => Sys2Proof.Machine.execAccessPerformed q blk ix s
  | .tilePortWrite => Sys2Proof.Machine.execTilePortWrite s
  | .tileExchange => Sys2Proof.Machine.execTileExchange s
  | .controlTokenPassage => Sys2Proof.Machine.execControlTokenPassage s
  | .vadd => Sys2Proof.Machine.execVadd s
  | .vsub => Sys2Proof.Machine.execVsub s
  | .vmul => Sys2Proof.Machine.execVmul s
  | .vmin => Sys2Proof.Machine.execVmin s
  | .vmax => Sys2Proof.Machine.execVmax s
  | .vabs => Sys2Proof.Machine.execVabs s
  | .vneg => Sys2Proof.Machine.execVneg s
  | .vadds => Sys2Proof.Machine.execVadds s
  | .vsubs => Sys2Proof.Machine.execVsubs s
  | .vand => Sys2Proof.Machine.execVand s
  | .vor => Sys2Proof.Machine.execVor s
  | .vxor => Sys2Proof.Machine.execVxor s
  | .vshl => Sys2Proof.Machine.execVshl s
  | .vshr => Sys2Proof.Machine.execVshr s
  | .vsra => Sys2Proof.Machine.execVsra s
  | .vcmp => Sys2Proof.Machine.execVcmp s
  | .vcmpi => Sys2Proof.Machine.execVcmpi s
  | .vsel => Sys2Proof.Machine.execVsel s
  | .vaddi => Sys2Proof.Machine.execVaddi s
  | .vcvt => Sys2Proof.Machine.execVcvt s
  | .vscl => Sys2Proof.Machine.execVscl s
  | .vfma => Sys2Proof.Machine.execVfma s
  | .vexp2 => Sys2Proof.Machine.execVexp2 s
  | .vlog2 => Sys2Proof.Machine.execVlog2 s
  | .vrcp => Sys2Proof.Machine.execVrcp s
  | .vrsq => Sys2Proof.Machine.execVrsq s
  | .vtanh => Sys2Proof.Machine.execVtanh s
  | .vsigm => Sys2Proof.Machine.execVsigm s
  | .vrsum => Sys2Proof.Machine.execVrsum s
  | .vrmax => Sys2Proof.Machine.execVrmax s
  | .vtrn => Sys2Proof.Machine.execVtrn s
  | .hmix => Sys2Proof.Machine.execHmix s
  | .vmask => Sys2Proof.Machine.execVmask s
  | .mma => Sys2Proof.Machine.execMma s
  | .sysm => Sys2Proof.Machine.execSysm s
  | .aclr => Sys2Proof.Machine.execAclr s
  | .res => Sys2Proof.Machine.execRes s
  | .resn => Sys2Proof.Machine.execResn s
  | .acmp => Sys2Proof.Machine.execAcmp s
  | .astr => Sys2Proof.Machine.execAstr s
  | .ald => Sys2Proof.Machine.execAld s
  | .aadd => Sys2Proof.Machine.execAadd s
  | .tld => Sys2Proof.Machine.execTld s
  | .txch => Sys2Proof.Machine.execTxch s
  | .temit => Sys2Proof.Machine.execTemit s
  | .bufw => Sys2Proof.Machine.execBufw s
  | .bufr => Sys2Proof.Machine.execBufr s
  | .bufrp => Sys2Proof.Machine.execBufrp s
  | .bufrn => Sys2Proof.Machine.execBufrn s
  | .scrw => Sys2Proof.Machine.execScrw s
  | .scrr => Sys2Proof.Machine.execScrr s
  | .agseq => Sys2Proof.Machine.execAgseq s
  | .agld => Sys2Proof.Machine.execAgld s
  | .agst => Sys2Proof.Machine.execAgst s
  | .aggat => Sys2Proof.Machine.execAggat s
  | .agsct => Sys2Proof.Machine.execAgsct s
  | .agatm => Sys2Proof.Machine.execAgatm s
  | .agDescriptorFetch => Sys2Proof.Machine.execAgDescriptorFetch s
  | .agMemoryResponse => Sys2Proof.Machine.execAgMemoryResponse s
  | .agPageFault => Sys2Proof.Machine.execAgPageFault s
  | .steer => Sys2Proof.Machine.execSteer s
  | .steern => Sys2Proof.Machine.execSteern s
  | .sink => Sys2Proof.Machine.execSink s
  | .merge => Sys2Proof.Machine.execMerge s
  | .mergea => Sys2Proof.Machine.execMergea s
  | .mergec => Sys2Proof.Machine.execMergec s
  | .carry => Sys2Proof.Machine.execCarry s
  | .inv => Sys2Proof.Machine.execInv s
  | .repeatTok => Sys2Proof.Machine.execRepeatTok s
  | .repeatp => Sys2Proof.Machine.execRepeatp s
  | .const => Sys2Proof.Machine.execConst s
  | .count => Sys2Proof.Machine.execCount s
  | .ratem => Sys2Proof.Machine.execRatem s
  | .scsplit => Sys2Proof.Machine.execScsplit s
  | .scjoin => Sys2Proof.Machine.execScjoin s
  | .rdadd => Sys2Proof.Machine.execRdadd s
  | .rdmax => Sys2Proof.Machine.execRdmax s
  | .rdmin => Sys2Proof.Machine.execRdmin s
  | .fan => Sys2Proof.Machine.execFan s
  | .ingr => Sys2Proof.Machine.execIngr s
  | .egr => Sys2Proof.Machine.execEgr s
  | .ingrq => Sys2Proof.Machine.execIngrq s
  | .egrq => Sys2Proof.Machine.execEgrq s
  | .flset => Sys2Proof.Machine.execFlset s
  | .flclr => Sys2Proof.Machine.execFlclr s
  | .fltst => Sys2Proof.Machine.execFltst s
  | .flwait => Sys2Proof.Machine.execFlwait s
  | .flgate => Sys2Proof.Machine.execFlgate s
  | .errorWindowExpire => Sys2Proof.Machine.execErrorWindowExpire s
  | .staticEnergyTick => Sys2Proof.Machine.execStaticEnergyTick s
  | .extest => Sys2Proof.Machine.execExtest s
  | .idcode => Sys2Proof.Machine.execIdcode s
  | .samplePreload => Sys2Proof.Machine.execSamplePreload s
  | .sqhaltStop => Sys2Proof.Machine.execSqhaltStop s
  | .sqhaltRelease => Sys2Proof.Machine.execSqhaltRelease s
  | .bypass => Sys2Proof.Machine.execBypass s

end Sys2Proof.Machine
end

