-- ==== Sys2Proof/Machine/Step.lean ====
section
/-! DEFINITION. One step of the module. -/

namespace Sys2Proof.Machine

open Host (Outcome)

/-- One step: what State.pick chooses, run by exec. Log entry 1 (DESIGN CHOICE). -/
def step (s : State) : Host.Outcome State Fault Refusal :=
  match s.pick with
  | .idle t => .next t
  | .run i t => exec i t
  | .outside m t => .next (t.outside m)
  | .bad => .fault .noSuchParty

/-- The state whose next step runs the instruction of these bits. Log entry 1 (DESIGN CHOICE). -/
def State.withFetchWord (s : State) (nbits w : Nat) : State := s.placeWord nbits w

end Sys2Proof.Machine
end

