-- ==== Sys2Proof/Safety.lean ====
section
/-! DEFINITION. The words the statements are made of: what a well-formed state is, when an instruction of a block or an
element of the fabric may fire, and readings of words as integers. -/

namespace Sys2Proof

open Machine

/-! ## States -/

/-- The memory of a state is in canonical form. -/
def memoryWf (s : State) : Prop := Memory.wf s.mem = true

/-- An instruction answers a next state that meets a condition. -/
def completes (i : Instr) (s : State) (p : State → Prop) : Prop := ∃ t, exec i s = .next t ∧ p t

/-- Two states hold the same byte at every address. -/
def sameMemory (s t : State) : Prop := ∀ a, Memory.byte t.mem a = Memory.byte s.mem a

/-! ## Blocks (R45) -/

/-- The instruction at the focus of s, in block b, has not fired, its predicate matches, and its block is the oldest or
the instruction may run ahead: it fires once its operands are there (R45, R171). -/
def mayFire (s : State) (b : Blk) (pr : Pr) (ahead : Bool) : Prop :=
  s.blk s.cur s.curBlk = some b ∧ s.curIx ∉ b.fired ∧ b.predOk s.curIx pr = true ∧ (s.curBlk = 0 ∨ ahead = true)

/-- The next state in which the block in focus has become b. -/
def becomes (s : State) (b : Blk) : Host.Outcome State Fault Refusal := .next (s.setBlk s.cur s.curBlk b)

/-- The next state in which the block in focus has become b, and something else has followed. -/
def becomesThen (s : State) (b : Blk) (post : State → State) : Host.Outcome State Fault Refusal :=
  .next (post (s.setBlk s.cur s.curBlk b))

/-- The block in focus has become b, and what younger blocks have read ahead of an acquire is held against memory (R273). -/
def acquires (s : State) (b : Blk) : Host.Outcome State Fault Refusal := becomesThen s b fun t => t.afterAcquire s.cur

/-- The block in focus has become b, and younger blocks' loads of bytes that it stores to are repeated (R172). -/
def storesAt (s : State) (b : Blk) (pa n : Nat) : Host.Outcome State Fault Refusal :=
  becomesThen s b fun t => t.afterStore s.cur pa n

/-- The block in focus has become b by a read, which is counted, and which later reads may not go back behind (R310). -/
def readsBy (s : State) (b : Blk) (r : LoadRec) : Host.Outcome State Fault Refusal :=
  becomesThen s b fun t => (t.countLoad s.cur b r).afterRead s.cur s.curBlk r

/-- An instruction whose firing may take firings back: a read, a store, an atomic or an acquire (R172, R273). -/
def retakes : Instr → Bool
  | .ld _ | .lds _ | .st _ | .amoadd _ | .amoswp _ | .amocas _ | .amomin _ | .amomax _ | .amoand _ | .amoor _ | .jtab _
  | .spop _ | .bwait _ | .bph _ | .flgt _ | .flgw _ | .tagw _ | .sysr _ => true
  | _ => false

/-- An instruction that loads or writes configuration as it fires (R56, R288). -/
def loadsConfig : Instr → Bool
  | .cfgl _ | .cfgw _ => true
  | _ => false

/-- The operand in a slot of the instruction at the focus. -/
def operandAt (s : State) (b : Blk) (slot : Nat) (w : Word) : Prop := b.operand s.curIx slot = some w

/-- The block after an instruction of a class has fired and given each target its result. -/
def gave (s : State) (b : Blk) (cls : Nat) (ts : List Target) (w : Word) : Blk :=
  (b.fire s.curIx cls).deliver ts (.word w)

/-- The block after an instruction of a class has fired and raised a trap condition on itself. -/
def trapped (s : State) (b : Blk) (cls : Nat) (cause : BitVec 8) (tval : Word) : Blk :=
  (b.fire s.curIx cls).raise s.curIx cause tval

/-! ## Words as integers (R120) -/

/-- n of R121: 64, or 32 with `.w`. -/
def opWidth (m : BitVec 3) : Nat := if m.getLsbD 0 then 32 else 64

/-- The low n bits of a word as a natural number, and as a two's complement integer. -/
def unsignedAt (n : Nat) (w : Word) : Int := (w.toNat % 2 ^ n : Nat)
def signedAt (n : Nat) (w : Word) : Int :=
  if unsignedAt n w < 2 ^ (n - 1) then unsignedAt n w else unsignedAt n w - 2 ^ n

/-- The low n bits of an exact result, sign-extended to 64 bits (R120). -/
def resultAt (n : Nat) (v : Int) : Word := (BitVec.ofInt n v).signExtend 64

/-- Bit i of the two operands at width n decides bit i of the result. -/
def bitwiseAt (n : Nat) (g : Bool → Bool → Bool) (l r : Word) : Int :=
  ((List.range n).map fun i => if g (l.getLsbD i) (r.getLsbD i) then (2 : Int) ^ i else 0).sum

/-- The exact integer results a two-operand operation of format T2 gives, by its energy class (R120, R131): width,
operands. -/
def intResult (c : T2 → Instr) (cls : Nat) (g : Nat → Word → Word → Int) : Prop :=
  ∀ (s : State) (b : Blk) (f : T2) (l r : Word), mayFire s b f.pr f.a → operandAt s b slotL l → operandAt s b slotR r →
    exec (c f) s = becomes s (gave s b cls [f.t1, f.t2] (resultAt (opWidth f.m) (g (opWidth f.m) l r)))

/-- A compare of format T2 delivers 1 where its condition holds and 0 elsewhere (R125). -/
def compareResult (c : T2 → Instr) (g : Nat → Word → Word → Prop) : Prop :=
  ∀ (s : State) (b : Blk) (f : T2) (l r : Word), mayFire s b f.pr f.a → operandAt s b slotL l → operandAt s b slotR r →
    (g (opWidth f.m) l r → exec (c f) s = becomes s (gave s b 0 [f.t1, f.t2] 1)) ∧
    (¬ g (opWidth f.m) l r → exec (c f) s = becomes s (gave s b 0 [f.t1, f.t2] 0))

/-- A one-operand operation of format T2 delivers a function of its mode and operand. -/
def unaryResult (c : T2 → Instr) (cls : Nat) (g : BitVec 3 → Word → Word) : Prop :=
  ∀ (s : State) (b : Blk) (f : T2) (l : Word), mayFire s b f.pr f.a → operandAt s b slotL l →
    exec (c f) s = becomes s (gave s b cls [f.t1, f.t2] (g f.m l))

/-- An immediate operation delivers its 64-bit result of the operand and sign-extend(IMM12) (R124). -/
def immediateResult (c : TI → Instr) (cls : Nat) (g : Word → Int → Int) : Prop :=
  ∀ (s : State) (b : Blk) (f : TI) (l : Word), mayFire s b f.pr f.a → operandAt s b slotL l →
    exec (c f) s = becomes s (gave s b cls [f.t1] (resultAt 64 (g l f.imm.toInt)))

/-- A shift by an immediate from 0 to 63 (R124). -/
def shiftResult (c : TI → Instr) (g : Word → Nat → Int) : Prop :=
  ∀ (s : State) (b : Blk) (f : TI) (l : Word), f.imm.toNat < 64 → mayFire s b f.pr f.a → operandAt s b slotL l →
    exec (c f) s = becomes s (gave s b 0 [f.t1] (resultAt 64 (g l f.imm.toNat)))

/-! ## Floating-point values (R126) -/

/-- The operand of a floating-point operation: bits [31:0] or all 64, as an exact value. -/
def floatAt (m : BitVec 3) (w : Word) : ExactVal :=
  if m.getLsbD 0 then valueOf fmtF64 w.toNat else valueOf fmtF32 (w.toNat % 2 ^ 32)

/-- An exact value rounded once to nearest even, zero-extended. -/
def floatResult (m : BitVec 3) (v : ExactVal) : Word :=
  if m.getLsbD 0 then BitVec.ofNat 64 (roundTo fmtF64 .rne v) else BitVec.ofNat 64 (roundTo fmtF32 .rne v)

/-- A two-operand floating-point operation delivers a function of its mode and operands. -/
def floatPair (c : T2 → Instr) (g : BitVec 3 → Word → Word → Word) : Prop :=
  ∀ (s : State) (b : Blk) (f : T2) (l r : Word), mayFire s b f.pr f.a → operandAt s b slotL l → operandAt s b slotR r →
    exec (c f) s = becomes s (gave s b 2 [f.t1, f.t2] (g f.m l r))

/-! ## Accesses of a block (R132-R136) -/

/-- An access of n bytes by the sequencer in focus passes the checks of R134, and its physical address is pa. -/
def accessAt (s : State) (perm : Perm) (va : Word) (n pa : Nat) : Prop := s.checkAccess s.cur perm va n = .ok pa

/-- No store, SNUL or atomic of the block has taken a load/store id. -/
def idFree (b : Blk) (id : Nat) : Prop := ∀ m ∈ b.mem, m.lsid = id → ∃ sc p q, m.eff = .fence sc p q

/-! ## The checks of a block (R18) -/

/-- Word k of a block has a listed opcode, and is seen as r; and one of the words is, and names slot sl of instruction k. -/
def rawAt (ws : List (BitVec 32)) (k : Nat) (r : Raw) : Prop := ∃ w, ws[k]? = some w ∧ rawOf w = some r
def producesFor (ws : List (BitVec 32)) (k sl : Nat) (p : Raw) : Prop := ∃ w ∈ ws, rawOf w = some p ∧ k * 4 + sl ∈ p.targets

/-- Instruction k of a block fails a check of its own: its word, a target, a producer of one of its slots, its register,
its load/store id, its exit, or a die that only the service sequencer may name (R16, R18, R49, R146). -/
def ownCheckFails (h : BitVec 128) (ws : List (BitVec 32)) (svc : Bool) (k : Nat) : Prop :=
  ∃ w, ws[k]? = some w ∧ ((∀ i, decode w ≠ .ok i) ∨ ∃ i r, decode w = .ok i ∧ rawOf w = some r ∧
    ((∃ t ∈ r.targets, t / 4 = k ∨ (∀ c, ¬ rawAt ws (t / 4) c) ∨
        ∃ c, rawAt ws (t / 4) c ∧ (t % 4 ∉ c.slots ∨ wrgOnly r.kind = true ∧ ¬ (isWrg c.kind = true ∧ t % 4 = slotL))) ∨
     (∃ sl ∈ r.slots, (∀ p, ¬ producesFor ws k sl p) ∨
        r.a = true ∧ ∃ p, producesFor ws k sl p ∧ p.a = false ∧ isRdg p.kind = false) ∨
     (∃ f, i = .wrg f ∧ h.getLsbD (64 + f.g.toNat) = false) ∨
     (∃ n, storeId i = some n ∧ h.getLsbD (32 + n) = false) ∨
     (∃ n, loadId i = some n ∧ h.getLsbD (32 + n) = true) ∨
     (∃ x, exitOf i = some x ∧ (h.extractLsb' 16 3).toNat < x) ∨ (svc = false ∧ dieField i ≠ 0)))

/-- A register of WMASK, an id of SMASK or an exit that no instruction of the block names. -/
def blockCheckFails (h : BitVec 128) (ws : List (BitVec 32)) : Prop :=
  let named := fun (p : Instr → Prop) => ∃ w ∈ ws, ∃ i, decode w = .ok i ∧ p i
  (∃ g < 64, h.getLsbD (64 + g) = true ∧ ¬ named fun i => ∃ f, i = .wrg f ∧ f.g.toNat = g) ∨
    (∃ n < 32, h.getLsbD (32 + n) = true ∧ ¬ named fun i => storeId i = some n) ∨
    ∃ x ≤ (h.extractLsb' 16 3).toNat, ¬ named fun i => exitOf i = some x

/-- An instruction of the block other than the one in focus has fired, and p holds of it. -/
def otherFired (s : State) (b : Blk) (p : Instr → Prop) : Prop :=
  ∃ k ∈ b.fired, k ≠ s.curIx ∧ ∃ i, b.instr k = some i ∧ p i

/-- A FENCE of the block has fired for a load/store id; a FENCE or a load has. -/
def fencedId (s : State) (b : Blk) (id : Nat) : Prop := otherFired s b fun i => ∃ f, i = .fence f ∧ f.lsid.toNat = id
def loadedId (s : State) (b : Blk) (id : Nat) : Prop := otherFired s b fun i => loadId i = some id

/-- Another exit of the block has fired, whatever came of its own checks (R19, R156). -/
def exitFired (s : State) (b : Blk) : Prop := otherFired s b fun i => (exitOf i).isSome = true

/-- An atomic of a lower position that has fired in the block meets n bytes at a physical address. -/
def lowerAtomicMeets (b : Blk) (pos a n : Nat) : Prop :=
  ∃ m ∈ b.mem, m.lsid < pos ∧ (∃ op va pa k r x ixs ord, m.eff = .amo op va pa k r x ixs ord) ∧ m.meets a n = true

/-- The record of a load as it fires, and once it is delivered. -/
def loadRec (s : State) (f : LS) (signed : Bool) (va : Word) (pa : Nat) : LoadRec :=
  ⟨f.lsid.toNat, s.curIx, va, BitVec.ofNat 64 pa, 2 ^ f.wd.toNat, signed, f.t1, false, 0, false⟩

/-- The record of a table read of 8 bytes, and the one a JTAB makes where nothing stops it (R141). -/
def tableRec (s : State) (va : Word) (pa : Nat) (v : Word) : LoadRec :=
  ⟨0, s.curIx, va, BitVec.ofNat 64 pa, 8, false, noTarget, true, v, true⟩
def tableGives (s : State) (b : Blk) (va : Word) (r : LoadRec) : Prop :=
  ∃ pa, accessAt s .read va 8 pa ∧ s.loadReady b (tableRec s va pa 0) = true ∧ s.loadFails b (tableRec s va pa 0) = false ∧
    r = tableRec s va pa (BitVec.ofNat 64 (numOf (s.loadBytes b (tableRec s va pa 0))))

/-- The address of a load, and of a store (R14, R132). -/
def loadAddr (l : Word) (f : LS) : Word := BitVec.ofInt 64 (l.toInt + f.imm.toInt)
def storeAddr (l : Word) (f : ST) : Word := BitVec.ofInt 64 (l.toInt + f.imm.toInt)

/-- A block with a load that has fired, and with its value delivered. -/
def withLoad (b : Blk) (r : LoadRec) : Blk := { b with loads := b.loads ++ [r] }

/-- The block with one more memory effect. -/
def withMem (b : Blk) (lsid ix : Nat) (e : MemEff) : Blk := { b with mem := b.mem ++ [⟨lsid, ix, e⟩] }

/-- The block left by an exit. -/
def withExit (b : Blk) (x : BitVec 3) (ix : Nat) (k : ExitKind) (t : Word) (back : Bool) : Blk :=
  { b with exits := [⟨x.toNat, ix, k, t, back⟩] }

/-- A target computed at run time that passes the checks of R137. -/
def goodTarget (t : Word) : Prop := t &&& 0xF = 0 ∧ t.toNat < 2 ^ 52

/-- The block with one more effect at commit. -/
def withEff (b : Blk) (ix : Nat) (e : Eff) : Blk := { b with effs := b.effs ++ [(ix, e)] }

/-- The block with the instruction at the focus waiting. -/
def withWait (s : State) (b : Blk) (w : Wait) (ts : List Target) : Blk := { b with waits := b.waits ++ [⟨s.curIx, w, ts⟩] }

/-- The block with the instruction at the focus waiting no more. -/
def waitOver (s : State) (b : Blk) : Blk := { b with waits := b.waits.filter fun w => w.ix != s.curIx }

/-! ## Configuration images (R32, R41) -/

/-- Word i of a slot, and the lanes beside it, pass the checks of a loaded word. -/
def wordPasses (plan : Plan) (his : List (Nat × Word)) (r : Nat) (c : CtxSlot) (i : Nat) : Prop :=
  checkSite (c.site i) i (rectOf c.mxmode.toNat) = none ∧
    checkSwitch (plan.map (·.1)) r i (c.site i) (Tab.getD his i 0) (c.switch i) = none

/-- The rectangle rules hold of a slot among those of a plan (R265, R266). -/
def rectHolds (plan : Plan) (r : Nat) (c : CtxSlot) : Prop :=
  rectBroken (plan.map fun x => (x.1, x.2.mxmode.toNat)) r c.mxmode.toNat = false

/-- The words of the first n records of an image pass. -/
def recordsPass (recs : List (List Byte)) (ps : List Placed) (n : Nat) : Prop :=
  let plan : Plan := ps.map fun p => (p.region, p.ctx)
  ∀ k < n, ∀ p rec, ps[k]? = some p → recs[k]? = some rec →
    rectHolds plan p.region p.ctx ∧ ∀ i < 96, wordPasses plan (upperHalves rec) p.region p.ctx i

/-- The first word of an image that fails a check, and the rejection record it leaves (R32, R33). -/
def firstFailing (recs : List (List Byte)) (ps : List Placed) (w : Word) : Prop :=
  let plan : Plan := ps.map fun p => (p.region, p.ctx)
  ∃ k p rec, ps[k]? = some p ∧ recs[k]? = some rec ∧ recordsPass recs ps k ∧
    (¬ rectHolds plan p.region p.ctx ∧ w = rejection 0x0D 0 0 0 0 p.region ∨
     rectHolds plan p.region p.ctx ∧ ∃ i < 96, (∀ j < i, wordPasses plan (upperHalves rec) p.region p.ctx j) ∧
       ∃ c bit, (checkSite (p.ctx.site i) i (rectOf p.ctx.mxmode.toNat) = some (c, bit) ∧
           w = rejection c i 0 bit 0 p.region ∨
         checkSite (p.ctx.site i) i (rectOf p.ctx.mxmode.toNat) = none ∧
           checkSwitch (plan.map (·.1)) p.region i (p.ctx.site i) (Tab.getD (upperHalves rec) i 0) (p.ctx.switch i) =
             some (c, bit) ∧
           w = rejection c i 1 bit (if c = 8 then plan.laneEdge (p.region, i, bit / 8) else 0) p.region))

/-- An image read at a is loaded: each record has a region, no slot it lands on is armed or reached by another CFGL of
the block, and every word and the graph pass (R32, R41, R56). -/
def loadsAt (s : State) (b : Blk) (a : Word) (slot : Nat) (bs : List Byte) (ps : List Placed) : Prop :=
  imageGood bs = true ∧ placeRecords bs s.cur (s.offered s.cur) slot s.cur a = some ps ∧
    (∀ p ∈ ps, s.slotArmed p.region p.slot = false ∧ (p.region, p.slot) ∉ b.cfglSlots ∧
      b.landsOn (p.region, p.slot) = false) ∧
    recordsPass (recordsOf bs) ps ps.length ∧ Plan.graphReject (ps.map fun p => (p.region, p.ctx)) s.sbufs = none

/-! ## Sequencers -/

/-- Nothing from outside is held against a sequencer, and nothing keeps it from starting its next block (R159, R164, R281,
R400, R402). -/
def quiet (s : State) (q : Nat) : Prop :=
  let x := s.seq q
  x.eccu = none ∧ x.asyncHang = none ∧ x.asyncPreempt = none ∧ x.asyncDbg = [] ∧ x.awaits = [] ∧
    ¬ (q = service ∧ s.tap.halt = true)

/-- Two states agree on everything that a program of another sequencer or the fabric can see: memory, flags, tasks,
channels, contexts, stream buffers and the registers of every sequencer but q. -/
def onlySeq (q : Nat) (s t : State) : Prop :=
  t.mem = s.mem ∧ t.flags = s.flags ∧ t.tasks = s.tasks ∧ t.chans = s.chans ∧ t.ctxs = s.ctxs ∧ t.sbufs = s.sbufs ∧
    t.regions = s.regions ∧ t.svc = s.svc ∧ t.parts = s.parts ∧ ∀ p, p ≠ q → t.seq p = s.seq p

/-- The bytes of a fetch from address a on lie at physical addresses from pa on, in HBM4 and without errors. -/
def fetchable (s : State) (q : Nat) (a : Word) (pa n : Nat) : Prop :=
  pa + n ≤ 0x6000000000 ∧ ∀ i < n, s.seqTranslate q .fetch (a.toNat + i) = .ok (pa + i) ∧
    s.poison.getD ((pa + i) / 64) false = false

/-- The trap a sequencer has taken (R163). -/
def trapTaken (x y : Seq) (cause : BitVec 8) (epc tval : Word) : Prop :=
  y.g = x.g ∧ y.ras = x.ras ∧ y.tvec = x.tvec ∧ y.scratch = x.scratch ∧ y.blocks = [] ∧
    (x.tm = false →
      y.cause = cause ∧ y.epc = epc &&& ~~~ 0xF ∧ y.tval = tval ∧ y.tm = true ∧ y.dbl = x.dbl ∧
        y.cond = (if x.tvec &&& ~~~ 0xF = 0 then .stopped else .fetch (x.tvec &&& ~~~ 0xF))) ∧
    (x.tm = true →
      y.cause = x.cause ∧ y.epc = x.epc ∧ y.tval = x.tval ∧ y.tm = true ∧ y.dbl = true ∧ y.dcause = cause ∧
        y.cond = .stopped)

/-- Sequencer q runs one block, which is ready to commit by exit e, in time, with room in the queues. -/
def committing (s : State) (q : Nat) (b : Blk) (e : Exit) : Prop :=
  (s.seq q).cond = .run ∧ (s.seq q).blocks = [b] ∧ s.ready q b = true ∧ s.roomFor q b = true ∧
    s.now < b.deadline ∧ b.exits = [e] ∧ quiet s q ∧ (s.seq q).waitDrain = false

/-- The task of a sequencer's region neither waits for its commit to save it nor ends with it (R350, R358). -/
def goesOn (s : State) (q : Nat) : Prop :=
  ∀ t, s.taskOf q = some t → (s.task t).state ≠ .saving ∧ (s.task t).state ≠ .ending

/-- A block that has done nothing but one effect, the command eff, commits by the target of an exit that goes on. -/
def commitsOne (s : State) (q : Nat) (eff : Eff) (p : Blk → Exit → State → Prop) : Prop :=
  ∀ (b : Blk) (ix : Nat) (e : Exit), committing s q b e → goesOn s q → e.kind = .go → b.effs = [(ix, eff)] →
    b.mem = [] → b.loads = [] → completes (.blockCommit q) s (p b e)

/-! ## Elements of the fabric (R26, R75, R87-R90) -/

/-- The element of a kind and an opcode armed at the site in focus may fire: its region is neither frozen nor off, no
control token is passing it, no FENCE holds back an access it would make, and an ingress element is neither held nor
closing (R90, R277, R357, R394). -/
def elemReady (s : State) (kind op cid : Nat) (c : Ctx) (el : Elem) : Prop :=
  s.elemAt s.site.r s.site.s = some (cid, c, el) ∧ el.cfg.kind = kind ∧ el.cfg.op = op ∧ s.canMove s.site.r = true ∧
    el.passage = .open ∧ s.fireFenced cid c (siteKey s.site.r s.site.s) el = false ∧
    (el.cfg.ingress = true → (s.region s.site.r).millpond = none ∧ el.closing c.mode = false)

/-- A well-formed token is the visible head of an input. -/
def arrives (s : State) (c : Ctx) (el : Elem) (i : Nat) (t : Token) : Prop :=
  s.headOf c (siteKey s.site.r s.site.s) i = some t ∧ malformed el.cfg i t = false

/-- No token is at an input. -/
def vacant (s : State) (c : Ctx) (i : Nat) : Prop := s.headOf c (siteKey s.site.r s.site.s) i = none

/-- Every arc of an output has a free slot, and a request where it is demand-driven (R87, R94). -/
def roomOn (s : State) (c : Ctx) (o : Nat) : Prop := c.room (siteKey s.site.r s.site.s) o true = true

/-- A data token whose elements fit its shape and the format of its input, or a bubble. -/
def plainTok (el : Elem) (i : Nat) (t : Token) : Prop :=
  t.isData = true ∧
    (t.bub = true ∨ ((el.cfg.ifmt.getD i 0 = t.fmt ∨ el.cfg.ifmt.getD i 0 = fmtANY) ∧
      t.codes.length = t.rows * t.cols ∧ (isMx t.fmt = true → t.scales.length = t.rows)))

/-- A well-formed token of elements, no bubble, is at the head of an input. -/
def holdsTile (s : State) (c : Ctx) (el : Elem) (i : Nat) (t : Token) : Prop :=
  arrives s c el i t ∧ plainTok el i t ∧ t.bub = false

/-- A data token, which may be a bubble, is at the head of an input. -/
def holdsData (s : State) (c : Ctx) (el : Elem) (i : Nat) (t : Token) : Prop :=
  arrives s c el i t ∧ t.isData = true

/-- The element in focus fires. -/
def fires (i : Instr) (s : State) (cid : Nat) (c : Ctx) (el : Elem) (f : Firing) : Prop :=
  exec i s = .next (s.applyFiring s.site.r s.site.s cid c el f)

/-- The element fires, takes the heads of inputs, emits tokens, becomes el', logs, and otherwise at most draws free
values. -/
def moves (i : Instr) (s : State) (cid : Nat) (c : Ctx) (el : Elem) (ins : List Nat) (out : List (Nat × Token))
    (el' : Elem) (logs : List LogRec) : Prop :=
  ∃ e post, fires i s cid c el ⟨ins, out, el', logs, e, post⟩ ∧ ∀ u : State, ∃ n, post u = { u with free := n }

/-- The entry an element logs for a token it poisons (R178). -/
def ownLog (el : Elem) (t : Token) : LogRec := ⟨0x02, t.hdr, t.hdr, BitVec.ofNat 64 (el.cfg.op + 256 * el.cfg.kind)⟩

/-- The low bits of an exact result, as an element code of an integer format. -/
def wrapped (fmt : Nat) (v : Int) : Nat := (v % (2 ^ fmtBits fmt : Nat)).toNat

/-- An integer code as its value. -/
def codeValue (fmt a : Nat) : Int := if isSigned fmt then signedOf (fmtBits fmt) a else (a % 2 ^ fmtBits fmt : Nat)

/-- The rounding mode MODE[14:13] names (R76). -/
def modeOf (c : SiteCfg) : Round := Round.of2 (c.mode / 2 % 4)

/-- A token is of a shape, or a single element that is broadcast to it (R75). -/
def spreads (t : Token) (r k : Nat) : Prop := (t.rows = r ∧ t.cols = k) ∨ (t.rows = 1 ∧ t.cols = 1)

/-- A two-input elementwise operation (R75): out[e] is a function of a[e] and b[e]. -/
def vecPair (i : Instr) (op : Nat) (g : SiteCfg → Nat → Nat → Nat) : Prop :=
  ∀ (s : State) (cid : Nat) (c : Ctx) (el : Elem) (x y : Token) (r k : Nat), elemReady s 0 op cid c el →
    holdsTile s c el 0 x → holdsTile s c el 1 y → spreads x r k → spreads y r k →
    (x.rows = r ∧ x.cols = k ∨ y.rows = r ∧ y.cols = k) → roomOn s c 0 →
    moves i s cid c el [0, 1] [(0, elemTok (vecHdr el.cfg.ofmt [x, y] r k)
      ((List.range (r * k)).map fun e => g el.cfg (x.at e) (y.at e)))] el []

/-- A one-input elementwise operation. -/
def vecOne (i : Instr) (op : Nat) (g : SiteCfg → Nat → Nat) : Prop :=
  ∀ (s : State) (cid : Nat) (c : Ctx) (el : Elem) (x : Token), elemReady s 0 op cid c el → holdsTile s c el 0 x →
    roomOn s c 0 →
    moves i s cid c el [0] [(0, elemTok (vecHdr el.cfg.ofmt [x] x.rows x.cols)
      ((List.range (x.rows * x.cols)).map fun e => g el.cfg (x.at e)))] el []

/-- The element codes of row k of a token. -/
def rowOf (x : Token) (k : Nat) : List Nat := (List.range x.cols).map fun j => x.codes.getD (k * x.cols + j) 0

/-- A row operation: one element a row, of ROWS × 1. -/
def vecRow (i : Instr) (op : Nat) (ok : SiteCfg → List Nat → Nat → Prop) : Prop :=
  ∀ (s : State) (cid : Nat) (c : Ctx) (el : Elem) (x : Token), elemReady s 0 op cid c el → holdsTile s c el 0 x →
    roomOn s c 0 →
    ∃ codes, moves i s cid c el [0] [(0, elemTok (vecHdr el.cfg.ofmt [x] x.rows 1) codes)] el [] ∧
      codes.length = x.rows ∧ ∀ k < x.rows, ok el.cfg (rowOf x k) (codes.getD k 0)

/-- The condition a code of R31 names, on exact values. -/
def condHolds (c : Nat) (a b : ExactVal) : Bool :=
  if c = 0 then a.eqv b else if c = 1 then !a.eqv b else if c = 2 then a.lt b else if c = 3 then a.leq b
  else if c = 4 then b.lt a else b.leq a

/-- An integer result wrapped to the format, or an IEEE one rounded once under MODE[14:13]. -/
def vecArith (fi : Int → Int → Int) (ff : Round → ExactVal → ExactVal → ExactVal) (c : SiteCfg) (a b : Nat) : Nat :=
  if isInt c.ofmt then wrapped c.ofmt (fi a b)
  else roundTo c.ofmt (modeOf c) (ff (modeOf c) (valueOf c.ofmt a) (valueOf c.ofmt b))

/-- The lesser or the greater of two codes (R183, R128). -/
def lesserCode (f a b : Nat) : Nat :=
  if isInt f then (if codeValue f a < codeValue f b then a else b)
  else if (valueOf f a).isNan then if (valueOf f b).isNan then (floatFmt f).nanCode else b
  else if (valueOf f b).isNan then a
  else if (valueOf f a).lt (valueOf f b) then a
  else if (valueOf f b).lt (valueOf f a) then b
  else if (valueOf f a).negSign && !(valueOf f b).negSign then a else b
def greaterCode (f a b : Nat) : Nat :=
  if isInt f then (if codeValue f a < codeValue f b then b else a)
  else if (valueOf f a).isNan then if (valueOf f b).isNan then (floatFmt f).nanCode else b
  else if (valueOf f b).isNan then a
  else if (valueOf f a).lt (valueOf f b) then b
  else if (valueOf f b).lt (valueOf f a) then a
  else if (valueOf f a).negSign && !(valueOf f b).negSign then b else a

/-- The least and the greatest value of an integer format. -/
def lowest (f : Nat) : Int := if isSigned f then -(2 ^ (fmtBits f - 1) : Nat) else 0
def highest (f : Nat) : Int := if isSigned f then (2 ^ (fmtBits f - 1) : Nat) - 1 else (2 ^ fmtBits f : Nat) - 1

/-- A rounded or wrapped operation in a mode of its own. -/
def arithAt (r : Round) (f : Nat) (fi : Int → Int → Int) (ff : ExactVal → ExactVal → ExactVal) (a b : Nat) : Nat :=
  if isInt f then wrapped f (fi a b) else roundTo f r (ff (valueOf f a) (valueOf f b))

/-- One round of the counter-based generator, and its hash of two words (R191). -/
def mixRound (x : BitVec 32 × BitVec 32) (k : BitVec 32) : BitVec 32 × BitVec 32 :=
  let x0 := x.1 + x.2
  let x1 := x.2.rotateLeft 13 ^^^ x0
  let x0 := x0.rotateLeft 16 ^^^ k
  (x0, x1 + x0)
def mixHash (x0 x1 : BitVec 32) : BitVec 32 :=
  let x := [0x6A09E667, 0xBB67AE85, 0x3C6EF372, 0xA54FF53A].foldl mixRound (x0, x1)
  x.1 ^^^ x.2

/-- Parameter word i of a site, and its number. -/
def parWord (c : SiteCfg) (i : Nat) : BitVec 32 := c.p.getD i 0
def parNum (c : SiteCfg) (i : Nat) : Nat := (parWord c i).toNat

/-- The block index of row k: (b0 + k * P4) mod 2^32. -/
def blockIndex (c : SiteCfg) (b0 : BitVec 32) (k : Nat) : BitVec 32 := b0 + BitVec.ofNat 32 k * parWord c 4

/-- The draw of element j of row k under stochastic rounding (R245). -/
def drawOf (c : SiteCfg) (b0 : BitVec 32) (k j : Nat) : Nat :=
  ((mixHash (blockIndex c b0 k ^^^ parWord c 0)
    (parWord c 2 ^^^ parWord c 1 ^^^ (BitVec.ofNat 32 j <<< 24) ^^^ 0x00800000)).setWidth 16).toNat

/-- The rounding of element j of row k (R181): MODE[15:13], with the key's block index under SR. -/
def roundAt (c : SiteCfg) (b0 : BitVec 32) (k j : Nat) : Round :=
  if c.mode / 2 = 4 then .sr (drawOf c b0 k j) else Round.of2 (c.mode / 2)

/-- Codes and scales of rows of 32 values in an MX format by the rule of R246: a row's scale is chosen from its values,
and each element rounded once from what stands for its value (R259). -/
def mxRounded (f : Nat) (r : Nat → Nat → Round) (vals rounded : Nat → List ExactVal) (rows : Nat)
    (codes scales : List Nat) : Prop :=
  codes.length = rows * 32 ∧ scales.length = rows ∧ ∀ k < rows,
    let bad := f ≠ 0x10 ∧ f ≠ 0x11 ∧ ExactVal.nan ∈ rounded k
    (bad → scales[k]? = some 0xFF ∧ ∀ j < 32, codes[k * 32 + j]? = some 0) ∧
    (¬ bad → ∃ e : Int, scales[k]? = some (e + 127).toNat ∧
      ((∀ v ∈ vals k, v.lead = none) → e = 0) ∧
      (∀ l, (∃ v ∈ vals k, v.lead = some l) → (∀ v ∈ vals k, ∀ m, v.lead = some m → m ≤ l) →
        e = max (min (l - emax f) 127) (-127)) ∧
      ∀ j < 32, codes[k * 32 + j]? = (rounded k)[j]?.map fun v => roundTo f (r k j) (v.shift e))

/-- The rows converted from their values. -/
def mxConverted (f : Nat) (r : Nat → Nat → Round) (vals : Nat → List ExactVal) (rows : Nat) (codes scales : List Nat) : Prop :=
  mxRounded f r vals vals rows codes scales

/-- An image token of its shape is at the head of an input. -/
def holdsImage (s : State) (c : Ctx) (el : Elem) (i : Nat) (t : Token) (g : Image) : Prop :=
  arrives s c el i t ∧ t.isData = true ∧ t.bub = false ∧ t.body = .image g ∧ g.lanes.length = t.rows * t.cols

/-- The header of a token that takes CHN, SRCID, EP, LR and LS from another, with a format and shape of its own. -/
def hdrFrom (x : Token) (fmt rows cols : Nat) : Word :=
  hSetLs (hSetLr (hData fmt rows cols (hChn x.hdr) (hSrc x.hdr) (hEp x.hdr)) x.lr) x.ls

/-- What an MMA starts an activation from (R199): a new group from zero, or from the image it takes from i2; a group in
progress from ACC. With it the token of the initial image, the inputs the firing takes, and PSN and the rows so far. -/
def groupStart (s : State) (c : Ctx) (el : Elem) (start : Image) (kept : Option Token) (ins : List Nat) (psn : Bool)
    (rows : Nat) : Prop :=
  (el.busy = false ∧ el.cfg.uses 2 = false ∧ start = Image.zero 0 0 ∧ kept = none ∧ ins = [0] ∧ psn = false ∧ rows = 0) ∨
  (el.busy = false ∧ el.cfg.uses 2 = true ∧ ins = [0, 2] ∧ rows = 0 ∧ ∃ t, holdsData s c el 2 t ∧ kept = some t ∧
    psn = t.psn ∧ (t.bub = true ∧ start = Image.zero 0 0 ∨ ∃ g, holdsImage s c el 2 t g ∧ start = g.widen t.cols)) ∨
  (el.busy = true ∧ el.acc = some start ∧ kept = el.kept ∧ ins = [0] ∧ psn = el.flag ∧ rows = el.rows)

/-- One count is used by a counted element, which expires at zero (R201). -/
def countedDown (el : Elem) : Elem :=
  if parNum el.cfg 0 = 0xFFFFFFFF then el else { el with cnt := el.cnt - 1, expired := el.cnt == 1 }

/-- Two images hold the same numbers in their lanes. -/
def sameLanes (g h : Image) : Prop :=
  g.b = h.b ∧ g.lanes.map (fun l => (l.v, l.sticky, l.spec)) = h.lanes.map fun l => (l.v, l.sticky, l.spec)

/-- A lane holds one value alone, at base exponent b (R252): its floor in units of 2^(b - 56), and whether that is less. -/
def laneOf (b : Int) (l : Lane) (v : ExactVal) : Prop :=
  l.spec = v.spec ∧ match v with
    | .fin n m e => ∀ q, q ≤ e → q ≤ b - 56 →
      let u := (2 : Int) ^ (b - 56 - q).toNat
      l.v * u ≤ unitsAt n m e q ∧ unitsAt n m e q < (l.v + 1) * u ∧ (l.sticky = false ↔ l.v * u = unitsAt n m e q)
    | _ => l.v = 0 ∧ l.sticky = false

/-- A token has the shape of another. -/
def shapeOf (f t : Token) : Bool := f.rows == t.rows && f.cols == t.cols

/-- The tokens a reduction takes in: those of the first one's shape that are no bubbles (R216). -/
def reduced (ts : List Token) : List Token :=
  match ts with
  | [] => []
  | f :: _ => ts.filter fun t => shapeOf f t && !t.bub

/-- The greatest (op 2) or the least of tokens, element by element; the sum of tokens in lane form. -/
def reducedCodes (op f : Nat) : List Token → Option (List Nat)
  | [] => none
  | t :: ts =>
    let pick := if op = 2 then greaterCode f else lesserCode f
    some (ts.foldl (fun cs u => (cs.zip u.codes).map fun ab => pick ab.1 ab.2) (t.codes.map fun a => pick a a))
def laneForm (t : Token) : Image :=
  match t.body with
  | .image g => g
  | _ => imageOfTile ((List.range t.rows).flatMap t.rowValues)
def reducedImage : List Token → Option Image
  | [] => none
  | t :: ts => some (ts.foldl (fun a u => a.plus (laneForm u)) (laneForm t))

/-- Some tokens of a reduction do not have the first one's shape. -/
def shapesDiffer (ts : List Token) : Bool := ts.any fun t => !shapeOf (ts.headD t) t

/-- The element holds the reduction of some tokens, none at first (R216). -/
def gathers (el : Elem) (ts : List Token) : Prop :=
  let same := ts.filter fun t => shapeOf (ts.headD t) t
  el.kept = ts.head? ∧ el.flag = (ts.any (·.psn) || shapesDiffer ts) ∧ el.expired = shapesDiffer ts ∧
    el.busy = same.any (·.lr) ∧ el.ep = same.any (·.ls) ∧
    (el.cfg.op = 1 → el.tl = none ∧ el.acc = reducedImage (reduced ts)) ∧
    (el.cfg.op ≠ 1 → el.acc = none ∧ el.tl.map Token.codes = reducedCodes el.cfg.op el.cfg.ofmt (reduced ts))

/-- What a reduction emits for its tokens (R216). -/
def reducedTo (c : SiteCfg) (ts : List Token) (u : Token) : Prop :=
  let same := ts.filter fun t => shapeOf (ts.headD t) t
  ∃ f, ts.head? = some f ∧
    u.hdr = (let hd := hSetPsn (hSetLs (hSetLr (hData c.ofmt f.rows f.cols (hChn f.hdr) (hSrc f.hdr) (hEp f.hdr))
        (same.any (·.lr))) (same.any (·.ls))) (ts.any (·.psn) || shapesDiffer ts)
      if reduced ts = [] then hSetBub hd true else hd) ∧
    (reduced ts ≠ [] → c.op ≠ 1 → ∃ cs, reducedCodes c.op c.ofmt (reduced ts) = some cs ∧ u.body = .elems cs []) ∧
    (reduced ts ≠ [] → c.op = 1 → ∃ a, reducedImage (reduced ts) = some a ∧
      (isImg c.ofmt = true → ∃ k, u.body = .image k ∧ sameLanes k a) ∧
      (isImg c.ofmt = false →
        u.body = .elems (a.lanes.map fun l => roundTo c.ofmt (Round.of2 (c.mode / 2)) (a.rounded false l)) []))

/-- A bubble, a token of elements or an image is at the head of an input that takes it. -/
def joins (s : State) (c : Ctx) (el : Elem) (i : Nat) (t : Token) : Prop :=
  (arrives s c el i t ∧ t.isData = true ∧ t.bub = true) ∨
  (holdsTile s c el i t ∧ isImg t.fmt = false ∧ isImg (el.cfg.ifmt.getD i 0) = false ∧ el.cfg.ifmt.getD i 0 ≠ fmtANY) ∨
  ∃ g, holdsImage s c el i t g ∧ isImg t.fmt = true ∧ isImg (el.cfg.ifmt.getD i 0) = true

/-- The sum of finite values in units of 2^q, q not above their exponents. -/
def unitsSum (q : Int) (ps : List ExactVal) : Int :=
  (ps.map fun p => match p with
    | .fin n m e => unitsAt n m e q
    | _ => 0).sum

/-- Every value is finite and a multiple of 2^q. -/
def finiteAbove (q : Int) (ps : List ExactVal) : Prop := ∀ p ∈ ps, ∃ n m e, p = .fin n m e ∧ q ≤ e

/-- The products of row k of an activation with row n of the tile (R198): a zero activation contributes zero. -/
def productsOf (a w : Token) (k n : Nat) : List ExactVal :=
  (List.range 32).map fun j => match a.value k j with
    | .fin _ 0 _ => .fin false 0 0
    | v => ExactVal.mul v (w.value n j)

/-- The element fires and does something of its own outside the fabric besides. -/
def movesWith (i : Instr) (s : State) (cid : Nat) (c : Ctx) (el : Elem) (ins : List Nat) (out : List (Nat × Token))
    (el' : Elem) (logs : List LogRec) (post : State → State) : Prop :=
  ∃ e, fires i s cid c el ⟨ins, out, el', logs, e, post⟩

/-- A predicate token reads true under MODE[13:12]; a poisoned one reads false (R62). -/
def readsTrue (c : SiteCfg) (t : Token) : Prop :=
  t.psn = false ∧
    (let nz := ∃ v, t.first = some v ∧ v ≠ 0
     if c.mode % 4 = 0 then nz else if c.mode % 4 = 1 then t.ls = true else nz ∨ t.ls = true)

/-- A token, poisoned where a poisoned one chose its way (R62). -/
def chosenBy (p t : Token) : Token := if p.psn = true then t.poison else t

/-- The bytes of a token in an entry of a memory node (R218), and their number. -/
def entryImage (t : Token) : List Byte := bytesOf 8 t.hdr.toNat ++ t.payload ++ t.scaleList
def entryLength (t : Token) : Nat := 8 + payloadBytes t.hdr + scaleBytes t.hdr

/-- The firing of an element that emits a token read at an address, given its output from the token read, and what it
emits and logs where an uncorrectable error spoils the read (R308, R340): a poisoned token of the same header. -/
def readsOut (bad : Bool) (i : Instr) (s : State) (cid : Nat) (c : Ctx) (el : Elem) (ins : List Nat) (t : Token)
    (out : Token → Token) (el' : Elem) (a : Nat) : Prop :=
  if bad = true then
    ∃ u, u.hdr = hSetPsn t.hdr true ∧
      moves i s cid c el ins [(0, out u)] el' [⟨0x04, t.hdr, BitVec.ofNat 64 a, u.hdr⟩]
  else moves i s cid c el ins [(0, out t)] el' []

/-- The walk of a descriptor is at its last tile, and the place after a tile (R223): i0 innermost. -/
def walkEnds (d : Desc) (w : Walk) : Bool := w.i + 1 == d.n0 && w.j + 1 == d.n1 && w.k + 1 == d.n2
def walkAfter (d : Desc) (w : Walk) : Option Walk :=
  if walkEnds d w then none
  else if w.i + 1 < d.n0 then some { w with i := w.i + 1 }
  else if w.j + 1 < d.n1 then some { w with i := 0, j := w.j + 1 }
  else some { w with i := 0, j := 0, k := w.k + 1 }

/-- The address of a walk's next tile, modulo 2^52 (R223). -/
def walkAddr (d : Desc) (w : Walk) : Nat :=
  ((d.base.toNat + w.off.toNat + w.i * d.s0.toInt + w.j * d.s1.toInt + w.k * d.s2.toInt) % 2 ^ 52 : Int).toNat

/-- The header of a tile a walk stamps (R223): the element's counter, P2 and EP, LR at the end of an innermost run where
LRN asks for it, LS on the last tile. -/
def walkHeader (el : Elem) (d : Desc) (fmt rows cols : Nat) (w : Walk) : Word :=
  hSetLs (hSetLr (hData fmt rows cols el.chn (parNum el.cfg 2 % 256) el.ep) (d.lrn && w.i + 1 == d.n0)) (walkEnds d w)

/-- The element after it has stamped a token: CHN rises, EP turns after LS. -/
def stampedBy (el : Elem) (last : Bool) : Elem := { el with chn := (el.chn + 1) % 2 ^ 24, ep := el.ep != last }

/-- The context and the element at the site in focus after a step. -/
def elemAfter (s t : State) (cid : Nat) (p : Ctx → Elem → Prop) : Prop :=
  ∃ c e, t.ctxs.find? cid = some c ∧ c.elems.find? (siteKey s.site.r s.site.s) = some e ∧ p c e

end Sys2Proof
end

