-- ==== Sys2Proof/Certificates/Slice0/Obligations.lean ====
section
/-! DEFINITION. The statements about the model. -/

open Sys2Proof Sys2Proof.Machine

/-! ## Integer operations -/

/-- R121, R122, R125: each two-operand integer operation delivers its exact result at its width. A compare delivers 1
when its condition holds and 0 otherwise. -/
def Obligations.IntegerAndCompareResults : Prop :=
  (intResult .add 0 (fun n l r => unsignedAt n l + unsignedAt n r) ∧
   intResult .sub 0 (fun n l r => unsignedAt n l - unsignedAt n r) ∧
   intResult .mul 1 (fun n l r => unsignedAt n l * unsignedAt n r) ∧
   intResult .mulh 1 (fun n l r => signedAt n l * signedAt n r / 2 ^ n) ∧
   intResult .mulhu 1 (fun n l r => unsignedAt n l * unsignedAt n r / 2 ^ n) ∧
   intResult .div 1 (fun n l r => if unsignedAt n r = 0 then -1 else (signedAt n l).tdiv (signedAt n r)) ∧
   intResult .divu 1 (fun n l r => if unsignedAt n r = 0 then -1 else unsignedAt n l / unsignedAt n r) ∧
   intResult .rem 1 (fun n l r => if unsignedAt n r = 0 then signedAt n l else (signedAt n l).tmod (signedAt n r)) ∧
   intResult .remu 1 (fun n l r => if unsignedAt n r = 0 then unsignedAt n l else unsignedAt n l % unsignedAt n r) ∧
   intResult .and 0 (fun n l r => bitwiseAt n (· && ·) l r) ∧
   intResult .or 0 (fun n l r => bitwiseAt n (· || ·) l r) ∧
   intResult .xor 0 (fun n l r => bitwiseAt n xor l r) ∧
   intResult .shl 0 (fun n l r => unsignedAt n l * 2 ^ (r.toNat % n)) ∧
   intResult .shr 0 (fun n l r => unsignedAt n l / 2 ^ (r.toNat % n)) ∧
   intResult .sra 0 (fun n l r => signedAt n l / 2 ^ (r.toNat % n)) ∧
   intResult .rol 0 (fun n l r =>
     unsignedAt n l * 2 ^ (r.toNat % n) + unsignedAt n l / 2 ^ (n - r.toNat % n)) ∧
   intResult .min 0 (fun n l r => min (signedAt n l) (signedAt n r)) ∧
   intResult .max 0 (fun n l r => max (signedAt n l) (signedAt n r)) ∧
   intResult .minu 0 (fun n l r => min (unsignedAt n l) (unsignedAt n r)) ∧
   intResult .maxu 0 (fun n l r => max (unsignedAt n l) (unsignedAt n r))) ∧
  (compareResult .teq (fun n l r => unsignedAt n l = unsignedAt n r) ∧
   compareResult .tne (fun n l r => unsignedAt n l ≠ unsignedAt n r) ∧
   compareResult .tlt (fun n l r => signedAt n l < signedAt n r) ∧
   compareResult .tltu (fun n l r => unsignedAt n l < unsignedAt n r) ∧
   compareResult .tle (fun n l r => signedAt n l ≤ signedAt n r) ∧
   compareResult .tleu (fun n l r => unsignedAt n l ≤ unsignedAt n r) ∧
   compareResult .tgt (fun n l r => signedAt n l > signedAt n r) ∧
   compareResult .tgtu (fun n l r => unsignedAt n l > unsignedAt n r) ∧
   compareResult .tge (fun n l r => signedAt n l ≥ signedAt n r) ∧
   compareResult .tgeu (fun n l r => unsignedAt n l ≥ unsignedAt n r) ∧
   immediateResult .teqi 0 (fun l k => if signedAt 64 l = k then 1 else 0) ∧
   immediateResult .tnei 0 (fun l k => if signedAt 64 l ≠ k then 1 else 0) ∧
   immediateResult .tlti 0 (fun l k => if signedAt 64 l < k then 1 else 0) ∧
   immediateResult .tgei 0 (fun l k => if signedAt 64 l ≥ k then 1 else 0))

/-- R123, R124: CLZ counts the zero bits above the highest set bit, POPC the set bits, and EXT extends the low byte,
half or word in the mode M gives (R17). Each immediate operation works on 64 bits with k = sign-extend(IMM12). -/
def Obligations.ImmediateAndUnaryResults : Prop :=
  (unaryResult .clz 0 (fun m l => BitVec.ofNat 64 (opWidth m - ((List.range (opWidth m)).filter fun i =>
     (List.range (opWidth m)).any fun j => i ≤ j && l.getLsbD j).length)) ∧
   unaryResult .popc 0 (fun m l => BitVec.ofNat 64 ((List.range (opWidth m)).filter fun i => l.getLsbD i).length) ∧
   ∀ (s : State) (b : Blk) (f : T2) (l : Word), f.m.toNat < 6 → mayFire s b f.pr f.a → operandAt s b slotL l →
     exec (.ext f) s = becomes s (gave s b 0 [f.t1, f.t2] (resultAt 64
       (if f.m.toNat < 3 then signedAt (8 * 2 ^ f.m.toNat) l else unsignedAt (8 * 2 ^ (f.m.toNat - 3)) l)))) ∧
  (immediateResult .addi 0 (fun l k => unsignedAt 64 l + k) ∧
   immediateResult .muli 1 (fun l k => unsignedAt 64 l * k) ∧
   immediateResult .andi 0 (fun l k => bitwiseAt 64 (· && ·) l (BitVec.ofInt 64 k)) ∧
   immediateResult .ori 0 (fun l k => bitwiseAt 64 (· || ·) l (BitVec.ofInt 64 k)) ∧
   immediateResult .xori 0 (fun l k => bitwiseAt 64 xor l (BitVec.ofInt 64 k)) ∧
   shiftResult .shli (fun l c => unsignedAt 64 l * 2 ^ c) ∧
   shiftResult .shri (fun l c => unsignedAt 64 l / 2 ^ c) ∧
   shiftResult .srai (fun l c => signedAt 64 l / 2 ^ c))

/-! ## Moves and registers -/

/-- R19, R47, R48, R49, R50: RDG delivers the register's committed value, MOV its operand, MOVI sign-extend(IMM12),
MOVHI the operand shifted by twelve bits with IMM12 below. A WRG holds its value for its register until commit, a
second one for that register raises ILLINS on itself, and NULL delivers the null value.
The model reads the receiving instruction of R19 as log entry 18 says. -/
def Obligations.MovesAndRegisterWrites : Prop :=
  ((∀ (s : State) (b : Blk) (f : RD), s.curBlk = 0 → mayFire s b .always true →
     exec (.rdg f) s = becomes s (gave s b 0 [f.t1, f.t2] ((s.seq s.cur).reg f.g.toNat))) ∧
   unaryResult .mov 0 (fun _ l => l) ∧
   (∀ (s : State) (b : Blk) (f : TI), mayFire s b f.pr f.a →
     exec (.movi f) s = becomes s (gave s b 0 [f.t1] (resultAt 64 f.imm.toInt))) ∧
   (∀ (s : State) (b : Blk) (f : TI) (l : Word), mayFire s b f.pr f.a → operandAt s b slotL l →
     exec (.movhi f) s = becomes s (gave s b 0 [f.t1] (resultAt 64 (l.toNat * 2 ^ 12 + f.imm.toNat))))) ∧
  ((∀ (s : State) (b : Blk) (f : WR) (v : Val), s.curBlk = 0 → mayFire s b f.pr false → b.slot s.curIx slotL = some v →
     (b.regs.find? f.g.toNat = none →
       exec (.wrg f) s = becomes s { b.fire s.curIx 0 with regs := b.regs.put f.g.toNat v }) ∧
     (b.regs.find? f.g.toNat ≠ none →
       exec (.wrg f) s = becomes s (trapped s b 0 causeILLINS (BitVec.ofNat 64 s.curIx)))) ∧
   (∀ (s : State) (b : Blk) (f : TB), mayFire s b f.pr false →
     exec (.null f) s = becomes s ((b.fire s.curIx 0).deliver [f.t1, f.t2] .null)))

/-- R45, R19: a target slot takes the value where it holds none; a second value leaves it and raises ILLINS on the
receiving instruction; no target, no effect. -/
def Obligations.DeliveryFillsEachSlotOnce : Prop :=
  ∀ (b : Blk) (v : Val) (t : Target),
    (t = noTarget → b.deliver [t] v = b) ∧
    (t ≠ noTarget → b.slots.find? t.toNat = none →
      (b.deliver [t] v).slots.find? t.toNat = some v ∧
      (∀ k, k ≠ t.toNat → (b.deliver [t] v).slots.find? k = b.slots.find? k) ∧
      (b.deliver [t] v).traps = b.traps) ∧
    (t ≠ noTarget → b.slots.find? t.toNat ≠ none →
      (b.deliver [t] v).slots = b.slots ∧
      (b.deliver [t] v).traps = b.traps ++ [⟨t.toNat / 4, causeILLINS, BitVec.ofNat 64 (t.toNat / 4)⟩])

/-! ## Floating-point operations -/

/-- R126, R127: each operation delivers its exact result, rounded once to nearest even. Sums and products of finite
numbers are exact; quotients are so or lie strictly between neighbours of a whole number of units x that is at least
2^200, and square roots likewise with x at least 2^131. An exact zero sum is +0 but for two zeros that are both -0. The invalid operations deliver the canonical NaN, and a finite
non-zero number divided by a zero an infinity with the sign of the quotient. -/
def Obligations.FloatArithmetic : Prop :=
  (floatPair .fadd (fun m l r => floatResult m (ExactVal.add .rne (floatAt m l) (floatAt m r))) ∧
   floatPair .fsub (fun m l r => floatResult m (ExactVal.add .rne (floatAt m l) (floatAt m r).neg)) ∧
   floatPair .fmul (fun m l r => floatResult m (ExactVal.mul (floatAt m l) (floatAt m r))) ∧
   floatPair .fdiv (fun m l r => floatResult m (ExactVal.div (floatAt m l) (floatAt m r))) ∧
   unaryResult .fsqrt 2 (fun m l => floatResult m (floatAt m l).sqrt) ∧
   (∀ (s : State) (b : Blk) (f : T2) (x y z : Word), mayFire s b f.pr f.a → operandAt s b slotL x →
     operandAt s b slotR y → operandAt s b slotX z →
     exec (.fma f) s = becomes s (gave s b 2 [f.t1, f.t2]
       (floatResult f.m (ExactVal.add .rne (ExactVal.mul (floatAt f.m x) (floatAt f.m y)) (floatAt f.m z)))))) ∧
  (∀ (s : State) (b : Blk) (f : T2) (l r : Word), mayFire s b f.pr f.a → operandAt s b slotL l → operandAt s b slotR r →
     let nan : Word := if f.m.getLsbD 0 then 0x7FF8000000000000 else 0x7FC00000
     let gives := fun (i : Instr) (w : Word) => exec i s = becomes s (gave s b 2 [f.t1, f.t2] w)
     (∀ n, floatAt f.m l = .inf n → floatAt f.m r = .inf (!n) → gives (.fadd f) nan) ∧
     (∀ n, floatAt f.m l = .inf n → floatAt f.m r = .inf n → gives (.fsub f) nan) ∧
     (∀ n k e, floatAt f.m l = .fin n 0 e → floatAt f.m r = .inf k → gives (.fmul f) nan) ∧
     (∀ n k e g, floatAt f.m l = .fin n 0 e → floatAt f.m r = .fin k 0 g → gives (.fdiv f) nan) ∧
     (∀ n k, floatAt f.m l = .inf n → floatAt f.m r = .inf k → gives (.fdiv f) nan) ∧
     (∀ n x e, x ≠ 0 → floatAt f.m l = .fin n x e → ∀ k g, floatAt f.m r = .fin k 0 g →
       gives (.fdiv f) (if f.m.getLsbD 0 then (if n = k then 0x7FF0000000000000 else 0xFFF0000000000000)
         else (if n = k then 0x7F800000 else 0xFF800000))) ∧
     (∀ x e, x ≠ 0 → floatAt f.m l = .fin true x e → gives (.fsqrt f) nan) ∧
     (floatAt f.m l = .nan ∨ floatAt f.m r = .nan →
       gives (.fadd f) nan ∧ gives (.fsub f) nan ∧ gives (.fmul f) nan ∧ gives (.fdiv f) nan)) ∧
  (∀ (a b : Bool) (m n : Nat) (e f : Int),
     (∀ q, q ≤ e → q ≤ f → ∃ k x g, ExactVal.add .rne (.fin a m e) (.fin b n f) = .fin k x g ∧ q ≤ g ∧
       unitsAt k x g q = unitsAt a m e q + unitsAt b n f q ∧
       (x = 0 → (k = true ↔ m = 0 ∧ n = 0 ∧ a = true ∧ b = true))) ∧
     (∀ p q, p ≤ e → q ≤ f → ∃ x g, ExactVal.mul (.fin a m e) (.fin b n f) = .fin (a != b) x g ∧ p + q ≤ g ∧
       unitsAt (a != b) x g (p + q) = unitsAt a m e p * unitsAt b n f q) ∧
     (n ≠ 0 → ∃ x g, ExactVal.div (.fin a m e) (.fin b n f) = .fin (a != b) x g ∧ g + f ≤ e ∧ (m ≠ 0 → 2 ^ 200 ≤ x) ∧
       let v := m * 2 ^ (e - g - f).toNat
       (x % 2 = 0 → x * n = v) ∧ (x % 2 = 1 → x * n < v + n ∧ v < x * n + n)) ∧
     (m ≠ 0 → ∃ x g, (ExactVal.fin false m e).sqrt = .fin false x g ∧ 2 * g ≤ e ∧ 2 ^ 131 ≤ x ∧
       let v := m * 2 ^ (e - 2 * g).toNat
       (x % 2 = 0 → x * x = v) ∧ (x % 2 = 1 → (x - 1) * (x - 1) < v ∧ v < (x + 1) * (x + 1))) ∧
     ExactVal.add .rne (.inf a) (.fin b n f) = .inf a ∧ ExactVal.add .rne (.fin a m e) (.inf b) = .inf b ∧
     ExactVal.add .rne (.inf a) (.inf a) = .inf a ∧ ExactVal.mul (.inf a) (.inf b) = .inf (a != b) ∧
     (n ≠ 0 → ExactVal.mul (.inf a) (.fin b n f) = .inf (a != b) ∧ ExactVal.mul (.fin b n f) (.inf a) = .inf (b != a)) ∧
     ExactVal.div (.inf a) (.fin b n f) = .inf (a != b) ∧ ExactVal.div (.fin a m e) (.inf b) = .fin (a != b) 0 0 ∧
     (ExactVal.fin a 0 e).sqrt = .fin a 0 e ∧ (ExactVal.inf false).sqrt = .inf false)

/-- R128, R129, R130: FMIN and FMAX deliver one operand bit for bit, the other one for a NaN, and -0 below +0; FTEQ,
FTLT and FTLE compare exactly and are false on a NaN. FCVT converts as M selects: to nearest even between formats and
from integers, toward zero and saturated to integers, a NaN to 0. -/
def Obligations.FloatOrderAndConversion : Prop :=
  (floatPair .fmin (fun m l r =>
     let a := if m.getLsbD 0 then l else (l.setWidth 32).setWidth 64
     let c := if m.getLsbD 0 then r else (r.setWidth 32).setWidth 64
     if (floatAt m l).isNan then if (floatAt m r).isNan then floatResult m .nan else c
     else if (floatAt m r).isNan then a
     else if (floatAt m l).lt (floatAt m r) then a
     else if (floatAt m r).lt (floatAt m l) then c
     else if (floatAt m l).negSign then a else c) ∧
   floatPair .fmax (fun m l r =>
     let a := if m.getLsbD 0 then l else (l.setWidth 32).setWidth 64
     let c := if m.getLsbD 0 then r else (r.setWidth 32).setWidth 64
     if (floatAt m l).isNan then if (floatAt m r).isNan then floatResult m .nan else c
     else if (floatAt m r).isNan then a
     else if (floatAt m l).lt (floatAt m r) then c
     else if (floatAt m r).lt (floatAt m l) then a
     else if (floatAt m l).negSign then c else a) ∧
   floatPair .fteq (fun m l r => if (floatAt m l).eqv (floatAt m r) then 1 else 0) ∧
   floatPair .ftlt (fun m l r => if (floatAt m l).lt (floatAt m r) then 1 else 0) ∧
   floatPair .ftle (fun m l r => if (floatAt m l).leq (floatAt m r) then 1 else 0)) ∧
  (unaryResult .fcvt 2 (fun m l => match m.toNat with
     | 0 => BitVec.ofNat 64 (roundTo fmtF64 .rne (valueOf fmtF32 (l.toNat % 2 ^ 32)))
     | 1 => BitVec.ofNat 64 (roundTo fmtF32 .rne (valueOf fmtF64 l.toNat))
     | 3 => BitVec.ofNat 64 (roundTo fmtF64 .rne (ofUnits l.toInt 0))
     | 5 => BitVec.ofNat 64 (roundTo fmtF32 .rne (ofUnits l.toInt 0))
     | 7 => BitVec.ofNat 64 (roundTo fmtF64 .rne (ofUnits l.toNat 0))
     | k =>
       let v := if k = 4 then valueOf fmtF32 (l.toNat % 2 ^ 32) else valueOf fmtF64 l.toNat
       let lo : Int := if k = 2 then -2 ^ 63 else if k = 4 then -2 ^ 31 else 0
       let hi : Int := if k = 2 then 2 ^ 63 - 1 else if k = 4 then 2 ^ 31 - 1 else 2 ^ 64 - 1
       match v with
       | .nan => 0
       | .inf neg => BitVec.ofInt 64 (if neg then lo else hi)
       | .fin neg x e =>
         let n : Int := if 0 ≤ e then x * 2 ^ e.toNat else x / 2 ^ (-e).toNat
         BitVec.ofInt 64 (max lo (min hi (if neg then -n else n)))))

/-- R238, R243: rounding to nearest even in units of 2^q is within half a unit of m * 2^e, and even where it is
exactly half a unit away. A finite number of an IEEE format is rounded, in every mode, to its own code: subnormals and
signed zeros are kept, and nothing is flushed. -/
def Obligations.Rounding : Prop :=
  (∀ (neg : Bool) (m : Nat) (e q : Int), e < q →
     let d := (q - e).toNat
     let n := roundUnits .rne neg m e q
     2 * n * 2 ^ d ≤ 2 * m + 2 ^ d ∧ 2 * m ≤ 2 * n * 2 ^ d + 2 ^ d ∧
       (2 * n * 2 ^ d = 2 * m + 2 ^ d ∨ 2 * m = 2 * n * 2 ^ d + 2 ^ d → n % 2 = 0)) ∧
  (∀ (fmt code : Nat) (r : Round), isIeee fmt = true → code < 2 ^ fmtBits fmt → (∃ n m e, valueOf fmt code = .fin n m e) →
     roundTo fmt r (valueOf fmt code) = code)

/-! ## Loads, stores and atomics -/

/-- R134: an access is checked for alignment, then its address, then its translation, then the MN window it meets; the
first check that fails names the cause. A read's data comes last: where a byte it takes from memory holds an
uncorrectable error, it delivers nothing and traps ECCU.
The model reads open points as log entry 60 says. -/
def Obligations.AccessChecksInOrder : Prop :=
  (∀ (s : State) (q : Nat) (perm : Perm) (va : Word) (n : Nat),
    (va.toNat % n ≠ 0 → s.checkAccess q perm va n = .error causeALIGN) ∧
    (va.toNat % n = 0 → 2 ^ 52 ≤ va.toNat → s.checkAccess q perm va n = .error causeACCESS) ∧
    (va.toNat % n = 0 → va.toNat < 2 ^ 52 →
      (∀ e, s.seqTranslate q perm va.toNat = .error e → s.checkAccess q perm va n = .error e.cause) ∧
      (∀ pa, s.seqTranslate q perm va.toNat = .ok pa →
        (s.windowAt pa n (perm != .read) = .violation → s.checkAccess q perm va n = .error causeACCESS) ∧
        (s.windowAt pa n (perm != .read) = .plain → s.checkAccess q perm va n = .ok pa) ∧
        (∀ c site e e', s.windowAt pa n (perm != .read) = .bufw c site e e' →
          s.checkAccess q perm va n = if perm = .read then .ok pa else .error causeACCESS)))) ∧
  (∀ (s : State) (b : Blk) (l : LoadRec), s.loadReady b l = true → s.poisoned l.pa.toNat l.n = true →
    ((∃ i < l.n, b.forwarded l.lsid (l.pa.toNat + i) = none) →
      s.finishLoad 0 b l = some ((b.giveUp l.ix).raise l.ix causeECCU l.va)) ∧
    ((∀ i < l.n, b.forwarded l.lsid (l.pa.toNat + i) ≠ none) → s.finishLoad 0 b l = some (s.deliverLoad b l)))

/-- R19, R132, R133, R172, R275: a load whose lower ids are all stored delivers the bytes at its address, zero- or sign-extended; until
they are stored it waits, and ACCESS_PERFORMED delivers it. A failing check is a trap of the oldest block; a load that
runs ahead waits for it, and for what it may not pass. A load for the id of a fired FENCE, or of bytes that a lower
atomic changes, raises ILLINS.
The model reads open points as log entries 18, 46, 47, 94 and 95 say. -/
def Obligations.LoadsDeliver : Prop :=
  (∀ (c : LS → Instr) (sg : Bool), (c = .ld ∧ sg = false ∨ c = .lds ∧ sg = true) →
    ∀ (s : State) (b : Blk) (f : LS) (l : Word), mayFire s b f.pr f.a → operandAt s b slotL l →
      let va := loadAddr l f
      let n := 2 ^ f.wd.toNat
      (∀ e, s.checkAccess s.cur .read va n = .error e →
        (s.curBlk = 0 → exec (c f) s = becomes s (trapped s b 3 e va)) ∧ (s.curBlk ≠ 0 → exec (c f) s = .next s)) ∧
      (∀ pa, accessAt s .read va n pa →
        let r := loadRec s f sg va pa
        let b' := withLoad (b.fire s.curIx 3) r
        (s.curBlk ≠ 0 → s.aheadWaits s.cur s.curBlk f.lsid.toNat pa n = true → exec (c f) s = .next s) ∧
        (s.curBlk = 0 ∨ s.aheadWaits s.cur s.curBlk f.lsid.toNat pa n = false →
          (fencedId s b f.lsid.toNat ∨ lowerAtomicMeets b f.lsid.toNat pa n →
            exec (c f) s = becomes s ((b'.giveUp s.curIx).raise s.curIx causeILLINS (BitVec.ofNat 64 s.curIx))) ∧
          (¬ fencedId s b f.lsid.toNat → ¬ lowerAtomicMeets b f.lsid.toNat pa n →
            (s.loadReady b' r = false → exec (c f) s = becomes s b') ∧
            (s.loadReady b' r = true →
              (s.loadFails b' r = false → exec (c f) s = readsBy s (s.deliverLoad b' r) r) ∧
              (s.loadFails b' r = true →
                (s.curBlk = 0 →
                  exec (c f) s = readsBy s ((b'.giveUp s.curIx).raise s.curIx causeECCU va) r) ∧
                (s.curBlk ≠ 0 → exec (c f) s = becomes s b'))))))) ∧
  (∀ (s : State) (q n ix : Nat) (b : Blk) (l : LoadRec), s.blk q n = some b →
    List.find? (fun (k : LoadRec) => k.ix == ix && !k.done) b.loads = some l →
    (s.finishLoad n b l = none → exec (.accessPerformed q n ix) s = .next s) ∧
    (∀ d, s.finishLoad n b l = some d →
      exec (.accessPerformed q n ix) s = .next (((s.setBlk q n d).countLoad q b l).afterRead q n l)) ∧
    (s.loadReady b l = true → s.loadFails b l = false → s.finishLoad n b l = some (s.deliverLoad b l)))

/-- R132, R133: the value a load delivers: each byte is that of the fired store of the highest lower position that
covers it, and of memory where none does; its target receives the number zero- or sign-extended. That places are told
apart by their physical addresses is the model's choice (log entry 95). -/
def Obligations.LoadsSeeLowerStores : Prop :=
  ∀ (s : State) (b : Blk) (l : LoadRec), l.t1 ≠ noTarget → b.slots.find? l.t1.toNat = none →
    (∃ v : Word, (s.deliverLoad b l).slots.find? l.t1.toNat = some (.word v) ∧
      v = resultAt 64 (if l.signed then signedOf (8 * l.n) (numOf (s.loadBytes b l)) else numOf (s.loadBytes b l))) ∧
    (s.loadBytes b l).length = l.n ∧
    ∀ i < l.n,
      ((∀ m ∈ b.mem, ∀ va pa bs, m.eff = .store va pa bs → m.lsid < l.lsid →
          ¬ (pa.toNat ≤ l.pa.toNat + i ∧ l.pa.toNat + i < pa.toNat + bs.length)) →
        (s.loadBytes b l)[i]? = some (Memory.byte s.mem (l.pa + BitVec.ofNat 64 i).toNat)) ∧
      (∀ m ∈ b.mem, ∀ va pa bs, m.eff = .store va pa bs → m.lsid < l.lsid → pa.toNat ≤ l.pa.toNat + i →
        l.pa.toNat + i < pa.toNat + bs.length →
        (∀ k ∈ b.mem, ∀ vk pk bk, k.eff = .store vk pk bk → k.lsid < l.lsid → pk.toNat ≤ l.pa.toNat + i →
          l.pa.toNat + i < pk.toNat + bk.length → k = m ∨ k.lsid < m.lsid) →
        (s.loadBytes b l)[i]? = bs[l.pa.toNat + i - pa.toNat]?)

/-- R19, R135, R136, R172, R277: a store, a SNUL and a FENCE take their place among the block's accesses and change nothing in
memory until commit; a second store of an id, and a FENCE for the id of a fired FENCE or load, raise ILLINS, and a failing
check its cause with the id stored. Loads of younger blocks that a store overlaps are repeated.
The model reads open points as log entries 18, 94 and 95 say. -/
def Obligations.StoresAreHeld : Prop :=
  (∀ (s : State) (b : Blk) (f : ST) (l r : Word), mayFire s b f.pr false → operandAt s b slotL l →
    operandAt s b slotR r →
    let va := storeAddr l f
    let n := 2 ^ f.wd.toNat
    let ill := BitVec.ofNat 64 s.curIx
    (∀ pa, accessAt s .write va n pa →
      (idFree b f.lsid.toNat → exec (.st f) s = storesAt s (withMem (b.fire s.curIx 4) f.lsid.toNat s.curIx
        (.store va (BitVec.ofNat 64 pa) (bytesOf n r.toNat))) pa n) ∧
      (¬ idFree b f.lsid.toNat → exec (.st f) s = storesAt s (trapped s b 4 causeILLINS ill) pa n)) ∧
    (∀ e, s.checkAccess s.cur .write va n = .error e →
      (idFree b f.lsid.toNat →
        exec (.st f) s = becomes s (withMem (trapped s b 4 e va) f.lsid.toNat s.curIx .none)) ∧
      (¬ idFree b f.lsid.toNat →
        exec (.st f) s = becomes s ((trapped s b 4 e va).raise s.curIx causeILLINS ill)))) ∧
  (∀ (s : State) (b : Blk) (f : ST), mayFire s b f.pr false →
    (idFree b f.lsid.toNat →
      exec (.snul f) s = becomes s (withMem (b.fire s.curIx 0) f.lsid.toNat s.curIx .none)) ∧
    (¬ idFree b f.lsid.toNat →
      exec (.snul f) s = becomes s (trapped s b 0 causeILLINS (BitVec.ofNat 64 s.curIx)))) ∧
  (∀ (s : State) (b : Blk) (f : FN), mayFire s b .always false →
    let id := f.lsid.toNat
    (loadedId s b id → exec (.fence f) s = becomes s (trapped s b 8 causeILLINS (BitVec.ofNat 64 s.curIx))) ∧
    (¬ loadedId s b id → exec (.fence f) s = becomes s (withMem (b.fire s.curIx 8) id s.curIx (.fence f.scope f.pred f.succ))))

/-- R19, R271, R274, R275: an atomic takes its place among the block's accesses, and the WRG it feeds counts as written; a
failing check is a trap, and a fired load of a higher position that it overlaps gives up and raises ILLINS on itself. What
an atomic of n bytes writes for the old value, its operand r and its operand x.
The model reads open points as log entries 18, 54 and 95 say. -/
def Obligations.Atomics : Prop :=
  (∀ (c : AM → Instr) (op : AmoOp),
     (c = .amoadd ∧ op = .add ∨ c = .amoswp ∧ op = .swp ∨ c = .amocas ∧ op = .cas ∨ c = .amomin ∧ op = .min ∨
       c = .amomax ∧ op = .max ∨ c = .amoand ∧ op = .and ∨ c = .amoor ∧ op = .or) →
     ∀ (s : State) (b : Blk) (f : AM) (l r x : Word), mayFire s b f.pr false → operandAt s b slotL l →
       operandAt s b slotR r → (if op = .cas then operandAt s b slotX x else x = 0) →
       let n := if f.w then 8 else 4
       let ill (ix : Nat) : Word := BitVec.ofNat 64 ix
       let held (pa : Nat) := withMem (b.fire s.curIx 5) f.lsid.toNat s.curIx
         (.amo op l (BitVec.ofNat 64 pa) n r x (if f.t1 = noTarget then [] else [f.t1.toNat / 4]) f.ord)
       let hit (pa : Nat) (k : LoadRec) := f.lsid.toNat < k.lsid ∧ overlaps pa n k.pa.toNat k.n = true
       (∀ pa, accessAt s .both l n pa →
         ((∀ k ∈ b.loads, ¬ hit pa k) →
           (idFree b f.lsid.toNat → exec (c f) s = storesAt s ((held pa).deliver [f.t1] .null) pa n) ∧
           (¬ idFree b f.lsid.toNat →
             exec (c f) s = storesAt s ((trapped s b 5 causeILLINS (ill s.curIx)).deliver [f.t1] .null) pa n)) ∧
         (∀ k before rest, b.loads = before ++ k :: rest → hit pa k → (∀ j ∈ before ++ rest, ¬ hit pa j) →
           idFree b f.lsid.toNat →
           exec (c f) s = storesAt s ((((held pa).giveUp k.ix).raise k.ix causeILLINS (ill k.ix)).deliver [f.t1] .null)
             pa n)) ∧
       (∀ e, s.checkAccess s.cur .both l n = .error e →
         (idFree b f.lsid.toNat →
           exec (c f) s = becomes s (withMem (trapped s b 5 e l) f.lsid.toNat s.curIx .none)) ∧
         (¬ idFree b f.lsid.toNat →
           exec (c f) s = becomes s ((trapped s b 5 e l).raise s.curIx causeILLINS (ill s.curIx))))) ∧
  (∀ (n old r x : Nat), (n = 4 ∨ n = 8) → old < 2 ^ (8 * n) →
     let rn := r % 2 ^ (8 * n)
     amoResult .add n old r x = some ((old + rn) % 2 ^ (8 * n)) ∧
     amoResult .swp n old r x = some rn ∧
     amoResult .cas n old r x = (if old = rn then some (x % 2 ^ (8 * n)) else none) ∧
     amoResult .min n old r x = some (if signedOf (8 * n) old ≤ signedOf (8 * n) rn then old else rn) ∧
     amoResult .max n old r x = some (if signedOf (8 * n) old ≤ signedOf (8 * n) rn then rn else old) ∧
     (∃ v, amoResult .and n old r x = some v ∧ ∀ i < 8 * n, v.testBit i = (old.testBit i && r.testBit i)) ∧
     (∃ v, amoResult .or n old r x = some v ∧ ∀ i < 8 * n, v.testBit i = (old.testBit i || r.testBit i)))

/-! ## Exits -/

/-- R12, R19, R51, R137, R138, R141-R144: an exit of an oldest block in which no other has fired leaves by its target: the header
plus OFF18 units of 16 bytes, an operand, the youngest return address, sq.epc, or the entry a jump table gives. What
keeps an exit from leaving: another exit that has fired, a target that is not a multiple of 16 or lies beyond 52 bits, a
full return-address store, an empty one.
The model reads open points as log entries 18 and 46 say. -/
def Obligations.BlockExits : Prop :=
  (∀ (s : State) (b : Blk) (f : BX), mayFire s b f.pr false → ¬ exitFired s b →
     let off : Word := BitVec.ofInt 64 (b.addr.toNat + 16 * f.off.toInt)
     let out := fun (k : ExitKind) (t : Word) (back : Bool) =>
       becomes s (withExit (b.fire s.curIx 6) f.x s.curIx k t back)
     let ras := (s.seq s.cur).ras
     exec (.br f) s = out .go off false ∧
     exec (.loop f) s = out .loop off (decide (f.off.toInt ≤ 0)) ∧
     exec (.scall f) s = out (.scall (f.off.toNat % 4096)) 0 false ∧
     exec (.trap f) s = out (.trap (f.off.toNat % 4096)) 0 false ∧
     (goodTarget off → ras.length < 32 → exec (.call f) s = out .call off false) ∧
     (∀ l, operandAt s b slotL l → goodTarget l →
       exec (.bri f) s = out .go l false ∧ (ras.length < 32 → exec (.calli f) s = out .call l false)) ∧
     (∀ a rest, ras = a :: rest → goodTarget a → exec (.ret f) s = out .ret a false) ∧
     (goodTarget (s.seq s.cur).epc → exec (.eret f) s = out .eret (s.seq s.cur).epc false) ∧
     (∀ l r t1, operandAt s b slotL l → operandAt s b slotR r → tableGives s b l t1 →
       let b1 := withLoad (b.fire s.curIx 6) t1
       let count := t1.value.toNat % 2 ^ 32
       (count ≤ r.toNat → exec (.jtab f) s =
         becomesThen s (withExit b1 f.x s.curIx .go off false) fun t => t.afterRead s.cur 0 t1) ∧
       (∀ t2, r.toNat < count → tableGives s b (l + 8 + 8 * r) t2 → goodTarget t2.value → exec (.jtab f) s =
         becomesThen s (withExit (withLoad b1 t2) f.x s.curIx .go t2.value false) fun t =>
           (t.afterRead s.cur 0 t1).afterRead s.cur 0 t2) ∧
       (∀ e, r.toNat < count → s.checkAccess s.cur .read (l + 8 + 8 * r) 8 = .error e → exec (.jtab f) s =
         becomesThen s (b1.raise s.curIx e (l + 8 + 8 * r)) fun t => t.afterRead s.cur 0 t1))) ∧
  (∀ (s : State) (b : Blk) (f : BX), mayFire s b f.pr false →
     let tr := fun (c : BitVec 8) (v : Word) => becomes s (trapped s b 6 c v)
     let ras := (s.seq s.cur).ras
     let second := fun (i : BX → Instr) => exec (i f) s = tr causeILLINS (BitVec.ofNat 64 s.curIx)
     let off : Word := BitVec.ofInt 64 (b.addr.toNat + 16 * f.off.toInt)
     (exitFired s b → second .br ∧ second .loop ∧ second .scall ∧ second .trap ∧
       (goodTarget off → ras.length < 32 → second .call) ∧
       (∀ l, operandAt s b slotL l → goodTarget l → second .bri ∧ (ras.length < 32 → second .calli)) ∧
       (∀ a rest, ras = a :: rest → goodTarget a → second .ret) ∧ (goodTarget (s.seq s.cur).epc → second .eret)) ∧
     (goodTarget off → 32 ≤ ras.length → exec (.call f) s = tr causeCALLDEPTH off) ∧
     (off &&& 0xF = 0 → 2 ^ 52 ≤ off.toNat → exec (.call f) s = tr causeACCESS off) ∧
     (∀ i a, (i = Instr.ret ∧ (∃ rest, ras = a :: rest)) ∨ (i = Instr.eret ∧ a = (s.seq s.cur).epc) →
       (a &&& 0xF ≠ 0 → exec (i f) s = tr causeALIGN a) ∧
       (a &&& 0xF = 0 → 2 ^ 52 ≤ a.toNat → exec (i f) s = tr causeACCESS a)) ∧
     (∀ l r t1 t2, operandAt s b slotL l → operandAt s b slotR r → tableGives s b l t1 →
       r.toNat < t1.value.toNat % 2 ^ 32 → tableGives s b (l + 8 + 8 * r) t2 →
       let stops := fun (c : BitVec 8) => exec (.jtab f) s =
         becomesThen s ((withLoad (withLoad (b.fire s.curIx 6) t1) t2).raise s.curIx c t2.value) fun t =>
           (t.afterRead s.cur 0 t1).afterRead s.cur 0 t2
       (exitFired s b → goodTarget t2.value → exec (.jtab f) s =
         becomesThen s ((withLoad (withLoad (b.fire s.curIx 6) t1) t2).raise s.curIx causeILLINS
           (BitVec.ofNat 64 s.curIx)) fun t => (t.afterRead s.cur 0 t1).afterRead s.cur 0 t2) ∧
       (t2.value &&& 0xF ≠ 0 → stops causeALIGN) ∧ (t2.value &&& 0xF = 0 → 2 ^ 52 ≤ t2.value.toNat → stops causeACCESS)) ∧
     (∀ l, operandAt s b slotL l →
       (l &&& 0xF ≠ 0 → exec (.bri f) s = tr causeALIGN l ∧ exec (.calli f) s = tr causeALIGN l) ∧
       (l &&& 0xF = 0 → 2 ^ 52 ≤ l.toNat → exec (.bri f) s = tr causeACCESS l ∧ exec (.calli f) s = tr causeACCESS l) ∧
       (goodTarget l → 32 ≤ ras.length → exec (.calli f) s = tr causeCALLDEPTH l)) ∧
     (∀ l r, operandAt s b slotL l → operandAt s b slotR r →
       (∀ e, s.checkAccess s.cur .read l 8 = .error e → exec (.jtab f) s = tr e l) ∧
       (∀ pa, accessAt s .read l 8 pa →
         (s.loadReady b (tableRec s l pa 0) = false → exec (.jtab f) s = .next s) ∧
         (s.loadReady b (tableRec s l pa 0) = true → s.loadFails b (tableRec s l pa 0) = true →
           exec (.jtab f) s = tr causeECCU l))) ∧
     (ras = [] → exec (.ret f) s = tr causeRETEMPTY 0))

/-! ## Fabric commands and port queues -/

/-- R56, R41, R32, R33, R288: a CFGL whose image reads, has records for regions offered to it, and passes every check
writes their slots, marked empty until the block commits, and delivers how many. The digest and header come first, then
the regions, then a slot that is armed (ACCESS), a slot another CFGL of the block reaches (ILLINS), and then the words in
order and the graph: the first that fails traps CFGREJECT with its rejection record, is entered in the fault log and
leaves the slots empty. A read that fails traps by its cause. In every case the CFGWs of the block that write a slot it
lands on raise ACCESS.
The model reads open points as log entries 10 and 17 say. -/
def Obligations.ConfigurationLoads : Prop :=
  (∀ (s : State) (b : Blk) (f : TC) (a : Word), mayFire s b f.pr false → operandAt s b slotL a → s.cur ≠ service →
    let fired := fun (e : Eff) => withEff (b.fire s.curIx 7) s.curIx e
    (∀ ps, s.tryLoad b a (f.imm.toNat % 4) = .done ps →
      let slots := ps.map fun p => (p.region, p.slot)
      completes (.cfgl f) s fun t =>
        t.blk s.cur s.curBlk =
          some (((fired (.cfgl slots)).againstCfgw s.cur slots).deliver [f.t1] (.word (BitVec.ofNat 64 ps.length))) ∧
        t.mem = s.mem ∧ (∀ q, (t.seq q).g = (s.seq q).g) ∧
        (∀ p ∈ ps, ∃ p' ∈ ps, p'.region = p.region ∧ p'.slot = p.slot ∧
          (t.region p.region).slots.find? p.slot = some { p'.ctx with marked := true }) ∧
        (∀ r k, (∀ p ∈ ps, ¬ (p.region = r ∧ p.slot = k)) → (t.region r).slots.find? k = (s.region r).slots.find? k)) ∧
    (∀ c v es ls, s.tryLoad b a (f.imm.toNat % 4) = .trap c v es ls → a.toNat % 64 = 0 →
      completes (.cfgl f) s fun t =>
        (∃ u : State, u.mem = s.mem ∧ (∀ q, (u.seq q).flogW = (s.seq q).flogW ∧ (u.seq q).flogBase = (s.seq q).flogBase) ∧
          (c = causeCFGREJECT → t = u.log s.cur none 0x0B 0 v 0) ∧ (c ≠ causeCFGREJECT → t = u)) ∧
        t.blk s.cur s.curBlk = some (((fired (.landed ls)).raise s.curIx c v).againstCfgw s.cur ls) ∧
        ∀ p ∈ es, (t.region p.1).slots.find? p.2 = none) ∧
    (a.toNat % 64 ≠ 0 → exec (.cfgl f) s = becomes s ((fired (.landed [])).raise s.curIx causeALIGN a)) ∧
    (a.toNat % 64 = 0 → s.readImage (s.regionTr s.cur) a.toNat = .wait → exec (.cfgl f) s = .next s)) ∧
  (∀ (s : State) (b : Blk) (a : Word) (slot : Nat), a.toNat % 64 = 0 →
    (∀ e va, s.readImage (s.regionTr s.cur) a.toNat = .fail e va →
      s.tryLoad b a slot = .trap e.cause (BitVec.ofNat 64 va) [] []) ∧
    ∀ bs q, s.readImage (s.regionTr s.cur) a.toNat = .bytes bs q →
      let place := placeRecords bs s.cur (s.offered s.cur) slot s.cur a
      (imageGood bs = false → s.tryLoad b a slot = .trap causeCFGREJECT (rejection 0x0F 0 0 0 0 s.cur) [] []) ∧
      (imageGood bs = true → place = none →
        s.tryLoad b a slot = .trap causeCFGREJECT (rejection 0x10 0 0 0 0 s.cur) [] (landSlots bs s.cur slot)) ∧
      (∀ ps, imageGood bs = true → place = some ps →
        let slots := ps.map fun p => (p.region, p.slot)
        (∀ (i : Nat) (p : Placed), ps[i]? = some p → s.slotArmed p.region p.slot = true →
          (∀ j < i, ∀ p', ps[j]? = some p' → s.slotArmed p'.region p'.slot = false) →
          s.tryLoad b a slot = .trap causeACCESS (BitVec.ofNat 64 p.slot) [] slots) ∧
        ((∀ p ∈ ps, s.slotArmed p.region p.slot = false) →
          ((∃ x ∈ slots, x ∈ b.cfglSlots ∨ b.landsOn x = true) →
            s.tryLoad b a slot = .trap causeILLINS (BitVec.ofNat 64 s.curIx) [] slots) ∧
          ((∀ x ∈ slots, x ∉ b.cfglSlots ∧ b.landsOn x = false) →
            (∀ w, firstFailing (recordsOf bs) ps w → s.tryLoad b a slot = .trap causeCFGREJECT w slots slots) ∧
            (∀ w, recordsPass (recordsOf bs) ps ps.length →
              Plan.graphReject (ps.map fun p => (p.region, p.ctx)) s.sbufs = some w →
              s.tryLoad b a slot = .trap causeCFGREJECT w slots slots)))) ∧
      (∀ ps, s.tryLoad b a slot = .done ps ↔ loadsAt s b a slot bs ps)) ∧
  (∀ (b : Blk) (r : Nat) (slots : List (Nat × Nat)), b.againstCfgw r slots = { b with
    traps := b.traps ++ (b.cfgwSlots.filter fun w => slots.contains (r, w.2.1)).map fun w => ⟨w.1, causeACCESS, w.2.2⟩ })

/-- R19, R57, R58, R61, R180, R226, R288: CFGA and DRAIN take effect at commit, one of them a block; DRAIN delivers
rg.ctx and whether a context is armed, SPACE the room of the ingress queue and the entries of the egress queue. TCNT
for an MMA or SYSM of the armed context and CFGW to a loaded slot that is not armed take effect at commit. Any other
site or slot raises ACCESS, a CFGW whose word fails a check raises CFGREJECT with its rejection record and is entered in
the fault log, and a second CFGW of the block for the same parameter raises ILLINS. On the service sequencer all of them,
and CFGL, raise ILLINS.
The model reads open points as log entries 18 and 56 say. -/
def Obligations.FabricCommands : Prop :=
  (∀ (s : State) (b : Blk) (f : TC), mayFire s b f.pr false → s.cur ≠ service →
     let x := s.region s.cur
     (b.switched = false →
       exec (.cfga f) s = becomes s (withEff (b.fire s.curIx 7) s.curIx (.cfga (f.imm.toNat % 4))) ∧
       exec (.drain f) s = becomes s ((withEff (b.fire s.curIx 7) s.curIx .drain).deliver [f.t1]
         (.word (BitVec.ofNat 64 (x.ctx % 4 + if x.armed = none then 0 else 4))))) ∧
     (b.switched = true →
       exec (.cfga f) s = becomes s (trapped s b 7 causeILLINS (BitVec.ofNat 64 s.curIx)) ∧
       exec (.drain f) s = becomes s (trapped s b 7 causeILLINS (BitVec.ofNat 64 s.curIx))) ∧
     exec (.space f) s = becomes s (gave s b 7 [f.t1] (BitVec.ofNat 64
       ((8 - (x.ing.getD (f.imm.toNat % 4) []).length) + 256 * (x.egr.getD (f.imm.toNat % 4) []).length)))) ∧
  (∀ (s : State) (b : Blk) (f : TC) (l : Word), mayFire s b f.pr false → operandAt s b slotL l → s.cur = service →
    ∀ i ∈ [Instr.cfga f, .drain f, .space f, .tcnt f, .cfgw f, .cfgl f],
      exec i s = becomes s (trapped s b 7 causeILLINS (BitVec.ofNat 64 s.curIx))) ∧
  (∀ (s : State) (b : Blk) (f : TC) (l : Word), mayFire s b f.pr false → operandAt s b slotL l →
     s.cur ≠ service →
     let site := f.imm.toNat / 16 % 8 * 12 + f.imm.toNat % 16
     let slot := f.imm.toNat / 1024
     let p := f.imm.toNat / 128 % 8
     (s.counted s.cur site = true →
       exec (.tcnt f) s = becomes s (withEff (b.fire s.curIx 7) s.curIx (.tcnt site (l.toNat % 2 ^ 32)))) ∧
     (s.counted s.cur site = false →
       exec (.tcnt f) s = becomes s (trapped s b 7 causeACCESS (BitVec.ofNat 64 f.imm.toNat))) ∧
     ((s.region s.cur).slots.find? slot = none ∨ s.slotArmed s.cur slot = true ∨ b.landsOn (s.cur, slot) = true ∨
         (∃ c, (s.region s.cur).slots.find? slot = some c ∧ c.marked = true) →
       exec (.cfgw f) s = becomes s (trapped s b 7 causeACCESS (BitVec.ofNat 64 f.imm.toNat))) ∧
     (∀ c, (s.region s.cur).slots.find? slot = some c → c.marked = false → s.slotArmed s.cur slot = false →
       b.landsOn (s.cur, slot) = false →
       let check := checkSite (withParam (c.site site) p (l.setWidth 32)) site (rectOf c.mxmode.toNat)
       let second := otherFired s b fun i => ∃ g, i = .cfgw g ∧ g.imm = f.imm
       (∀ code bit, check = some (code, bit) →
         exec (.cfgw f) s = becomesThen s (trapped s b 7 causeCFGREJECT (rejection code site 0 bit 0 s.cur)) fun t =>
           t.log s.cur none 0x0B 0 (rejection code site 0 bit 0 s.cur) 0) ∧
       (check = none → second →
         exec (.cfgw f) s = becomes s (trapped s b 7 causeILLINS (BitVec.ofNat 64 s.curIx))) ∧
       (check = none → ¬ second →
         exec (.cfgw f) s = becomes s (withEff (b.fire s.curIx 7) s.curIx (.cfgw slot site p (l.setWidth 32))))))

/-- R59, R60, R80: SPUSH and INJ add an entry to an ingress queue at commit; the ninth of a block for one port node, and
an INJ of any header but a bubble, an XCH or a REQ, raise ILLINS. A SPOP delivers the entry of its egress queue that comes
after those which the SPOPs of the block before it take; where there is none it waits, and delivers the entry once it has
come. It fires after the SPOPs that count before it.
The model reads open points as log entries 94, 102 and 105 say. -/
def Obligations.PortQueues : Prop :=
  (∀ (s : State) (b : Blk) (f : TC) (l : Word), mayFire s b f.pr false → operandAt s b slotL l → s.cur ≠ service →
     let k := f.imm.toNat % 4
     let ill := becomes s (trapped s b 7 causeILLINS (BitVec.ofNat 64 s.curIx))
     ((b.pushed k).length < 8 →
       exec (.spush f) s = becomes s (withEff (b.fire s.curIx 7) s.curIx (.spush k l)) ∧
       (injectable l = true →
         exec (.inj f) s = becomes s (withEff (b.fire s.curIx 7) s.curIx (.inj k (l &&& 0xFFFFFFFF))))) ∧
     (8 ≤ (b.pushed k).length → exec (.spush f) s = ill ∧ exec (.inj f) s = ill) ∧
     (injectable l = false → exec (.inj f) s = ill)) ∧
  (∀ (s : State) (b : Blk) (f : TC), s.cur ≠ service → s.curBlk = 0 → s.blk s.cur 0 = some b →
     let k := f.imm.toNat % 4
     let q := (s.region s.cur).egr.getD k []
     (mayFire s b f.pr false → b.waiting s.curIx = none →
       (b.spopWaits s.curIx k = true → exec (.spop f) s = .next s) ∧
       (b.spopWaits s.curIx k = false →
         (∀ v, q[b.popped k]? = some v → exec (.spop f) s = acquires s (gave s b 7 [f.t1] v)) ∧
         (q[b.popped k]? = none →
           exec (.spop f) s = becomes s (withWait s (b.fire s.curIx 7) (.spop k (b.popped k)) [f.t1])))) ∧
     (∀ j ts, b.waiting s.curIx = some ⟨s.curIx, .spop k j, ts⟩ →
       (∀ v, q[j]? = some v → exec (.spop f) s = acquires s ((waitOver s b).deliver ts (.word v))) ∧
       (q[j]? = none → exec (.spop f) s = .next s)))

/-! ## Synchronisation -/

/-- R281, R282, R273: BAR sends its arrival at commit; BWAIT delivers how many generations the barrier has passed since
the one it names, once it has passed one; BPH compares the phase; a handle that fails its checks raises ACCESS. What BWAIT
and BPH deliver is an acquire.
The model reads open points as log entries 54 and 94 say. -/
def Obligations.BarrierInstructions : Prop :=
  (∀ (s : State) (b : Blk) (h : Word), operandAt s b slotL h →
    (∀ f : TC, mayFire s b f.pr false →
      (s.barGood s.cur h = true → exec (.bar f) s = becomes s ((withEff (b.fire s.curIx 8) s.curIx
        (.bar h (if f.t1 = noTarget then [] else [f.t1.toNat / 4]))).deliver [f.t1] .null)) ∧
      (s.barGood s.cur h = false → exec (.bar f) s = becomes s (trapped s b 8 causeACCESS h)) ∧
      (b.waiting s.curIx = none →
        (s.barGood s.cur h = true → exec (.bph f) s = acquires s (gave s b 8 [f.t1]
          (if (s.barrier h).gen.getLsbD 0 = h.getLsbD 24 then 0 else 1))) ∧
        (s.barGood s.cur h = false → exec (.bph f) s = acquires s (trapped s b 8 causeACCESS h)))) ∧
    (∀ (f : TB) (r : Word), mayFire s b f.pr false → b.waiting s.curIx = none → operandAt s b slotR r →
      let n := ((s.barrier h).gen - r.setWidth 16).toNat
      (s.barGood s.cur h = false → exec (.bwait f) s = acquires s (trapped s b 8 causeACCESS h)) ∧
      (s.barGood s.cur h = true →
        (1 ≤ n ∧ n < 2 ^ 15 → exec (.bwait f) s = acquires s (gave s b 8 [f.t1, f.t2] (BitVec.ofNat 64 n))) ∧
        (¬ (1 ≤ n ∧ n < 2 ^ 15) → exec (.bwait f) s =
          becomes s (withWait s (b.fire s.curIx 8) (.bwait h (r.setWidth 16)) [f.t1, f.t2]))))) ∧
  (∀ (s : State) (b : Blk) (f : TB) (h : Word) (g : BitVec 16) (ts : List Target), s.blk s.cur s.curBlk = some b →
    b.waiting s.curIx = some ⟨s.curIx, .bwait h g, ts⟩ →
    let n := ((s.barrier h).gen - g).toNat
    (s.barAwake h = true → 1 ≤ n ∧ n < 2 ^ 15 →
      exec (.bwait f) s = acquires s ((waitOver s b).deliver ts (.word (BitVec.ofNat 64 n)))) ∧
    (s.barAwake h = false ∨ ¬ (1 ≤ n ∧ n < 2 ^ 15) → exec (.bwait f) s = .next s))

/-- R271, R273, R283, R286: FLGS and FLGC change their flag at commit, FLGT delivers it, FLGW delivers it once it holds the
awaited value. TAGW delivers its mask once every tag of it is set; TAGC clears tags at commit; TAGF delivers the
lowest tag that is neither set nor reserved, or 64. What FLGT, FLGW and TAGW deliver is an acquire.
The model reads open points as log entries 52, 53, 54 and 94 say. -/
def Obligations.FlagsAndTags : Prop :=
  (∀ (s : State) (b : Blk) (f : TC) (l : Word), mayFire s b f.pr false → operandAt s b slotL l → s.cur ≠ service →
     let k := s.cur / 24 * 4096 + (l.toNat % 2 ^ 12 + f.imm.toNat) % 4096
     let regs := if f.t1 = noTarget then [] else [f.t1.toNat / 4]
     let now : Word := if s.flag k = true then 1 else 0
     exec (.flgs f) s = becomes s ((withEff (b.fire s.curIx 8) s.curIx (.flag k true regs)).deliver [f.t1] .null) ∧
     exec (.flgc f) s = becomes s ((withEff (b.fire s.curIx 8) s.curIx (.flag k false regs)).deliver [f.t1] .null) ∧
     (b.waiting s.curIx = none →
       exec (.flgt f) s = acquires s (gave s b 8 [f.t1] now) ∧
       (s.flag k = !l.getLsbD 12 → exec (.flgw f) s = acquires s (gave s b 8 [f.t1] now)) ∧
       (s.flag k = l.getLsbD 12 →
         exec (.flgw f) s = becomes s (withWait s (b.fire s.curIx 8) (.flgw k (!l.getLsbD 12) false) [f.t1])))) ∧
  (∀ (s : State) (b : Blk) (f : TC), mayFire s b f.pr false → s.cur ≠ service →
     let tags := (s.region s.cur).tags
     (∀ l, operandAt s b slotL l →
       exec (.tagc f) s = becomes s (withEff (b.fire s.curIx 8) s.curIx (.tagc l)) ∧
       (b.waiting s.curIx = none →
         (tags &&& l = l → exec (.tagw f) s = acquires s (gave s b 8 [f.t1] l)) ∧
         (tags &&& l ≠ l → exec (.tagw f) s = becomes s (withWait s (b.fire s.curIx 8) (.tagw l) [f.t1])))) ∧
     (b.tagfWaits s.curIx = false → b.tagsTaken = 0 → s.savedTags s.cur = 0 →
       (∀ t < 64, (tags ||| (s.seq s.cur).tres).getLsbD t = false →
         (∀ u < t, (tags ||| (s.seq s.cur).tres).getLsbD u = true) →
         exec (.tagf f) s =
           becomes s ((withEff (b.fire s.curIx 8) s.curIx (.tagf t)).deliver [f.t1] (.word (BitVec.ofNat 64 t)))) ∧
       (tags ||| (s.seq s.cur).tres = BitVec.allOnes 64 → exec (.tagf f) s = becomes s (gave s b 8 [f.t1] 64)))) ∧
  (∀ (s : State) (b : Blk) (f : TC) (ts : List Target), s.blk s.cur s.curBlk = some b →
     (∀ k want passed, b.waiting s.curIx = some ⟨s.curIx, .flgw k want passed, ts⟩ →
       (passed = true ∨ s.flag k = want → exec (.flgw f) s =
         acquires s ((waitOver s b).deliver ts (.word (if s.flag k = true then 1 else 0)))) ∧
       (passed = false → s.flag k = !want → exec (.flgw f) s = .next s)) ∧
     (∀ l, b.waiting s.curIx = some ⟨s.curIx, .tagw l, ts⟩ →
       ((s.region s.cur).tags &&& l = l → exec (.tagw f) s = acquires s ((waitOver s b).deliver ts (.word l))) ∧
       ((s.region s.cur).tags &&& l ≠ l → exec (.tagw f) s = .next s)))

/-- R287, R290: the dependence-counter and copy-channel commands are checked against the partition and take effect at
commit; a head that is not a multiple of 128 or lies beyond 52 bits traps.
The model reads open points as log entry 59 says. -/
def Obligations.EngineCommandsAreHeld : Prop :=
  ∀ (s : State) (b : Blk) (f : TC), mayFire s b f.pr false →
    let sel : Word := BitVec.ofNat 64 f.imm.toNat
    let ch := s.chanNamed f.imm
    (∀ l, operandAt s b slotL l →
      let t := s.taskNamed l f.imm
      (s.taskGranted s.cur t = true →
        exec (.depd f) s = becomes s (withEff (b.fire s.curIx 8) s.curIx (.depd t (l.toNat % 2 ^ 16))) ∧
        exec (.depr f) s = becomes s (withEff (b.fire s.curIx 8) s.curIx (.depr t (l.toNat % 2 ^ 16)))) ∧
      (s.taskGranted s.cur t = false →
        exec (.depd f) s = becomes s (trapped s b 8 causeACCESS sel) ∧
        exec (.depr f) s = becomes s (trapped s b 8 causeACCESS sel)) ∧
      (s.chanGranted s.cur ch = true →
        (l.toNat % 128 = 0 → l.toNat < 2 ^ 52 →
          exec (.cpch f) s = becomes s (withEff (b.fire s.curIx 7) s.curIx (.cpch ch l))) ∧
        (l.toNat % 128 ≠ 0 → exec (.cpch f) s = becomes s (trapped s b 7 causeALIGN l)) ∧
        (l.toNat % 128 = 0 → 2 ^ 52 ≤ l.toNat → exec (.cpch f) s = becomes s (trapped s b 7 causeACCESS l)))) ∧
    (s.chanGranted s.cur ch = true →
      exec (.cpst f) s = becomes s (withEff (b.fire s.curIx 7) s.curIx (.cpst ch)) ∧
      exec (.cpab f) s = becomes s (withEff (b.fire s.curIx 7) s.curIx (.cpab ch))) ∧
    (s.chanGranted s.cur ch = false →
      exec (.cpst f) s = becomes s (trapped s b 7 causeACCESS sel) ∧
      exec (.cpab f) s = becomes s (trapped s b 7 causeACCESS sel))

/-! ## System registers -/

/-- R52-R54, R145, R177: SYSR delivers the register's value, as an acquire where it is flog.ctl, SYSW and HALT take effect at commit, WAITI delivers the latch
once it holds a bit; an id that is not implemented, or a SYSW of a read-only register, raises ILLINS. -/
def Obligations.SystemInstructions : Prop :=
  ∀ (s : State) (b : Blk), s.curBlk = 0 →
    (∀ f : TI, mayFire s b f.pr f.a →
      (∀ v, s.readReg s.cur f.imm.toNat = some v →
        (f.imm.toNat ≠ 0x045 → exec (.sysr f) s = becomes s (gave s b 0 [f.t1] v)) ∧
        (f.imm.toNat = 0x045 → exec (.sysr f) s = acquires s (gave s b 0 [f.t1] v))) ∧
      (s.readReg s.cur f.imm.toNat = none →
        exec (.sysr f) s = becomes s (trapped s b 0 causeILLINS (BitVec.ofNat 64 s.curIx)))) ∧
    (∀ (f : TC) (v : Word), mayFire s b f.pr false → operandAt s b slotL v →
      (s.readReg s.cur f.imm.toNat ≠ none → readOnly f.imm.toNat = false →
        exec (.sysw f) s = becomes s (withEff (b.fire s.curIx 0) s.curIx (.sysw f.imm.toNat v))) ∧
      (s.readReg s.cur f.imm.toNat = none ∨ readOnly f.imm.toNat = true →
        exec (.sysw f) s = becomes s (trapped s b 0 causeILLINS (BitVec.ofNat 64 s.curIx)))) ∧
    (∀ f : TC, mayFire s b f.pr false →
      exec (.halt f) s = becomes s (withEff (b.fire s.curIx 6) s.curIx .halt) ∧
      (b.waiting s.curIx = none →
        let l := (s.seq s.cur).latch
        (l ≠ 0 → exec (.waiti f) s =
          becomes s ((withEff (b.fire s.curIx 8) s.curIx (.waited l)).deliver [f.t1] (.word (l.setWidth 64)))) ∧
        (l = 0 → exec (.waiti f) s = becomes s (withWait s (b.fire s.curIx 8) .waiti [f.t1]))))

/-! ## The life of a block -/

/-- R11, R12, R18, R153, R154, R167: a block is read from memory as its 128-bit header and N + 1 little-endian words after
it. BLOCK_FETCH takes the block from the loop buffer where it is captured, and else reads it or traps with the failing
line; BLOCK_DECODE starts a block that passes its checks, and traps ILLINS with the index that fails.
The model reads open points as log entries 48 and 50 say. -/
def Obligations.BlocksAreReadAndStart : Prop :=
  (∀ (s : State) (q : Nat) (a : Word) (pa : Nat),
     let h := BitVec.ofNat 128 (numOf (s.load pa 16))
     let n := numOf (s.load pa 16) / 2 ^ 8 % 2 ^ 7 + 1
     fetchable s q a pa (16 + 4 * n) →
       ∃ k, s.fetchBlock q a = .ok k ∧ k.addr = a ∧ k.hdr = h ∧ k.words.length = n ∧
         ∀ j < n, k.words[j]? = some (BitVec.ofNat 32 (numOf (s.load (pa + 16 + 4 * j) 4)))) ∧
  ((∀ (s : State) (q : Nat) (a : Word), (s.seq q).cond = .fetch a → quiet s q →
     let reads (k : Copy) := completes (.blockFetch q) s fun t =>
       (t.seq q).cond = .decode k ∧ (t.seq q).g = (s.seq q).g ∧ (t.seq q).tm = (s.seq q).tm ∧ onlySeq q s t
     (∀ k, (s.captured q).find? (fun k => k.addr == a) = some k → reads k) ∧
     ((∀ k ∈ s.captured q, k.addr ≠ a) →
       (∀ k, s.fetchBlock q a = .ok k → reads k) ∧
       (s.fetchBlock q a = .wait → exec (.blockFetch q) s = .next s) ∧
       (∀ c l, s.fetchBlock q a = .fail c l →
         completes (.blockFetch q) s fun t => t.seq q = (s.seq q).enterTrap c a l ∧ onlySeq q s t))) ∧
   (∀ (s : State) (q : Nat) (k : Copy), (s.seq q).cond = .decode k → (quiet s q ∨ (s.seq q).tm = true) →
     (decodeFault k.hdr k.words (decide (q = service)) = none →
       completes (.blockDecode q) s fun t =>
         (t.seq q).cond = .run ∧ (t.seq q).blocks = [Blk.fresh k (s.now + (s.seq q).btime.toNat)] ∧
           (t.seq q).g = (s.seq q).g ∧ onlySeq q s t) ∧
     (∀ v, decodeFault k.hdr k.words (decide (q = service)) = some v →
       completes (.blockDecode q) s fun t =>
         t.seq q = (s.seq q).enterTrap causeILLINS k.addr (BitVec.ofNat 64 v) ∧ onlySeq q s t)))

/-- R16, R18: a header whose MARK is not 0xB5 or whose reserved bits are set, or AS = 0 beside an instruction with A = 1,
fails with 0xFF; else the lowest instruction that fails a check of its own is reported, among them every word that is no
instruction; where none does, a register, id or exit that no instruction names fails with 0xFF, and a block that passes
every check starts.
The model reads open points as log entry 59 says. -/
def Obligations.BlockChecksReportTheLowest : Prop :=
  ∀ (h : BitVec 128) (ws : List (BitVec 32)) (svc : Bool),
    let badHeader := h.extractLsb' 0 8 ≠ 0xB5 ∨ h.getLsbD 15 = true ∨ h.extractLsb' 21 11 ≠ 0
    let noSlice := h.getLsbD 20 = false ∧ ∃ k r, rawAt ws k r ∧ r.a = true
    (badHeader ∨ noSlice → decodeFault h ws svc = some 0xFF) ∧
    (¬ (badHeader ∨ noSlice) →
      (∀ v, ownCheckFails h ws svc v → (∀ k < v, ¬ ownCheckFails h ws svc k) → decodeFault h ws svc = some v) ∧
      ((∀ k, ¬ ownCheckFails h ws svc k) →
        (blockCheckFails h ws → decodeFault h ws svc = some 0xFF) ∧
        (¬ blockCheckFails h ws → decodeFault h ws svc = none))) ∧
    (∀ k v, decodeFault h ws svc = some v → v ≠ 0xFF → k < v → ∃ w i, ws[k]? = some w ∧ decode w = .ok i) ∧
    (∀ k w, ws[k]? = some w → (∀ i, decode w ≠ .ok i) → k < 0xFF → ∃ v, decodeFault h ws svc = some v ∧ (v ≤ k ∨ v = 0xFF))

/-- R163: taking a trap saves the cause, the address and the value, sets TM, discards what runs ahead and goes to
sq.tvec; with TM set it is a double trap, which stops the sequencer and keeps the saved registers.
The model reads open points as log entry 49 says. -/
def Obligations.TrapEntry : Prop :=
  ∀ (x : Seq) (cause : BitVec 8) (epc tval : Word), trapTaken x (x.enterTrap cause epc tval) cause epc tval

/-- R32, R157, R161, R288: a settled block with a trap condition is abandoned: the condition of the lowest index is taken with
sq.epc = the block's header, and nothing of the block has any effect but for the log of a rejected context. A block whose
time has run out before it commits or takes a trap is abandoned, and BLKHANG is taken; before its time is out it does not
time out. A CFGA of a context whose words or graph fail a check of R32 is such a condition, and so is a CFGW of a slot that
fails one which it passes without the block's CFGWs.
The model reads open points as log entries 74 and 104 say. -/
def Obligations.BlocksThatTrap : Prop :=
  (∀ (s : State) (q : Nat) (b : Blk) (c : TrapCond), (s.seq q).cond = .run → (s.seq q).blocks = [b] → b.settled = true →
     s.now < b.deadline → b.cfglSlots = [] → c ∈ s.trapsOf q b → (∀ u ∈ s.trapsOf q b, u = c ∨ c.ix < u.ix) →
     completes (.blockResolve q) s fun t => trapTaken (s.seq q) (t.seq q) c.cause b.addr c.tval ∧ t.ctxs = s.ctxs ∧
       (s.rejectsOf q b = [] → onlySeq q s t)) ∧
  (∀ (s : State) (q ix slot : Nat) (b : Blk) (w : Word), (ix, Eff.cfga slot) ∈ b.effs →
     (b.rewritten q slot (s.planOf (s.armable b q slot) slot)).slotReject s.sbufs = some w →
     ⟨ix, causeCFGREJECT, w⟩ ∈ s.trapsOf q b) ∧
  (∀ (s : State) (q ix slot site p : Nat) (v : BitVec 32) (b : Blk) (w : Word), (ix, Eff.cfgw slot site p v) ∈ b.effs →
     let plan := s.planOf (s.contextAt q slot) slot
     (b.rewritten q slot plan).slotReject s.sbufs = some w → plan.slotReject s.sbufs = none →
     ⟨ix, causeCFGREJECT, w⟩ ∈ s.trapsOf q b) ∧
  (∀ (plan : Plan) (live : Tab SBuf), plan.slotReject live = none ↔
     (∀ x ∈ plan, rectHolds plan x.1 x.2 ∧ ∀ i < 96, wordPasses plan [] x.1 x.2 i) ∧ plan.graphReject live = none) ∧
  (∀ (s : State) (q : Nat) (b : Blk), (s.seq q).cond = .run → (s.seq q).blocks = [b] →
     (s.now < b.deadline → exec (.blkhang q) s = .next s) ∧
     (b.deadline ≤ s.now →
       exec (.blockCommit q) s = .next s ∧ exec (.blockResolve q) s = .next s ∧
       (b.cfglSlots = [] →
         completes (.blkhang q) s fun t =>
           trapTaken (s.seq q) (t.seq q) causeBLKHANG b.addr b.lacks ∧ onlySeq q s t)))

/-- R48, R135, R158, R274, R277, R402: commit gives each register with a word its value and leaves the others; the bytes of a
block's stores stand in memory, the highest position last, and every other byte is unchanged. An atomic gives its registers
the old value, sign-extended, and leaves its result in memory; one whose read meets an uncorrectable error leaves memory, gives
0, and ECCU is taken before the next block. A FENCE holds the commit while an access issued before it is unperformed.
The model reads open points as log entries 4, 45 and 49 say. -/
def Obligations.CommitWritesRegistersAndStores : Prop :=
  (∀ (s : State) (q : Nat) (b : Blk) (e : Exit), committing s q b e → b.effs = [] →
    (e.kind = .go ∨ e.kind = .loop ∨ e.kind = .call ∨ e.kind = .ret ∨ e.kind = .eret) →
    (∀ m ∈ b.mem, m.eff = .none ∨ ∃ va pa bs, m.eff = .store va pa bs) →
    completes (.blockCommit q) s fun t =>
      (∀ g v, (g, Val.word v) ∈ b.regs → (∀ w, (g, w) ∈ b.regs → w = .word v) → (t.seq q).reg g = v) ∧
      (∀ g, (∀ v, (g, Val.word v) ∉ b.regs) → (t.seq q).reg g = (s.seq q).reg g) ∧
      (∀ p, p ≠ q → t.seq p = s.seq p) ∧ t.flags = s.flags ∧ t.tasks = s.tasks ∧ t.chans = s.chans ∧
      (∀ a, (∀ m ∈ b.mem, ∀ va pa bs, m.eff = .store va pa bs → ¬ (pa.toNat ≤ a ∧ a < pa.toNat + bs.length)) →
        Memory.byte t.mem a = Memory.byte s.mem a) ∧
      (∀ a, ∀ m ∈ b.mem, ∀ va pa bs, m.eff = .store va pa bs → pa.toNat ≤ a → a < pa.toNat + bs.length →
        (∀ k ∈ b.mem, ∀ vk pk bk, k.eff = .store vk pk bk → pk.toNat ≤ a → a < pk.toNat + bk.length →
          k = m ∨ k.lsid < m.lsid) →
        some (Memory.byte t.mem a) = bs[a - pa.toNat]?)) ∧
  (∀ (s : State) (q : Nat) (b : Blk) (e : Exit) (id ix : Nat) (op : AmoOp) (va pa : Word) (n : Nat) (r x : Word)
     (ixs : List Nat) (ord : BitVec 2), committing s q b e → goesOn s q → e.kind = .go → b.effs = [] → b.loads = [] →
     (n = 4 ∨ n = 8) → b.mem = [⟨id, ix, .amo op va pa n r x ixs ord⟩] →
     let old := numOf (Memory.bytes s.mem pa.toNat n)
     completes (.blockCommit q) s fun t =>
       (s.poisoned pa.toNat n = false →
         (t.seq q).cond = .fetch e.target ∧
         (∀ g ∈ b.wrgRegs ixs, (t.seq q).reg g = BitVec.ofInt 64 (signedOf (8 * n) old)) ∧
         (∀ v, amoResult op n old r.toNat x.toNat = some v → Memory.bytes t.mem pa.toNat n = bytesOf n v) ∧
         (amoResult op n old r.toNat x.toNat = none → t.mem = s.mem) ∧
         ∀ a, ¬ (pa.toNat ≤ a ∧ a < pa.toNat + n) → Memory.byte t.mem a = Memory.byte s.mem a) ∧
       (s.poisoned pa.toNat n = true → t.mem = s.mem ∧ (∀ g ∈ b.wrgRegs ixs, (t.seq q).reg g = 0) ∧
         ((s.seq q).tm = false → (t.seq q).cause = causeECCU ∧ (t.seq q).epc = e.target &&& ~~~ 0xF ∧
           (t.seq q).tval = va ∧ (t.seq q).tm = true))) ∧
  (∀ (s : State) (q : Nat) (b : Blk) (e : Exit) (id ix : Nat) (sc : BitVec 3) (pred succ : BitVec 8),
     b.mem = [⟨id, ix, .fence sc pred succ⟩] →
     (committing s q b e → b.loads = [] →
       ((∃ i ∈ s.issued q, s.unperformed pred i = true) → completes (.blockCommit q) s fun t =>
         (t.seq q).cond = .commit b.mem (s.issued q) ∧ (t.seq q).blocks = [b] ∧ t.mem = s.mem ∧ t.ctxs = s.ctxs ∧
           t.flags = s.flags ∧ t.tasks = s.tasks) ∧
       ((∀ i ∈ s.issued q, s.unperformed pred i = false) → goesOn s q → e.kind = .go → b.effs = [] →
         completes (.blockCommit q) s fun t => (t.seq q).cond = .fetch e.target ∧ t.mem = s.mem)) ∧
     (∀ began, (s.seq q).cond = .commit b.mem began → (s.seq q).blocks = [b] → b.exits = [e] →
       ((∃ i ∈ began, s.unperformed pred i = true) → completes (.blockCommit q) s fun t =>
         t.seq q = s.seq q ∧ t.mem = s.mem ∧ t.ctxs = s.ctxs ∧ t.tasks = s.tasks) ∧
       ((∀ i ∈ began, s.unperformed pred i = false) → goesOn s q → quiet s q → (s.seq q).waitDrain = false →
         e.kind = .go → b.effs = [] →
         completes (.blockCommit q) s fun t => (t.seq q).cond = .fetch e.target ∧ t.mem = s.mem)))

/-- R54, R57-R60, R138, R140, R143, R145, R158, R165, R271, R277, R283, R286-R288, R290: a block that commits goes on at its
exit's target; CALL pushes its fall-through address and RET pops and goes to the newest entry, and ERET clears TM. A block
that leaves by SCALL or TRAP commits, and the trap is taken with sq.epc = its fall-through address and sq.tval = the 12-bit
number. Each command that a block holds takes its effect at commit: port-node queues, fabric commands, arrivals, flags and
tags, dependence counters and copy channels, system registers, the latch; and HALT stops the sequencer at its exit's target.
The model reads open points as log entries 49, 54, 59, 63 and 96 say. -/
def Obligations.CommitExitsAndCalls : Prop :=
  (∀ (s : State) (q : Nat) (b : Blk) (e : Exit), committing s q b e → goesOn s q → b.effs = [] →
     (e.kind = .go ∨ e.kind = .loop ∨ e.kind = .call ∨ e.kind = .ret ∨ e.kind = .eret) →
     (∀ m ∈ b.mem, m.eff = .none ∨ ∃ va pa bs, m.eff = .store va pa bs) →
     completes (.blockCommit q) s fun t =>
       (t.seq q).cond = .fetch (if e.kind = .ret then (s.seq q).ras.headD e.target else e.target) ∧
       (t.seq q).blocks = [] ∧
       (t.seq q).ras = (if e.kind = .call then (b.fallThrough :: (s.seq q).ras).take 32
         else if e.kind = .ret then (s.seq q).ras.drop 1 else (s.seq q).ras) ∧
       (t.seq q).tm = (if e.kind = .eret then false else (s.seq q).tm) ∧
       (t.seq q).cause = (s.seq q).cause ∧ (t.seq q).epc = (s.seq q).epc ∧ (t.seq q).tvec = (s.seq q).tvec) ∧
  (∀ (s : State) (q : Nat) (b : Blk) (e : Exit) (n : Nat), committing s q b e → goesOn s q → b.effs = [] → b.mem = [] →
     b.loads = [] → b.regs = [] → b.events = [] → (e.kind = .scall n ∨ e.kind = .trap n) →
     completes (.blockCommit q) s fun t =>
       trapTaken (s.seq q) (t.seq q) (if e.kind = .scall n then causeSCALL else causeTRAPI) b.fallThrough (BitVec.ofNat 64 n) ∧
       t.mem = s.mem ∧ ∀ p, p ≠ q → t.seq p = s.seq p) ∧
  (∀ (s : State) (q k : Nat) (v : Word), q < 96 → k < 4 →
     let on (b : Blk) (e : Exit) (t : State) : Prop := (t.seq q).cond = .fetch e.target ∧ t.mem = s.mem ∧
       ∀ j < 4, (t.region q).egr.getD j [] = ((s.region q).egr.getD j []).drop (b.popped j)
     let pushed (t : State) (x : Bool × Word) : Prop := ∀ j < 4,
       (t.region q).ing.getD j [] = (s.region q).ing.getD j [] ++ if j = k then [x] else []
     commitsOne s q (.spush k v) (fun b e t => on b e t ∧ pushed t (false, v)) ∧
     commitsOne s q (.inj k v) (fun b e t => on b e t ∧ pushed t (true, v)) ∧
     (∀ (b : Blk) (e : Exit), committing s q b e → goesOn s q → e.kind = .go → b.effs = [] → b.mem = [] → b.loads = [] →
       completes (.blockCommit q) s fun t => on b e t ∧ ∀ j < 4, (t.region q).ing.getD j [] = (s.region q).ing.getD j [])) ∧
  (∀ (s : State) (q : Nat), q < 96 →
     (∀ rs, commitsOne s q (.cfgl rs) fun _ e t => (t.seq q).cond = .fetch e.target ∧ t.mem = s.mem ∧
       ∀ p ∈ rs, ∀ c, (s.region p.1).slots.find? p.2 = some c →
         (t.region p.1).slots.find? p.2 = some { c with marked := false }) ∧
     (∀ slot site p v c, (s.region q).slots.find? slot = some c → commitsOne s q (.cfgw slot site p v) fun _ e t =>
       (t.seq q).cond = .fetch e.target ∧ t.mem = s.mem ∧ (t.region q).slots.find? slot = some (c.withParam site p v) ∧
         ∀ k, k ≠ slot → (t.region q).slots.find? k = (s.region q).slots.find? k) ∧
     (∀ slot, s.loadedWith q slot ≠ [] → commitsOne s q (.cfga slot) fun _ e t =>
       (t.seq q).cond = .fetch e.target ∧ t.mem = s.mem ∧
         t.armings = s.armings ++ [⟨q, slot, s.loadedWith q slot, s.taskOf q⟩] ∧
         ∀ g ∈ s.loadedWith q slot, ∀ cid c, (s.region g).armed = some cid → t.ctxs.find? cid = some c → c.mode ≠ .run) ∧
     (∀ cid c, (s.region q).armed = some cid → s.ctxs.find? cid = some c → commitsOne s q .drain fun _ e t =>
       (t.seq q).cond = .held e.target ∧ (t.seq q).waitDrain = true ∧ t.mem = s.mem ∧
         ∃ c', t.ctxs.find? cid = some c' ∧ c'.mode = if c.mode = .run then .drain else c.mode) ∧
     (∀ site n cid c el, s.elemAt q site = some (cid, c, el) →
       commitsOne s q (.tcnt site n) fun _ e t => (t.seq q).cond = .fetch e.target ∧ t.mem = s.mem ∧
         (el.cfg.counts = false → t.ctxs = s.ctxs) ∧
         (el.cfg.counts = true → el.cfg.uncounted = false →
           ∃ el', (t.ctxs.find? cid).bind (·.elems.find? (siteKey q site)) = some el' ∧
             el'.cnt = min (el.cnt + n) 0xFFFFFFFE ∧ el'.cfg = el.cfg))) ∧
  (∀ (s : State) (q : Nat),
     (∀ h ixs, commitsOne s q (.bar h ixs) fun b e t => (t.seq q).cond = .fetch e.target ∧ t.mem = s.mem ∧
       t.arrivals = s.arrivals ++ [⟨h, q, b.wrgRegs ixs, true⟩] ∧ (t.seq q).awaits = b.wrgRegs ixs) ∧
     (∀ f v ixs, commitsOne s q (.flag f v ixs) fun b e t => (t.seq q).cond = .fetch e.target ∧ t.mem = s.mem ∧
       t.flag f = v ∧ (∀ k, k ≠ f → t.flag k = s.flag k) ∧
         ∀ g ∈ b.wrgRegs ixs, (t.seq q).reg g = if s.flag f = true then 1 else 0) ∧
     (∀ m, commitsOne s q (.tagc m) fun _ e t => (t.seq q).cond = .fetch e.target ∧ t.mem = s.mem ∧
       (t.region q).tags = (s.region q).tags &&& ~~~ m ∧ (t.seq q).tres = (s.seq q).tres &&& ~~~ m) ∧
     (∀ k < 64, commitsOne s q (.tagf k) fun _ e t => (t.seq q).cond = .fetch e.target ∧ t.mem = s.mem ∧
       ∀ j < 64, (t.seq q).tres.getLsbD j = ((s.seq q).tres.getLsbD j || decide (j = k))) ∧
     (∀ k n, commitsOne s q (.depd k n) fun _ e t => (t.seq q).cond = .fetch e.target ∧
       let c := (s.task k).counter.toNat
       (t.task k).counter.toNat = c - min c n ∧
         (t.task k).state = if (s.task k).state = .wait ∧ 0 < c ∧ c ≤ n then .ready else (s.task k).state) ∧
     (∀ k n, n < 2 ^ 16 → (s.task k).state = .wait ∨ (s.task k).state = .done →
       commitsOne s q (.depr k n) fun _ e t => (t.seq q).cond = .fetch e.target ∧ t.mem = s.mem ∧
         (t.task k).counter.toNat = n ∧ (t.task k).state = if n = 0 then .ready else .wait) ∧
     (∀ m, commitsOne s q (.waited m) fun _ e t => (t.seq q).cond = .fetch e.target ∧ t.mem = s.mem ∧
       (t.seq q).latch = (s.seq q).latch &&& ~~~ m) ∧
     (∀ (v : Word) (id : Nat) (w : Word), (id, w) ∈ [(0x001, v &&& 0xFF), (0x002, v &&& ~~~ 0xF), (0x003, v), (0x004, v),
         (0x005, v &&& ~~~ 0xF), (0x007, if v.toNat % 2 ^ 32 < 1024 then 1024 else v &&& 0xFFFFFFFF),
         (0x010, v &&& 0xFFFFFFFFFFFF)] →
       commitsOne s q (.sysw id v) fun _ e t => (t.seq q).cond = .fetch e.target ∧ t.mem = s.mem ∧
         t.readReg q id = some w) ∧
     commitsOne s q .halt fun _ e t =>
       (t.seq q).cond = .halted e.target ∧ (t.seq q).blocks = [] ∧ (t.seq q).lbuf = [] ∧ t.mem = s.mem) ∧
  (∀ (s : State) (q ch : Nat),
     let x := s.chan ch
     let only (t : State) : Prop := t.mem = s.mem ∧ ∀ j, j ≠ ch → t.chan j = s.chan j
     (∀ a, commitsOne s q (.cpch ch a) fun _ _ t =>
       only t ∧ t.chan ch = { x with queue := x.queue ++ [(a, q, s.taskOf q)] }) ∧
     (commitsOne s q (.cpst ch) fun _ _ t => only t ∧
       (x.mode ≠ .stop → t.chan ch = x) ∧ (x.mode = .stop → (t.chan ch).mode = .run ∧ (t.chan ch).phase = .read)) ∧
     commitsOne s q (.cpab ch) fun _ _ t => only t ∧
       (x.mode = .idle → t.chan ch = { x with queue := [] }) ∧ (t.chan ch).queue = [] ∧
       (x.mode = .run ∧ x.phase = .read ∨ x.mode = .stop ∧ x.data = [] → (t.chan ch).mode = .idle) ∧
       (x.mode = .run ∧ (∃ k a, x.phase = .final k a) ∨ x.mode = .stop ∧ x.data ≠ [] →
         (t.chan ch).mode = .run ∧ (t.chan ch).phase = .final 0x10 0) ∧
       (x.mode = .run → x.phase ≠ .read → (∀ k a, x.phase ≠ .final k a) →
         (t.chan ch).abort = true ∧ (t.chan ch).phase = x.phase))

/-- R112, R114, R115, R170: a predicted block with AS = 1 that passes its checks starts behind the youngest block; a held DBGHALT
is taken between blocks, also where the next block has been read and not started. A region that is hung is declared so:
it freezes, and HANG is taken where hang.ctl asks for it.
The model reads open points as log entries 26 and 47 say. -/
def Obligations.RunAheadAndDebugHalts : Prop :=
  (∀ (s : State) (q : Nat) (b : Blk) (a : Word) (k : Copy), (s.seq q).cond = .run →
    (s.seq q).blocks.getLast? = some b → (s.seq q).raen = true → (s.seq q).blocks.length ≤ 4 →
    (s.seq q).predicted b = some a → s.fetchBlock q a = .ok k →
    decodeFault k.hdr k.words (decide (q = service)) = none → k.hdr.getLsbD 20 = true →
    completes (.runaheadBlockStart q) s fun t =>
      (t.seq q).blocks = (s.seq q).blocks ++ [Blk.fresh k (s.now + (s.seq q).btime.toNat)] ∧
        (t.seq q).g = (s.seq q).g ∧ onlySeq q s t) ∧
  (∀ (s : State) (q : Nat) (a v : Word) (vs : List Word) (i : Instr),
    (i = .dbghalt q ∧ ((s.seq q).cond = .fetch a ∨ (s.seq q).cond = .held a) ∨
      (i = .dbghalt q ∨ i = .blockDecode q) ∧ ∃ k, (s.seq q).cond = .decode k ∧ k.addr = a) →
    (s.seq q).tm = false → (s.seq q).asyncHang = none → (s.seq q).asyncPreempt = none → (s.seq q).asyncDbg = v :: vs →
    (s.seq q).blocks = [] →
    completes i s fun t =>
      trapTaken (s.seq q) (t.seq q) causeDBGHALT a v ∧ (t.seq q).asyncDbg = vs ∧ onlySeq q s t) ∧
  (∀ (s : State) (q : Nat), q < 96 → s.hung q = true → s.taskOf q = none → completes (.hangDeclaration q) s fun t =>
    (t.seq q).frozen = true ∧ t.ctxs = s.ctxs ∧
      ∀ e, (s.seq q).hangTrap = true → (s.seq q).tm = false → (s.seq q).resumeAt = some e →
        (t.seq q).cause = causeHANG ∧ (t.seq q).tm = true ∧ (t.seq q).epc = e &&& ~~~ 0xF)

/-- R172, R273, R310: a repeat takes back firings of its sequencer's blocks and the slots their CFGLs wrote, and changes
nothing else. An acquire repeats the delivered loads of younger blocks whose value or place no longer stands, a store
those of a byte it writes, with what they have fed, and nothing where there is none; neither repeats anything of the
oldest block.
The model reads open points as log entries 94 and 95 say. -/
def Obligations.RepeatsTakeBackYoungerLoads : Prop :=
  (∀ (s : State) (q : Nat) (sel : Nat → Blk → List Nat),
     let t := s.retake q sel
     t.mem = s.mem ∧ t.flags = s.flags ∧ t.tasks = s.tasks ∧ t.chans = s.chans ∧ t.ctxs = s.ctxs ∧ t.sbufs = s.sbufs ∧
       t.energy = s.energy ∧ (∀ p, p ≠ q → t.seq p = s.seq p) ∧
       (∃ bs, t.seq q = { s.seq q with blocks := bs } ∧ bs.length = (s.seq q).blocks.length) ∧
       ∀ r, { t.region r with slots := (s.region r).slots } = s.region r) ∧
  (∀ (s : State) (q n : Nat) (b : Blk) (l : LoadRec), n ≠ 0 → (s.seq q).blocks[n]? = some b → l ∈ b.loads →
     l.ix ∈ b.fired → s.outdated q b l = true →
     ∃ b', ((s.afterAcquire q).seq q).blocks[n]? = some b' ∧ l.ix ∉ b'.fired ∧
       ∀ t ∈ b.targetsOf l.ix, b'.slots.find? t = none ∧ t / 4 ∉ b'.fired) ∧
  (∀ (s : State) (q pa k n : Nat) (b : Blk) (l : LoadRec), n ≠ 0 → (s.seq q).blocks[n]? = some b → l ∈ b.loads →
     l.ix ∈ b.fired → l.done = true → 0 < l.n → 0 < k → l.pa.toNat < pa + k → pa < l.pa.toNat + l.n →
     ∃ b', ((s.afterStore q pa k).seq q).blocks[n]? = some b' ∧ l.ix ∉ b'.fired ∧
       ∀ t ∈ b.targetsOf l.ix, b'.slots.find? t = none ∧ t / 4 ∉ b'.fired) ∧
  (∀ (s : State) (q pa k : Nat), (∀ n b, n ≠ 0 → (s.seq q).blocks[n]? = some b → ∀ l ∈ b.loads,
     l.done = true → l.pa.toNat + l.n ≤ pa ∨ pa + k ≤ l.pa.toNat) → s.afterStore q pa k = s) ∧
  (∀ (s : State) (q : Nat), (∀ n b, n ≠ 0 → (s.seq q).blocks[n]? = some b → ∀ l ∈ b.loads, s.outdated q b l = false) →
     s.afterAcquire q = s) ∧
  (∀ (s : State) (q pa n : Nat), ((s.afterStore q pa n).seq q).blocks.head? = (s.seq q).blocks.head? ∧
     ((s.afterAcquire q).seq q).blocks.head? = (s.seq q).blocks.head?)

/-! ## Elements of the fabric -/

/-- R75, R87, R90, R94, R355, R395: a firing takes the heads of the inputs it consumes, appends what it emits, on its
way, to every arc of the output, keeps every other site's element, and changes no memory, no flag and no sequencer; the
context is at its phase end no longer where tokens have come since. The
header of a result takes OFMT, the shape, CHN, SRCID and EP of i0, and LR, LS and PSN where any input has them; a
bubble on either input gives a bubble of i0's shape, and shapes that do not agree a poisoned token, logged.
The model reads open points as log entries 5, 25, 29 and 69 say. -/
def Obligations.FiringsAndHeaders : Prop :=
  (∀ (s : State) (r site cid : Nat) (c : Ctx) (el : Elem) (f : Firing), f.logs = [] → f.post = id →
     s.receiptLogs c el (siteKey r site) f.consume = [] →
     (∀ q ∈ c.regions, (s.seq q).hen = false ∧ (s.seq q).heldPrev = 0) →
     (∀ a ∈ c.arcs, a.relReg = none ∧ a.back = [] ∧ ∀ f ∈ a.toks, f.rel = 0) →
     let t := s.applyFiring r site cid c el f
     let key := siteKey r site
     t.mem = s.mem ∧ t.flags = s.flags ∧ t.seqs = s.seqs ∧ t.tasks = s.tasks ∧
     (∀ k, k ≠ cid → t.ctxs.find? k = s.ctxs.find? k) ∧
     (s.energy.getD r 0 + f.tenths * (22 + (s.region r).vcur) ^ 2 ≤ (2 ^ 48 - 1) * 9000 →
       t.energy.getD r 0 = s.energy.getD r 0 + f.tenths * (22 + (s.region r).vcur) ^ 2) ∧
     ∃ c', t.ctxs.find? cid = some c' ∧ c'.regions = c.regions ∧ c'.task = c.task ∧ c'.mode = c.mode ∧
       c'.ended = (c.ended && c'.phaseOver) ∧ (∀ k, k ≠ key → c'.elems.find? k = c.elems.find? k) ∧
       (∃ b, c'.elems.find? key = some { f.el with lsSeen := b } ∧ (f.el.lsSeen = true → b = true)) ∧
       c'.arcs.length = c.arcs.length ∧
       ∀ (k : Nat) (a : Arc), c.arcs[k]? = some a →
         ∃ a' : Arc, c'.arcs[k]? = some a' ∧ a'.src = a.src ∧ a'.dst = a.dst ∧ a'.cap = a.cap ∧
           a'.toks = (if f.consume.any (fun i => a.dst == key * 4 + i) then a.toks.drop 1 else a.toks) ++
             (f.emits.filter fun ot => a.src == key * 4 + ot.1).map fun ot => (⟨ot.2, false, 0⟩ : Flying)) ∧
  ((∀ (fmt rows cols : Nat) (x : Token) (ts : List Token), fmt < 32 → 1 ≤ rows → rows ≤ 32 → 1 ≤ cols → cols ≤ 32 →
     let h := vecHdr fmt (x :: ts) rows cols
     hFmt h = fmt ∧ hRows h = rows ∧ hCols h = cols ∧ hScl h = isMx fmt ∧ hChn h = hChn x.hdr ∧ hSrc h = hSrc x.hdr ∧
       hEp h = hEp x.hdr ∧ hBub h = false ∧ kindOfHdr h = .data ∧
       (hLr h = true ↔ ∃ t ∈ x :: ts, t.lr = true) ∧ (hLs h = true ↔ ∃ t ∈ x :: ts, t.ls = true) ∧
       (hPsn h = true ↔ ∃ t ∈ x :: ts, t.psn = true)) ∧
   ∀ i op, (i, op) ∈ [(Instr.vadd, 0x01), (Instr.vsub, 0x02), (Instr.vmul, 0x03), (Instr.vmin, 0x04), (Instr.vmax, 0x05),
       (Instr.vadds, 0x08), (Instr.vsubs, 0x09), (Instr.vand, 0x0A), (Instr.vor, 0x0B), (Instr.vxor, 0x0C),
       (Instr.vshl, 0x0D), (Instr.vshr, 0x0E), (Instr.vsra, 0x0F), (Instr.vcmp, 0x10)] →
     ∀ (s : State) (cid : Nat) (c : Ctx) (el : Elem) (x y : Token), elemReady s 0 op cid c el → arrives s c el 0 x →
       arrives s c el 1 y → plainTok el 0 x → plainTok el 1 y → roomOn s c 0 →
       (x.bub = true ∨ y.bub = true →
         moves i s cid c el [0, 1] [(0, bubble (vecHdr el.cfg.ofmt [x, y] x.rows x.cols))] el []) ∧
       (x.bub = false → y.bub = false → (x.rows ≠ y.rows ∨ x.cols ≠ y.cols) → (x.rows ≠ 1 ∨ x.cols ≠ 1) →
         (y.rows ≠ 1 ∨ y.cols ≠ 1) →
         ∃ t, moves i s cid c el [0, 1] [(0, t)] el [ownLog el t] ∧
           t.hdr = hSetPsn (vecHdr el.cfg.ofmt [x, y] x.rows x.cols) true))

/-- R76, R78, R183: each two-input elementwise operation. -/
def Obligations.VectorPairResults : Prop :=
  vecPair .vadd 0x01 (vecArith (· + ·) ExactVal.add) ∧
  vecPair .vsub 0x02 (vecArith (· - ·) fun r a b => ExactVal.add r a b.neg) ∧
  vecPair .vmul 0x03 (vecArith (· * ·) fun _ => ExactVal.mul) ∧
  vecPair .vmin 0x04 (fun c => lesserCode c.ofmt) ∧
  vecPair .vmax 0x05 (fun c => greaterCode c.ofmt) ∧
  vecPair .vadds 0x08 (fun c a b =>
    wrapped c.ofmt (max (lowest c.ofmt) (min (highest c.ofmt) (codeValue c.ofmt a + codeValue c.ofmt b)))) ∧
  vecPair .vsubs 0x09 (fun c a b =>
    wrapped c.ofmt (max (lowest c.ofmt) (min (highest c.ofmt) (codeValue c.ofmt a - codeValue c.ofmt b)))) ∧
  vecPair .vand 0x0A (fun _ a b => a &&& b) ∧
  vecPair .vor 0x0B (fun _ a b => a ||| b) ∧
  vecPair .vxor 0x0C (fun _ a b => a ^^^ b) ∧
  vecPair .vshl 0x0D (fun c a b => wrapped c.ofmt (a * 2 ^ (b % fmtBits c.ofmt))) ∧
  vecPair .vshr 0x0E (fun c a b => a / 2 ^ (b % fmtBits c.ofmt)) ∧
  vecPair .vsra 0x0F (fun c a b => wrapped c.ofmt (signedOf (fmtBits c.ofmt) a / 2 ^ (b % fmtBits c.ofmt))) ∧
  vecPair .vcmp 0x10 (fun c a b =>
    if condHolds (c.mode / 2) (valueOf (c.ifmt.getD 0 0) a) (valueOf (c.ifmt.getD 0 0) b) then 1 else 0)

/-- R77-R79, R183, R186, R188-R190: the other vector operations on elements, rows and tiles; VRMAX takes -0 below +0, as
VMAX does, and an exact zero of VFMA is +0 but for two zeros that are both -0.
The model reads open points as log entry 33 says. -/
def Obligations.VectorUnaryAndRowResults : Prop :=
  vecOne .vabs 0x06 (fun c a =>
    if isInt c.ofmt then wrapped c.ofmt (if isSigned c.ofmt then (codeValue c.ofmt a).natAbs else a)
    else a % 2 ^ (fmtBits c.ofmt - 1)) ∧
  vecOne .vneg 0x07 (fun c a =>
    if isInt c.ofmt then wrapped c.ofmt (-a)
    else (a + 2 ^ (fmtBits c.ofmt - 1)) % (2 * 2 ^ (fmtBits c.ofmt - 1))) ∧
  vecOne .vaddi 0x13 (fun c a => wrapped c.ofmt (a + signedOf 32 (c.p.getD 0 0).toNat)) ∧
  vecOne .vcmpi 0x11 (fun c a =>
    let f := c.ifmt.getD 0 0
    let p := (c.p.getD 0 0).toNat
    let k : ExactVal := if isIeee f then valueOf fmtF32 p else if isSigned f then ofUnits (signedOf 32 p) 0 else .fin false p 0
    if condHolds (c.mode / 2) (valueOf f a) k then 1 else 0) ∧
  (∀ (s : State) (cid : Nat) (c : Ctx) (el : Elem) (p x y : Token), elemReady s 0 0x12 cid c el → holdsTile s c el 0 p →
    holdsTile s c el 1 x → holdsTile s c el 2 y → x.rows = y.rows → x.cols = y.cols → spreads p x.rows x.cols →
    roomOn s c 0 →
    moves .vsel s cid c el [0, 1, 2] [(0, elemTok (vecHdr el.cfg.ofmt [p, x, y] x.rows x.cols)
      ((List.range (x.rows * x.cols)).map fun e =>
        if p.at e ≠ 0 then x.codes.getD e 0 else y.codes.getD e 0))] el []) ∧
  (∀ (s : State) (cid : Nat) (c : Ctx) (el : Elem) (x y z : Token) (r k : Nat), elemReady s 0 0x1A cid c el →
    holdsTile s c el 0 x → holdsTile s c el 1 y → holdsTile s c el 2 z → spreads x r k → spreads y r k →
    spreads z r k → (x.rows = r ∧ x.cols = k ∨ y.rows = r ∧ y.cols = k ∨ z.rows = r ∧ z.cols = k) → roomOn s c 0 →
    moves .vfma s cid c el [0, 1, 2] [(0, elemTok (vecHdr el.cfg.ofmt [x, y, z] r k)
      ((List.range (r * k)).map fun e =>
        if isInt el.cfg.ofmt then wrapped el.cfg.ofmt (x.at e * y.at e + z.at e)
        else roundTo el.cfg.ofmt (modeOf el.cfg) (ExactVal.add .rne
          (ExactVal.mul (valueOf el.cfg.ofmt (x.at e)) (valueOf el.cfg.ofmt (y.at e))) (valueOf el.cfg.ofmt (z.at e)))))]
      el []) ∧
  vecRow .vrsum 0x28 (fun c row v =>
    let f := c.ifmt.getD 0 0
    (isInt c.ofmt = true → v = wrapped c.ofmt ((row.map (codeValue f)).sum)) ∧
    (isInt c.ofmt = false → ∀ a as, row.map (valueOf f) = a :: as →
      v = roundTo c.ofmt (modeOf c) (as.foldl (ExactVal.add (modeOf c)) a))) ∧
  vecRow .vrmax 0x29 (fun c row v =>
    let f := c.ofmt
    (isInt f = true → v ∈ row ∧ ∀ u ∈ row, codeValue f u ≤ codeValue f v) ∧
    (isIeee f = true →
      ((∀ u ∈ row, valueOf f u = .nan) → v = (floatFmt f).nanCode) ∧
      ((∃ u ∈ row, valueOf f u ≠ .nan) → v ∈ row ∧ valueOf f v ≠ .nan ∧
        ∀ u ∈ row, (valueOf f v).lt (valueOf f u) = false ∧
          ((valueOf f v).eqv (valueOf f u) = true → (valueOf f v).negSign = true → (valueOf f u).negSign = true)))) ∧
  (∀ (s : State) (cid : Nat) (c : Ctx) (el : Elem) (x : Token), elemReady s 0 0x2A cid c el → holdsTile s c el 0 x →
    roomOn s c 0 →
    ∃ codes, moves .vtrn s cid c el [0] [(0, elemTok (hSetShape x.hdr x.cols x.rows) codes)] el [] ∧
      codes.length = x.cols * x.rows ∧
      ∀ row < x.rows, ∀ col < x.cols, codes[col * x.rows + row]? = x.codes[row * x.cols + col]?)

/-- R184, R185, R187, R191, R193, R245, R246: conversions round each exact value once, VSCL scales by a power of two,
HMIX hashes the block indices, VMASK keeps and scales the elements whose mask bit is set. Each transcendental
operation rounds the function's value once to nearest even, with the table's special values: 2^a is exact at integers and
2^(a + j) is 2^a times 2^j; 1/a and 1/√a are exact or lie strictly between neighbours of a whole number of units that
is at least 2^200; log2 is the same for a number however it is written; tanh is odd, and with σ = VSIGM, σ(-2a) = 1 - σ(2a) and tanh a is
2σ(2a) - 1 to within 2^-700. √2, tanh 1 and σ(1) are right to 60 places.
The model reads open points as log entries 34, 35 and 109 say. -/
def Obligations.ConvertedMaskedAndTranscendental : Prop :=
  ((∀ (s : State) (cid : Nat) (c : Ctx) (el : Elem) (x y : Token), elemReady s 0 0x18 cid c el → holdsTile s c el 0 x →
     (el.cfg.mode / 2 = 4 → holdsTile s c el 1 y) → roomOn s c 0 →
     let ts := if el.cfg.mode / 2 = 4 then [x, y] else [x]
     let ins := if el.cfg.mode / 2 = 4 then [0, 1] else [0]
     let r := roundAt el.cfg (BitVec.ofNat 32 (y.codes.getD 0 0))
     let hd := vecHdr el.cfg.ofmt ts x.rows x.cols
     (isMx el.cfg.ofmt = false → moves .vcvt s cid c el ins [(0, elemTok hd ((List.range (x.rows * x.cols)).map fun e =>
       roundTo el.cfg.ofmt (r (e / x.cols) (e % x.cols)) (x.value (e / x.cols) (e % x.cols))))] el []) ∧
     (isMx el.cfg.ofmt = true → x.cols = 32 → ∃ codes scales, moves .vcvt s cid c el ins [(0, mxTok hd codes scales)] el [] ∧
       mxConverted el.cfg.ofmt r x.rowValues x.rows codes scales) ∧
     (isMx el.cfg.ofmt = true → x.cols ≠ 32 →
       ∃ t, moves .vcvt s cid c el ins [(0, t)] el [ownLog el t] ∧ t.hdr = hSetPsn hd true)) ∧
   (∀ (s : State) (cid : Nat) (c : Ctx) (el : Elem) (x : Token), elemReady s 0 0x19 cid c el → holdsTile s c el 0 x →
     x.fmt = el.cfg.ofmt → roomOn s c 0 →
     let k := signedOf 9 (parNum el.cfg 0)
     let hd := vecHdr el.cfg.ofmt [x] x.rows x.cols
     (isMx x.fmt = false → moves .vscl s cid c el [0] [(0, elemTok hd (x.codes.map fun a =>
       roundTo x.fmt (modeOf el.cfg) ((valueOf x.fmt a).shift (-k))))] el []) ∧
     (isMx x.fmt = true → ∃ codes scales, moves .vscl s cid c el [0] [(0, mxTok hd codes scales)] el [] ∧
       codes.length = x.rows * x.cols ∧ scales.length = x.rows ∧ ∀ r < x.rows,
         let sc := x.scales.getD r 0
         (sc = 0xFF ∨ 0xFE < sc + k → scales[r]? = some 0xFF) ∧
         (sc ≠ 0xFF → sc + k < 0 → scales[r]? = some 0 ∧ ∀ j < x.cols, codes[r * x.cols + j]? = some 0) ∧
         (sc ≠ 0xFF → 0 ≤ sc + k → sc + k ≤ 0xFE → scales[r]? = some (sc + k).toNat) ∧
         (sc = 0xFF ∨ 0 ≤ sc + k → ∀ j < x.cols, codes[r * x.cols + j]? = x.codes[r * x.cols + j]?))) ∧
   (∀ (s : State) (cid : Nat) (c : Ctx) (el : Elem) (x : Token), elemReady s 0 0x30 cid c el → holdsTile s c el 0 x →
     roomOn s c 0 →
     let rows := parNum el.cfg 3 / 2 ^ 16 % 32 + 1
     let h := fun (k q : Nat) => mixHash (blockIndex el.cfg (BitVec.ofNat 32 (x.codes.getD 0 0)) k ^^^ parWord el.cfg 0)
       (parWord el.cfg 2 ^^^ parWord el.cfg 1 ^^^ (BitVec.ofNat 32 q <<< 29))
     ∃ codes, moves .hmix s cid c el [0] [(0, elemTok (vecHdr 0x07 [x] rows 1) codes)] el [] ∧ codes.length = rows ∧
       ∀ k < rows,
         (el.cfg.mode / 2 % 2 = 0 → codes[k]? = some (h k 0).toNat) ∧
         (el.cfg.mode / 2 % 2 = 1 → ∀ j < 32, (codes.getD k 0).testBit j =
           decide ((((h k (j / 4)) >>> (8 * (j % 4))).setWidth 8).toNat < parNum el.cfg 3 % 512))) ∧
   (∀ (s : State) (cid : Nat) (c : Ctx) (el : Elem) (x m : Token), elemReady s 0 0x31 cid c el → holdsTile s c el 0 x →
     holdsTile s c el 1 m → roomOn s c 0 →
     let f := el.cfg.ofmt
     let hd := vecHdr f [x, m] x.rows x.cols
     (m.rows = x.rows → m.cols = 1 → moves .vmask s cid c el [0, 1] [(0, elemTok hd
       ((List.range (x.rows * x.cols)).map fun e =>
         if (m.codes.getD (e / x.cols) 0).testBit (e % x.cols) then
           roundTo f (modeOf el.cfg) (ExactVal.mul (valueOf f (x.codes.getD e 0)) (valueOf fmtF32 (parNum el.cfg 0)))
         else 0))] el []) ∧
     (m.rows ≠ x.rows → ∃ t, moves .vmask s cid c el [0, 1] [(0, t)] el [ownLog el t] ∧
       t = elemTok (hSetPsn hd true) (List.replicate (x.rows * x.cols) 0)))) ∧
  ((∀ i op f, (i, op, f) ∈ [(Instr.vexp2, 0x20, exp2Of), (Instr.vlog2, 0x21, log2Of), (Instr.vrcp, 0x22, rcpOf),
       (Instr.vrsq, 0x23, rsqOf), (Instr.vtanh, 0x24, tanhOf), (Instr.vsigm, 0x25, sigmOf)] →
     f .nan = .nan ∧
     ∀ (s : State) (cid : Nat) (c : Ctx) (el : Elem) (x : Token), elemReady s 0 op cid c el → holdsTile s c el 0 x →
       roomOn s c 0 →
       moves i s cid c el [0] [(0, elemTok (vecHdr el.cfg.ofmt [x] x.rows x.cols)
         (x.codes.map fun a => roundTo el.cfg.ofmt .rne (f (valueOf (el.cfg.ifmt.getD 0 0) a))))] el []) ∧
   (∀ (n : Bool) (m : Nat) (e : Int) (k : Nat), m ≠ 0 → -700 ≤ e → k < 4096 → m * 2 ^ (e + 700).toNat = k * 2 ^ 700 →
     exp2Of (.fin n m e) = .fin false 1 (if n then -(k : Int) else k)) ∧
   (∀ (m m' : Nat) (e : Int) (j y : Nat) (k : Int), m ≠ 0 → m' ≠ 0 → -700 ≤ e →
     let u := fun (n : Nat) => n * 2 ^ (e + 700).toNat
     u m < 4096 * 2 ^ 700 → u m' < 4096 * 2 ^ 700 → exp2Of (.fin false m e) = .fin false y k →
     (u m' = u m + j * 2 ^ 700 → exp2Of (.fin false m' e) = .fin false y (k + j)) ∧
     (u m + u m' = j * 2 ^ 700 → exp2Of (.fin true m' e) = .fin false y (k - j))) ∧
   (∃ y, exp2Of (.fin false 1 (-1)) = .fin false y (-701) ∧ (y - 2 ^ 80) * (y - 2 ^ 80) < 2 ^ 1403 ∧
     2 ^ 1403 < (y + 2 ^ 80) * (y + 2 ^ 80)) ∧
   (∀ (n : Bool) (m : Nat) (e : Int), m ≠ 0 → ∃ x g, rcpOf (.fin n m e) = .fin n x g ∧ g + e ≤ 0 ∧ 2 ^ 200 ≤ x ∧
     let v := 2 ^ (-g - e).toNat
     (x % 2 = 0 → x * m = v) ∧ (x % 2 = 1 → x * m < v + m ∧ v < x * m + m)) ∧
   (∀ (m : Nat) (e : Int), m ≠ 0 → m < 2 ^ 64 → ∃ x g, rsqOf (.fin false m e) = .fin false x g ∧ 2 * g + e ≤ 0 ∧
     2 ^ 200 ≤ x ∧
     let v := 2 ^ (-2 * g - e).toNat
     (x % 2 = 0 → x * x * m = v) ∧ (x % 2 = 1 → (x - 1) * (x - 1) * m < v ∧ v < (x + 1) * (x + 1) * m)) ∧
   (∀ (m : Nat) (e : Int), log2Of (.fin false (2 * m) e) = log2Of (.fin false m (e + 1))) ∧
   (∀ (m : Nat) (e : Int), tanhOf (.fin true m e) = (tanhOf (.fin false m e)).neg) ∧
   (∀ (m : Nat) (e : Int), m ≠ 0 → absFloor m e < 64 → ∃ t g h, tanhOf (.fin false m e) = .fin false t (-701) ∧
     sigmOf (.fin false (2 * m) e) = .fin false g (-701) ∧ sigmOf (.fin true (2 * m) e) = .fin false h (-701) ∧
     t < 2 ^ 701 ∧ ((g : Int) + h - 2 ^ 701).natAbs ≤ 2 ∧ ((t : Int) - (2 * g - 2 ^ 701)).natAbs ≤ 2) ∧
   (∃ t g, tanhOf (.fin false 1 0) = .fin false t (-701) ∧ sigmOf (.fin false 1 0) = .fin false g (-701) ∧
     t * 10 ^ 60 / 2 ^ 701 = 761594155955764888119458282604793590412768597257936551596810 ∧
     g * 10 ^ 60 / 2 ^ 701 = 731058578630004879251159241821836274365144640165056519276365) ∧
   (∀ n e, exp2Of (.inf true) = .fin false 0 0 ∧ exp2Of (.inf false) = .inf false ∧ exp2Of (.fin n 0 e) = .fin false 1 0) ∧
   (∀ n m e, log2Of (.inf true) = .nan ∧ log2Of (.inf false) = .inf false ∧ log2Of (.fin n 0 e) = .inf true ∧
     (m ≠ 0 → log2Of (.fin true m e) = .nan) ∧ log2Of (.fin false 1 e) = .fin (e < 0) e.natAbs 0) ∧
   (∀ n e, rcpOf (.inf n) = .fin n 0 0 ∧ rcpOf (.fin n 0 e) = .inf n) ∧
   (∀ n m e, rsqOf (.inf true) = .nan ∧ rsqOf (.inf false) = .fin false 0 0 ∧ rsqOf (.fin n 0 e) = .inf n ∧
     (m ≠ 0 → rsqOf (.fin true m e) = .nan)) ∧
   (∀ n e, tanhOf (.inf n) = .fin n 1 0 ∧ tanhOf (.fin n 0 e) = .fin n 0 0) ∧
   (∀ n e, sigmOf (.inf true) = .fin false 0 0 ∧ sigmOf (.inf false) = .fin false 1 0 ∧
     sigmOf (.fin n 0 e) = .fin false 1 (-1)))

/-- R194-R197: a data token at a tile port is written into TL; XCH at both ports exchanges TA and TL; TLD applies TA
to a stream; TEMIT emits TA for each trigger; TXCH places an XCH after every P0 data tokens.
The model reads open points as log entries 29, 30, 97 and 98 say. -/
def Obligations.TileRegisters : Prop :=
  (∀ op stream port, (op, stream, port) ∈ [(0x40, 0, 1), (0x41, 0, 2), (0x50, 1, 0), (0x52, 0, 1)] →
    ∀ (s : State) (cid : Nat) (c : Ctx) (el : Elem), elemReady s 0 op cid c el →
      (∀ t, arrives s c el port t → plainTok el port t →
        moves .tilePortWrite s cid c el [port] [] { el with tl := some t } []) ∧
      (∀ a b, arrives s c el stream a → arrives s c el port b → a.kind = .xch → b.kind = .xch →
        (op = 0x41 → roomOn s c 0) →
        moves .tileExchange s cid c el [stream, port] (if op = 0x41 then [(0, a)] else [])
          { el with ta := el.tl, tl := el.ta } [])) ∧
  (∀ (s : State) (cid : Nat) (c : Ctx) (el : Elem) (x : Token), elemReady s 0 0x50 cid c el → holdsTile s c el 1 x →
    roomOn s c 0 →
    let f := el.cfg.ofmt
    let m := el.cfg.mode / 2
    let g := if m = 0 then arithAt .rne f (· + ·) (ExactVal.add .rne) else if m = 1 then
      arithAt .rne f (· - ·) fun a b => ExactVal.add .rne a b.neg
      else if m = 2 then arithAt .rne f (· * ·) ExactVal.mul else if m = 3 then lesserCode f else greaterCode f
    (∀ w, el.ta = some w → w.bub = false → x.rows ≤ w.rows → x.cols ≤ w.cols →
      ∃ codes, moves .tld s cid c el [1] [(0, elemTok (hSetPsn (hSetFmt x.hdr f) (x.psn || w.psn)) codes)] el [] ∧
        codes.length = x.rows * x.cols ∧ ∀ r < x.rows, ∀ k < x.cols,
          codes[r * x.cols + k]? = some (g (x.codes.getD (r * x.cols + k) 0) (w.codes.getD (r * w.cols + k) 0))) ∧
    (el.ta = none → ∃ t, moves .tld s cid c el [1] [(0, t)] el [ownLog el t] ∧ t.hdr = hSetPsn (hSetFmt x.hdr f) true)) ∧
  (∀ (s : State) (cid : Nat) (c : Ctx) (el : Elem) (x w : Token), elemReady s 0 0x52 cid c el → holdsData s c el 0 x →
    roomOn s c 0 → el.ta = some w → w.bub = false →
    moves .temit s cid c el [0] [(0, if x.bub = true then bubble (hdrFrom x w.fmt w.rows w.cols)
      else ⟨hSetPsn (hdrFrom x w.fmt w.rows w.cols) w.psn, w.body⟩)] el []) ∧
  (∀ (s : State) (cid : Nat) (c : Ctx) (el : Elem) (x : Token), elemReady s 0 0x51 cid c el → roomOn s c 0 →
    (el.kept = some x → moves .txch s cid c el []
      [(0, ctlTok (hControl 1 ((hChn x.hdr + 1) % 2 ^ 24) (hSrc x.hdr) (hEp x.hdr)))] { el with kept := none } []) ∧
    (el.kept = none → holdsData s c el 0 x →
      moves .txch s cid c el [0] [(0, x)]
        { el with cnt := if el.cnt + 1 = parNum el.cfg 0 ∨ x.ls = true then 0 else el.cnt + 1,
                  kept := if el.cnt + 1 = parNum el.cfg 0 then some x else none } []))

/-- R198-R201, R204: an activation token uses one count and is multiplied by the tile in TA. MMA gathers a group, from
zero or from an image at i2, and emits an image at its end, poisoned where the initial image has another shape; SYSM
passes the activation on and emits the partial image at i1, or zero, and the products with it, poisoned where that image
has another shape. A bubble adds nothing.
The model reads open points as log entries 29 and 30 say. -/
def Obligations.MatrixFirings : Prop :=
  (∀ (s : State) (cid : Nat) (c : Ctx) (el : Elem) (x w : Token) (start : Image) (kept : Option Token) (ins : List Nat)
     (psn : Bool) (rows : Nat), elemReady s 0 0x40 cid c el → arrives s c el 0 x → plainTok el 0 x →
    x.cols = 32 → el.ta = some w → w.bub = false → (parNum el.cfg 0 = 0xFFFFFFFF ∨ 0 < el.cnt) →
    groupStart s c el start kept ins psn rows →
    let sum := if x.bub = true then start.grow 32 x.rows else addRows x w 32 (List.range x.rows) (start.grow 32 x.rows)
    let height := max rows x.rows
    let poisoned := psn || x.psn || w.psn
    let hd := hdrFrom x fmtCSIMG height w.rows
    let after := { countedDown el with busy := false, acc := none, kept := none, rows := 0, flag := false }
    (x.ends = true → roomOn s c 0 →
      ((∀ t, kept = some t → t.rows = height ∧ t.cols = w.rows) → ∃ g,
        moves .mma s cid c el ins [(0, ⟨hSetPsn hd poisoned, .image g⟩)] after [] ∧
        g.b = sum.b ∧ g.lanes.length = height * w.rows ∧
        ∀ k < height, ∀ n < w.rows, (g.lanes[k * w.rows + n]?).map (fun l => (l.v, l.sticky, l.spec)) =
          let l := sum.lanes.getD (k * 32 + n) Lane.zero
          some (l.v, l.sticky, l.spec)) ∧
      (∀ t, kept = some t → ¬ (t.rows = height ∧ t.cols = w.rows) → ∃ u,
        moves .mma s cid c el ins [(0, u)] after [ownLog el u] ∧ u.hdr = hSetPsn hd true)) ∧
    (x.ends = false → moves .mma s cid c el ins []
      { countedDown el with busy := true, acc := some sum, kept := kept, rows := height, flag := poisoned } [])) ∧
  (∀ (g : Image) (cols k n : Nat), cols ≤ 32 → n < cols → k * cols + n < g.lanes.length →
    (g.widen cols).b = g.b ∧ (g.widen cols).lanes[k * 32 + n]? = g.lanes[k * cols + n]?) ∧
  (∀ (s : State) (cid : Nat) (c : Ctx) (el : Elem) (x w : Token), elemReady s 0 0x41 cid c el → arrives s c el 0 x →
    plainTok el 0 x → x.cols = 32 → el.ta = some w → w.bub = false → (parNum el.cfg 0 = 0xFFFFFFFF ∨ 0 < el.cnt) →
    roomOn s c 0 → roomOn s c 1 →
    let sum := fun (p : Image) => if x.bub = true then p else addRows x w w.rows (List.range x.rows) p
    let hd := hData fmtCSIMG x.rows w.rows (hChn x.hdr) (hSrc x.hdr) (hEp x.hdr)
    (el.cfg.uses 1 = false →
      ∃ g, moves .sysm s cid c el [0]
        [(0, x), (1, ⟨hSetPsn (hdrFrom x fmtCSIMG x.rows w.rows) (x.psn || w.psn), .image g⟩)] (countedDown el) [] ∧
        sameLanes g (sum (Image.zero (x.rows * w.rows) 0))) ∧
    (∀ p h, el.cfg.uses 1 = true → holdsImage s c el 1 p h →
      let hd := hSetLs (hSetLr hd (x.lr || p.lr)) (x.ls || p.ls)
      (p.rows = x.rows → p.cols = w.rows →
        ∃ g, moves .sysm s cid c el [0, 1] [(0, x), (1, ⟨hSetPsn hd (x.psn || p.psn || w.psn), .image g⟩)] (countedDown el) [] ∧
          sameLanes g (sum h)) ∧
      (¬ (p.rows = x.rows ∧ p.cols = w.rows) →
        ∃ u, moves .sysm s cid c el [0, 1] [(0, x), (1, u)] (countedDown el) [ownLog el u] ∧ u.hdr = hSetPsn hd true)))

/-- R250-R255: contributions enter a lane exactly: a finite lane without its sticky bit holds the exact sum of
what it held and what has come, whatever the rebases between, and special states combine. Two images are added at the
greater base exponent; finite sums that keep every lane in its bound are exact where no sticky bit says otherwise,
special states combine, and rebases add up, up to 255.
The model reads open points as log entry 27 says. -/
def Obligations.AccumulatorLanes : Prop :=
  (∀ (g : Image) (ps : List (List ExactVal)) (k : Nat) (l l' : Lane) (p : List ExactVal) (q : Int), ps.length = g.lanes.length →
     g.lanes[k]? = some l → ps[k]? = some p → (g.enter ps).lanes[k]? = some l' → l'.spec = .fin → l'.sticky = false →
     finiteAbove q p → q ≤ g.b - 56 → g.b ≤ 2047 →
     g.b ≤ (g.enter ps).b ∧ l.spec = .fin ∧ l.sticky = false ∧
       l'.v * 2 ^ ((g.enter ps).b - 56 - q).toNat = l.v * 2 ^ (g.b - 56 - q).toNat + unitsSum q p) ∧
  (∀ (g : Image) (ps : List (List ExactVal)) (k : Nat) (l : Lane) (p : List ExactVal), ps.length = g.lanes.length →
     g.lanes[k]? = some l → ps[k]? = some p → (l.spec ≠ .fin → l = Lane.special l.spec) → (g.enter ps).b < 2047 →
     let spec := (p.map ExactVal.spec).foldl Spec.join l.spec
     ∃ l', (g.enter ps).lanes[k]? = some l' ∧ l'.spec = spec ∧ (spec ≠ .fin → l' = Lane.special spec)) ∧
  (∀ (g : Image) (ps : List (List ExactVal)), g.b ≤ 2047 →
     ((g.enter ps).b = g.b → (g.enter ps).reb = g.reb) ∧
     ((g.enter ps).b ≠ g.b → (g.enter ps).reb = min 255 (g.reb + 1))) ∧
  (∀ (g h : Image) (k : Nat) (a b l : Lane) (q : Int), g.lanes[k]? = some a → h.lanes[k]? = some b →
     (g.plus h).lanes[k]? = some l → a.spec = .fin → b.spec = .fin → l.spec = .fin → l.sticky = false →
     q ≤ min g.b h.b - 56 →
     max g.b h.b ≤ (g.plus h).b ∧ a.sticky = false ∧ b.sticky = false ∧
       l.v * 2 ^ ((g.plus h).b - 56 - q).toNat =
         a.v * 2 ^ (g.b - 56 - q).toNat + b.v * 2 ^ (h.b - 56 - q).toNat) ∧
  (∀ (g h : Image) (k : Nat) (a b l : Lane), g.lanes[k]? = some a → h.lanes[k]? = some b →
     (g.plus h).lanes[k]? = some l → (a.spec ≠ .fin ∨ b.spec ≠ .fin) → l = Lane.special (a.spec.join b.spec)) ∧
  (∀ (g h : Image), (g.plus h).reb = min 255 (g.reb + h.reb + (if g.b = h.b then 0 else 1) +
     (if (g.plus h).b = max g.b h.b then 0 else 1))) ∧
  (∀ a b : Spec, (Spec.join a b = .fin ↔ a = .fin ∧ b = .fin) ∧ Spec.join a b = Spec.join b a ∧ Spec.join a a = a ∧
     (a = .fin → Spec.join a b = b) ∧ (a = .nan → Spec.join a b = .nan) ∧
     (a = .posInf → b = .negInf → Spec.join a b = .nan))

/-- R198, R253: row k of an activation adds to lane n of its row of lanes the exact sum of its products with row n of
the tile; with both in MXF4 two rows enter in one step. -/
def Obligations.ActivationRowsAddProducts : Prop :=
  ∀ (a w : Token) (g : Image) (width k n : Nat) (ks : List Nat) (l l' : Lane) (q : Int), a.cols = 32 → w.cols = 32 →
    n < w.rows → w.rows ≤ width → (k + 1) * width ≤ g.lanes.length → g.lanes[k * width + n]? = some l →
    (ks = [k] ∨ a.fmt = 0x14 ∧ w.fmt = 0x14 ∧ ∃ m, m ≠ k ∧ (ks = [k, m] ∨ ks = [m, k])) →
    (addRows a w width ks g).lanes[k * width + n]? = some l' → l'.spec = .fin → l'.sticky = false →
    finiteAbove q (productsOf a w k n) → q ≤ g.b - 56 → g.b ≤ 2047 →
    l'.v * 2 ^ ((addRows a w width ks g).b - 56 - q).toNat =
      l.v * 2 ^ (g.b - 56 - q).toNat + unitsSum q (productsOf a w k n)

/-- R204-R209, R246, R259, R264: ACLR emits zero lanes, RES rounds each lane once under any rounding code, to an MX format
with a scale chosen for each row, RESN gives the canonical form, ACMP compares each lane and passes the image on, ASTR
sets the check word, ALD tests it, or takes the elements of a tile into lanes at the base exponent of the largest, AADD
adds two images lane by lane, or the images of a message one by one.
The model reads open points as log entries 28, 30 and 31 say. -/
def Obligations.AccumulatorOperations : Prop :=
  (∀ (s : State) (cid : Nat) (c : Ctx) (el : Elem) (x : Token), elemReady s 0 0x42 cid c el → holdsData s c el 0 x →
    roomOn s c 0 →
    let cols := parNum el.cfg 0 % 32 + 1
    (x.bub = false → ∃ g, moves .aclr s cid c el [0] [(0, ⟨hdrFrom x fmtCSIMG x.rows cols, .image g⟩)] el [] ∧
      g.b = signedOf 12 (parNum el.cfg 1) ∧ g.lanes.length = x.rows * cols ∧
      ∀ l ∈ g.lanes, l.v = 0 ∧ l.spec = .fin ∧ l.sticky = false) ∧
    (x.bub = true → moves .aclr s cid c el [0] [(0, bubble (hdrFrom x fmtCSIMG x.rows cols))] el [])) ∧
  (∀ (s : State) (cid : Nat) (c : Ctx) (el : Elem) (x : Token) (g : Image), holdsImage s c el 0 x g →
    (elemReady s 0 0x44 cid c el → roomOn s c 0 →
      (x.fmt = fmtNRIMG → moves .resn s cid c el [0] [(0, x)] el []) ∧
      (x.fmt ≠ fmtNRIMG → moves .resn s cid c el [0] [(0, ⟨hSetFmt x.hdr fmtNRIMG,
        .image { g with chk := 0, lanes := g.lanes.map fun l => { l with c := 0 } }⟩)] el [])) ∧
    (elemReady s 0 0x45 cid c el → roomOn s c 0 → roomOn s c 1 →
      ∃ codes, moves .acmp s cid c el [0] [(0, elemTok (vecHdr 0x07 [x] x.rows 1) codes), (1, x)] el [] ∧
        codes.length = x.rows ∧ ∀ r < x.rows, ∀ k < x.cols, ∃ l, g.lanes[r * x.cols + k]? = some l ∧
          (codes.getD r 0).testBit k = condHolds (el.cfg.mode / 2) (g.value l) (valueOf fmtF32 (parNum el.cfg 0))) ∧
    (elemReady s 0 0x46 cid c el → roomOn s c 0 →
      moves .astr s cid c el [0] [(0, ⟨x.hdr, .image { g with chk := g.check x.fmt }⟩)] el []) ∧
    (elemReady s 0 0x47 cid c el → isImg (el.cfg.ifmt.getD 0 0) = true → roomOn s c 0 →
      (g.bad = false → g.chk = g.check x.fmt →
        moves .ald s cid c el [0] [(0, ⟨x.hdr, .image { g with fromMem := false }⟩)] el []) ∧
      (g.bad = true ∨ g.chk ≠ g.check x.fmt →
        ∃ t, moves .ald s cid c el [0] [(0, t)] el [ownLog el t] ∧ t.hdr = hSetPsn x.hdr true))) ∧
  (∀ (s : State) (cid : Nat) (c : Ctx) (el : Elem) (x y : Token) (g : Image), elemReady s 0 0x43 cid c el →
    holdsImage s c el 0 x g → (el.cfg.mode / 2 = 4 → holdsTile s c el 1 y) → roomOn s c 0 →
    let sr := decide (el.cfg.mode / 2 = 4)
    let ts := if sr = true then [x, y] else [x]
    let ins := if sr = true then [0, 1] else [0]
    let r := roundAt el.cfg (BitVec.ofNat 32 (y.codes.getD 0 0))
    let hd := vecHdr el.cfg.ofmt ts x.rows x.cols
    let row := fun (k : Nat) => (g.lanes.drop (k * 32)).take 32
    (isMx el.cfg.ofmt = false → ∃ codes, moves .res s cid c el ins [(0, elemTok hd codes)] el [] ∧
      codes.length = x.rows * x.cols ∧ ∀ k < x.rows, ∀ j < x.cols, codes[k * x.cols + j]? =
        (g.lanes[k * x.cols + j]?).map fun l => roundTo el.cfg.ofmt (r k j) (g.rounded sr l)) ∧
    (isMx el.cfg.ofmt = true → x.cols = 32 → ∃ codes scales, moves .res s cid c el ins [(0, mxTok hd codes scales)] el [] ∧
      mxRounded el.cfg.ofmt r (fun k => (row k).map g.value) (fun k => (row k).map (g.rounded sr)) x.rows codes scales) ∧
    (isMx el.cfg.ofmt = true → x.cols ≠ 32 →
      ∃ t, moves .res s cid c el ins [(0, t)] el [ownLog el t] ∧ t.hdr = hSetPsn hd true)) ∧
  (∀ (s : State) (cid : Nat) (c : Ctx) (el : Elem) (x : Token), elemReady s 0 0x47 cid c el → holdsTile s c el 0 x →
    isImg (el.cfg.ifmt.getD 0 0) = false → roomOn s c 0 →
    let vals := (List.range x.rows).flatMap fun k => (List.range x.cols).map fun j => x.value k j
    ∃ g, moves .ald s cid c el [0] [(0, ⟨vecHdr fmtCSIMG [x] x.rows x.cols, .image g⟩)] el [] ∧ g.reb = 0 ∧
      ((∀ v ∈ vals, v.lead = none) → g.b = 0) ∧
      (∀ m, (∃ v ∈ vals, v.lead = some m) → (∀ v ∈ vals, ∀ n, v.lead = some n → n ≤ m) →
        g.b = max (-2048) (min 2047 (m - 48))) ∧
      g.lanes.length = vals.length ∧
      ∀ (k : Nat) (v : ExactVal) (l : Lane), vals[k]? = some v → g.lanes[k]? = some l → laneOf g.b l v) ∧
  (∀ (s : State) (cid : Nat) (c : Ctx) (el : Elem) (x : Token) (acc : Option Image), elemReady s 0 0x48 cid c el →
    2 ≤ el.cfg.mode % 4 →
    (holdsData s c el 0 x ∧ x.bub = true ∧ acc = el.acc ∨
      ∃ g, holdsImage s c el 0 x g ∧ acc = some (match el.acc with | none => g | some a => a.plus g)) →
    let first := el.kept.getD x
    let hd := hSetPsn (vecHdr fmtCSIMG [x] first.rows first.cols)
    let after := { el with acc := none, kept := none, flag := false, expired := false }
    (shapeOf first x = true →
      (x.ends = false → moves .aadd s cid c el [0] [] { el with acc := acc, kept := some first, flag := el.flag || x.psn } []) ∧
      (x.ends = true → el.expired = false → roomOn s c 0 →
        (acc = none → moves .aadd s cid c el [0] [(0, bubble (hd (el.flag || x.psn)))] after []) ∧
        (∀ a, acc = some a → ∃ k, moves .aadd s cid c el [0] [(0, ⟨hd (el.flag || x.psn), .image k⟩)] after [] ∧
          sameLanes k a))) ∧
    (shapeOf first x = false →
      (x.ends = false → ∃ a, moves .aadd s cid c el [0] []
        { el with acc := a, kept := some first, flag := true, expired := true } [])) ∧
    (x.ends = true → el.expired = true ∨ shapeOf first x = false → roomOn s c 0 →
      ∃ t, moves .aadd s cid c el [0] [(0, t)] after [ownLog el t] ∧
        (t.hdr = hd true ∨ acc = none ∧ t.hdr = hSetBub (hd true) true))) ∧
  (∀ (s : State) (cid : Nat) (c : Ctx) (el : Elem) (x y : Token) (g h : Image), elemReady s 0 0x48 cid c el →
    el.cfg.mode % 4 < 2 → holdsImage s c el 0 x g → holdsImage s c el 1 y h → roomOn s c 0 →
    (x.rows = y.rows → x.cols = y.cols →
      ∃ k, moves .aadd s cid c el [0, 1] [(0, ⟨vecHdr fmtCSIMG [x, y] x.rows x.cols, .image k⟩)] el [] ∧
        k.b = (g.plus h).b ∧
        k.lanes.map (fun l => (l.v, l.sticky, l.spec)) = (g.plus h).lanes.map fun l => (l.v, l.sticky, l.spec)) ∧
    (x.rows ≠ y.rows ∨ x.cols ≠ y.cols →
      ∃ t, moves .aadd s cid c el [0, 1] [(0, t)] el [ownLog el t] ∧
        t.hdr = hSetPsn (vecHdr fmtCSIMG [x, y] x.rows x.cols) true))

/-- R216: a reduction over inputs takes one token from each used input and emits their sum, greatest or least; a
reduction over a message takes tokens one by one until one ends the row or the stream, and then emits. A bubble adds
nothing, a token of another shape than the first is left out and poisons the output; the header is the first token's,
with LR and LS of any. RDADD takes elements and images in lane form, and emits the image or each lane rounded once.
The model reads open points as log entries 28 and 29 say. -/
def Obligations.Reductions : Prop :=
  (∀ i op, (i, op) ∈ [(Instr.rdmax, 2), (Instr.rdmin, 3)] →
    ∀ (s : State) (cid : Nat) (c : Ctx) (el : Elem) (x y : Token), elemReady s 8 op cid c el → el.cfg.mode % 2 = 0 →
      el.cfg.inputs = [0, 1] → gathers el [] → joins s c el 0 x → joins s c el 1 y → x.bub = false → y.bub = false →
      isImg x.fmt = false → isImg y.fmt = false → x.rows = y.rows → x.cols = y.cols → roomOn s c 0 →
      moves i s cid c el [0, 1] [(0, elemTok (vecHdr el.cfg.ofmt [x, y] x.rows x.cols)
        ((x.codes.zip y.codes).map fun ab =>
          if op = 2 then greaterCode el.cfg.ofmt ab.1 ab.2 else lesserCode el.cfg.ofmt ab.1 ab.2))] el []) ∧
  (∀ i op, (i, op) ∈ [(Instr.rdadd, 1), (Instr.rdmax, 2), (Instr.rdmin, 3)] →
    ∀ (s : State) (cid : Nat) (c : Ctx) (el : Elem) (ts xs : List Token) (ins : List Nat), elemReady s 8 op cid c el →
      isMx el.cfg.ofmt = false → gathers el ts →
      (el.cfg.mode % 2 = 0 ∧ ts = [] ∧ ins = el.cfg.inputs ∧ ins ≠ [] ∨ el.cfg.mode % 2 = 1 ∧ ins = [0]) →
      xs.length = ins.length → (∀ (k j : Nat) (t : Token), ins[k]? = some j → xs[k]? = some t → joins s c el j t) →
      (el.cfg.mode % 2 = 1 → (∀ x ∈ xs, x.ends = false) →
        ∃ el', moves i s cid c el ins [] el' [] ∧ el'.cfg = el.cfg ∧ gathers el' (ts ++ xs)) ∧
      (el.cfg.mode % 2 = 0 ∨ (∃ x ∈ xs, x.ends = true) → roomOn s c 0 →
        ∃ u el', moves i s cid c el ins [(0, u)] el' (if shapesDiffer (ts ++ xs) = true then [ownLog el u] else []) ∧
          el'.cfg = el.cfg ∧ gathers el' [] ∧ reducedTo el.cfg (ts ++ xs) u))

/-- R218, R219: the memory-node elements write tokens into their entries and read them back in order, by passes or by
index; SCRW and SCRR reach bytes at an offset that wraps in the window; a read that meets a poisoned granule emits a
poisoned token of the same header, and is logged with the address.
The model reads open points as log entry 40 says. -/
def Obligations.MemoryNodes : Prop :=
  ∀ (s : State) (cid : Nat) (c : Ctx) (el : Elem),
    let at_ := entryAddr s.site.r s.site.s el.cfg
    let bad (a : Nat) := s.poisoned a (entryLength (s.entryTok a))
    let n := parNum el.cfg 2
    (∀ x, elemReady s 1 1 cid c el → holdsData s c el 0 x → el.cnt.testBit el.ptr = false →
      (entryLength x ≤ parNum el.cfg 1 →
        movesWith .bufw s cid c el [0] [] { el with cnt := el.cnt + 2 ^ el.ptr, ptr := (el.ptr + 1) % n } []
          fun u => u.store (at_ el.ptr) (entryImage x)) ∧
      (parNum el.cfg 1 < entryLength x →
        let b := bubble (hSetPsn x.hdr true)
        movesWith .bufw s cid c el [0] [] { el with cnt := el.cnt + 2 ^ el.ptr, ptr := (el.ptr + 1) % n } [ownLog el b]
          fun u => u.store (at_ el.ptr) (entryImage b))) ∧
    (elemReady s 1 2 cid c el →
      (el.cnt ≠ 0 → roomOn s c 0 →
        readsOut (bad (at_ el.ptr)) .bufr s cid c el [] (s.entryTok (at_ el.ptr)) id
          { el with cnt := el.cnt - 1, ptr := (el.ptr + 1) % n } (at_ el.ptr)) ∧
      (∀ x, (el.cnt = 0 ∨ ¬ roomOn s c 0) → el.cnt < n → arrives s c el 0 x → (x.isData = true ∨ x.kind = .xch) →
        entryLength x ≤ parNum el.cfg 1 →
        movesWith .bufr s cid c el [0] [] { el with cnt := el.cnt + 1 } []
          fun u => u.store (at_ ((el.ptr + el.cnt) % n)) (entryImage x))) ∧
    (elemReady s 1 3 cid c el → el.busy = true → roomOn s c 0 →
      let t := s.entryTok (at_ el.ptr)
      let last := el.pos + 1 = parNum el.cfg 3
      let reads := readsOut (bad (at_ el.ptr)) .bufrp s cid c el [] t
      (el.ptr + 1 ≠ el.cnt → reads id { el with ptr := el.ptr + 1 } (at_ el.ptr)) ∧
      (el.ptr + 1 = el.cnt → t.isData = true →
        (¬ last → reads (fun u => u.withHdr (hSetLs (hSetLr u.hdr true) false)) { el with ptr := 0, pos := el.pos + 1 }
          (at_ el.ptr)) ∧
        (last → reads (fun u => u.withHdr (hSetLs (hSetLr u.hdr true) u.ls))
          { el with busy := false, cnt := 0, ptr := 0, pos := 0 } (at_ el.ptr)))) ∧
    (∀ ix x, elemReady s 1 4 cid c el → el.busy = true → holdsData s c el 1 ix → ix.first = some x → roomOn s c 0 →
      let el' := if ix.ls = true then { el with busy := false, cnt := 0, ptr := 0, pos := 0 } else el
      (x < el.cnt →
        readsOut (bad (at_ x)) .bufrn s cid c el [1] (s.entryTok (at_ x))
          (fun u => u.withHdr (hSetLs (hSetLr u.hdr ix.lr) ix.ls)) el' (at_ x)) ∧
      (el.cnt ≤ x → s.poisoned (at_ 0) 8 = false → ∃ t, moves .bufrn s cid c el [1] [(0, t)] el' [ownLog el t] ∧ t.bub = true ∧ t.psn = true)) ∧
    (∀ i op, (i, op) ∈ [(Instr.bufrp, 3), (Instr.bufrn, 4)] → ∀ x, elemReady s 1 op cid c el → el.busy = false →
      arrives s c el 0 x → (x.isData = true ∨ x.kind = .xch) → entryLength x ≤ parNum el.cfg 1 →
      movesWith i s cid c el [0] []
        { el with cnt := el.cnt + 1, busy := decide (el.cnt + 1 = n) || (x.isData && x.ls), ptr := 0, pos := 0 } []
        fun u => u.store (at_ el.cnt) (entryImage x)) ∧
    (∀ x o off, elemReady s 1 5 cid c el → holdsData s c el 0 x → holdsTile s c el 1 o → o.first = some off →
      let bs := x.payload ++ x.scaleList
      let cell := scratchAddr s.site.r s.site.s el.cfg off
      bs.length ≤ el.cfg.allocSize →
      ∃ post, movesWith .scrw s cid c el [0, 1] [] el [] post ∧ ∀ u : State,
        (∀ k < bs.length, some (Memory.byte (post u).mem (cell k)) = bs[k]?) ∧
        (∀ a, (∀ k < bs.length, a ≠ cell k) → Memory.byte (post u).mem a = Memory.byte u.mem a)) ∧
    (∀ o off, elemReady s 1 6 cid c el → holdsTile s c el 0 o → o.first = some off → roomOn s c 0 →
      let hd := hdrFrom o el.cfg.ofmt (n % 32 + 1) (n / 32 % 32 + 1)
      let cell := scratchAddr s.site.r s.site.s el.cfg off
      let m := payloadBytes hd
      readsOut ((List.range (m + scaleBytes hd)).any fun k => s.poisoned (cell k) 1) .scrr s cid c el [0]
        ⟨hd, bodyOf hd ((List.range m).map fun k => Memory.byte s.mem (cell k))
          ((List.range (scaleBytes hd)).map fun k => Memory.byte s.mem (cell (m + k)))⟩ id el (cell 0))

/-- R102, R222-R225, R289: an address generator reads its descriptor, walks its tiles with i0 innermost and stamps what it
emits; a tile is read, and a write performed, when its response comes; gathers, scatters and atomics go by index.
The model reads open points as log entries 37, 38, 39 and 93 say. -/
def Obligations.AddressGenerators : Prop :=
  ∀ (s : State) (cid : Nat) (c : Ctx) (el : Elem) (d : Desc),
    (∀ w, elemReady s 2 1 cid c el → el.desc = .ok d → el.walk = some w → w.empty = false → roomOn s c 0 →
      moves .agseq s cid c el [] [(0, elemTok (walkHeader el d 0x08 1 1 w) [walkAddr d w])]
        { stampedBy el (walkEnds d w) with walk := walkAfter d w } []) ∧
    (∀ w t, elemReady s 2 2 cid c el → el.desc = .ok d → el.walk = some w → w.empty = false → el.tile = some t →
      roomOn s c 0 →
      moves .agld s cid c el [] [(0, t)] { stampedBy el (walkEnds d w) with tile := none, walk := walkAfter d w } []) ∧
    (∀ w x, elemReady s 2 3 cid c el → el.desc = .ok d → el.walk = some w → w.empty = false → el.stall = none →
      holdsTile s c el 0 x →
      (x.rows = d.rows → x.cols = d.cols → x.fmt = d.fmt →
        moves .agst s cid c el [0] [] { el with walk := walkAfter d w, wq := el.wq ++ [⟨
          ((List.range d.rows).map fun k =>
            (BitVec.ofNat 64 (walkAddr d w + k * d.rstride), packBytes (fmtBits x.fmt) (rowOf x k))) ++
          (if isMx d.fmt then [(BitVec.ofInt 64 ((walkAddr d w + d.soff) % 2 ^ 52), x.scaleList)] else []), x.hdr⟩] } []) ∧
      (¬ (x.rows = d.rows ∧ x.cols = d.cols ∧ x.fmt = d.fmt) →
        moves .agst s cid c el [0] [] { el with walk := walkAfter d w }
          [⟨0x06, x.hdr, BitVec.ofNat 64 (walkAddr d w), x.hdr⟩])) ∧
    (∀ ix t, elemReady s 2 4 cid c el → el.desc = .ok d → el.tile = some t → el.flag = false → holdsData s c el 0 ix →
      roomOn s c 0 →
      moves .aggat s cid c el [0] [(0, t)] { el with tile := none, flag := false } []) ∧
    (∀ x ix v, elemReady s 2 5 cid c el → el.desc = .ok d → el.stall = none → holdsTile s c el 0 x →
      holdsTile s c el 1 ix → ix.rows = 1 → ix.cols = 1 → isInt ix.fmt = true → ix.codes = [v] → x.rows = 1 →
      x.cols = d.cols → x.fmt = d.fmt → isMx d.fmt = false → 0 ≤ codeValue ix.fmt v → codeValue ix.fmt v < d.n0 →
      moves .agsct s cid c el [0, 1] [] { el with wq := el.wq ++ [⟨[(BitVec.ofInt 64
        ((d.base.toNat + codeValue ix.fmt v * d.s0.toInt) % 2 ^ 52), packBytes (fmtBits x.fmt) (rowOf x 0))],
        x.hdr⟩] } []) ∧
    (∀ x ix v u ps, elemReady s 2 6 cid c el → el.desc = .ok d → el.stall = none → holdsTile s c el 0 x →
      holdsTile s c el 1 ix → ix.rows = 1 → ix.cols = 1 → isInt ix.fmt = true → ix.codes = [v] → x.rows = 1 →
      x.cols = 1 → x.fmt = d.fmt → x.codes = [u] → 0 ≤ codeValue ix.fmt v → codeValue ix.fmt v < d.n0 → roomOn s c 0 →
      let va := ((d.base.toNat + codeValue ix.fmt v * d.s0.toInt) % 2 ^ 52 : Int).toNat
      let n := fmtBits d.fmt / 8
      let m := el.cfg.mode / 2
      let g := fun (old : Nat) => if m = 0 then arithAt .rne d.fmt (· + ·) (ExactVal.add .rne) old u
        else if m = 1 then lesserCode d.fmt old u else if m = 2 then greaterCode d.fmt old u
        else if m = 3 then old &&& u else if m = 4 then old ||| u else u
      s.runAt (s.regionTr s.site.r) .both va n = .ok ps → (∀ p ∈ ps, s.poisoned p.1 p.2 = false) →
      ∃ post, movesWith .agatm s cid c el [0, 1]
          [(0, elemTok (hSetPsn x.hdr x.psn) [numOf (s.loadRuns ps)])]
          { el with wdone := el.wdone + 1, rdone := el.rdone + 1 } [] post ∧
        ∀ t : State, t.runAt (t.regionTr s.site.r) .both va n = .ok ps → (∀ p ∈ ps, t.poisoned p.1 p.2 = false) →
          (post t).mem = (t.storeRuns ps (bytesOf n (g (numOf (t.loadRuns ps))))).mem) ∧
    (∀ ps, s.genAt = some (cid, c, el) → el.desc = .fetching → el.stall = none → (s.seq s.site.r).frozen = false →
      s.fenced cid c (siteKey s.site.r s.site.s) el false = false →
      s.runAt (s.regionTr s.site.r) .read el.cfg.descAddr 64 = .ok ps →
      let ws := bytesToWords (s.loadRuns ps)
      completes .agDescriptorFetch s fun t => t.mem = s.mem ∧ elemAfter s t cid fun _ e =>
        e.cfg = el.cfg ∧ (descGood el.cfg ws = true → e.desc = .ok (descOf ws) ∧
          (el.cfg.op ≤ 3 → el.cfg.mode / 2 % 2 = 0 → e.walk = some ⟨0, 0, 0, 0, false⟩)) ∧
        (descGood el.cfg ws = false → e.desc = .bad ∧ e.walk = none)) ∧
    (s.genAt = some (cid, c, el) → el.stall = none → el.passage = .open → s.group (groupOf s.site.r) ≠ .gated →
      (∀ w ps, el.cfg.op = 2 → el.wq = [] → el.tile = none → c.requested (siteKey s.site.r s.site.s) = true →
        el.desc = .ok d → el.walk = some w → w.empty = false → (s.seq s.site.r).frozen = false →
        s.fenced cid c (siteKey s.site.r s.site.s) el false = false →
        s.readRuns (s.regionTr s.site.r) (tileRuns d (walkAddr d w)) = .ok ps →
        completes .agMemoryResponse s fun t => t.mem = s.mem ∧ elemAfter s t cid fun _ e =>
          e.tile = some ⟨walkHeader el d d.fmt d.rows d.cols w,
            rowsBody (hRows (walkHeader el d d.fmt d.rows d.cols w)) (hCols (walkHeader el d d.fmt d.rows d.cols w))
              (hFmt (walkHeader el d d.fmt d.rows d.cols w)) (s.loadRuns ps)⟩ ∧ e.walk = some w) ∧
      (∀ w rest ps, el.wq = w :: rest →
        s.writeRuns (s.regionTr s.site.r) (w.runs.map fun x => (x.1.toNat, x.2.length)) = .ok ps →
        completes .agMemoryResponse s fun t =>
          t.mem = (s.storeRuns ps (w.runs.flatMap (·.2))).mem ∧ elemAfter s t cid fun _ e => e = { el with wq := rest, wdone := el.wdone + 1 })) ∧
    (∀ ty va p, s.genAt = some (cid, c, el) → el.stall = none → s.canMove s.site.r = true →
      s.genFault c el = some (ty, va) → s.partOf s.site.r = some p → s.pageFaults = [] →
      let stalled := s.setGen cid c { el with stall := some (BitVec.ofNat 64 va) }
      let f : FaultRec := ⟨p, s.faultTask c s.site.r, ty, va, s.site.r, 0, s.now, .elem cid (siteKey s.site.r s.site.s)⟩
      (∀ t, stalled.enterFault true f = some t → exec .agPageFault s = .next t) ∧
      (stalled.enterFault true f = none → exec .agPageFault s = .next { stalled with pageFaults := [f] }))

/-- R20, R62-R70, R210-R215, R217, R230: STEER and STEERN send a token the way a predicate chooses, SINK takes it, MERGE
takes one from the input its control chooses, MERGEA from one that waits, MERGEC in chainage order; CARRY and INV
begin with i0 and go on while their control asks it. REPEAT and REPEATP send a message as often as its count says,
CONST and COUNT make tokens, RATEM, SCSPLIT and SCJOIN deal with row scales, FAN copies a token to every used output.
The model reads open points as log entries 20, 22, 30, 92, 117 and 118 say. -/
def Obligations.FlowElements : Prop :=
  (∀ (s : State) (cid : Nat) (c : Ctx) (el : Elem),
     (∀ x, elemReady s 3 1 cid c el → holdsData s c el 0 x →
       (el.cfg.mode % 4 = 3 → roomOn s c (if x.ls = true then 1 else 0) →
         moves .steer s cid c el [0] [(if x.ls = true then 1 else 0, x)] el []) ∧
       (∀ p, el.cfg.mode % 4 ≠ 3 → holdsData s c el 1 p →
         (readsTrue el.cfg p → roomOn s c 1 → moves .steer s cid c el [0, 1] [(1, x)] el []) ∧
         (¬ readsTrue el.cfg p → roomOn s c 0 → moves .steer s cid c el [0, 1] [(0, chosenBy p x)] el []))) ∧
     (∀ x p, elemReady s 3 2 cid c el → holdsData s c el 0 x → holdsData s c el 1 p →
       (p.psn = true → roomOn s c 0 → moves .steern s cid c el [0, 1] [(0, x.poison)] el []) ∧
       (∀ v, p.psn = false → p.first = some v →
         (v < 4 → roomOn s c v → moves .steern s cid c el [0, 1] [(v, x)] el []) ∧
         (4 ≤ v → moves .steern s cid c el [0, 1] [] el [])) ∧
       (p.psn = false → p.bub = true → moves .steern s cid c el [0, 1] [] el [])) ∧
     (∀ x, elemReady s 3 3 cid c el → holdsData s c el 0 x → moves .sink s cid c el [0] [] el []) ∧
     (∀ p x, elemReady s 4 1 cid c el → holdsData s c el 0 p → roomOn s c 0 →
       (readsTrue el.cfg p → holdsData s c el 2 x → moves .merge s cid c el [0, 2] [(0, x)] el []) ∧
       (¬ readsTrue el.cfg p → holdsData s c el 1 x → moves .merge s cid c el [0, 1] [(0, chosenBy p x)] el [])) ∧
     (∀ (heads : List (Nat × Token)), elemReady s 4 2 cid c el → roomOn s c 0 → heads ≠ [] →
       (∀ i < 4, (∃ t, (i, t) ∈ heads) ∨ vacant s c i) → (∀ it ∈ heads, it.1 < 4 ∧ holdsData s c el it.1 it.2) →
       ∃ it ∈ heads, ∃ el', moves .mergea s cid c el [it.1] [(0, it.2)] el' [] ∧ el'.cfg = el.cfg ∧
         ∀ j < 4, el'.starve[j]? = some (if j ≠ it.1 ∧ heads.any (fun t => t.1 == j) = true then
           el.starve.getD j 0 + 1 else 0)) ∧
     (elemReady s 4 3 cid c el → (∀ i < 4, vacant s c i ∨ i ∈ el.cfg.inputs ∧
         ∃ t, arrives s c el i t ∧ (t.isData = true ∨ t.closed = true)) →
       let next := fun (y : Token) =>
         { el with chn := if y.ls = true then parNum el.cfg 0 % 2 ^ 24 else (hChn y.hdr + 1) % 2 ^ 24 }
       let behind := fun (y : Token) => (hChn y.hdr + 2 ^ 24 - el.chn % 2 ^ 24) % 2 ^ 24
       ((∃ i < 4, ∃ x, holdsData s c el i x ∧ hChn x.hdr = el.chn) → roomOn s c 0 →
         ∃ j < 4, ∃ y, holdsData s c el j y ∧ hChn y.hdr = el.chn ∧ moves .mergec s cid c el [j] [(0, y)] (next y) []) ∧
       ((∀ i < 4, ∀ x, holdsData s c el i x → hChn x.hdr ≠ el.chn) →
         ((∃ i ∈ el.cfg.inputs, i < 4 ∧ vacant s c i) → exec .mergec s = .next s) ∧
         ((∀ i ∈ el.cfg.inputs, ¬ vacant s c i) → (∃ i < 4, ∃ x, holdsData s c el i x) → roomOn s c 0 →
           ∃ j < 4, ∃ y, holdsData s c el j y ∧ (∀ i < 4, ∀ x, holdsData s c el i x → behind y ≤ behind x) ∧
             (behind y < 2 ^ 23 → moves .mergec s cid c el [j] [(0, y)] (next y) []) ∧
             (2 ^ 23 ≤ behind y → moves .mergec s cid c el [j] [(0, y.poison)] (next y)
               [⟨0x05, y.hdr, y.hdr, BitVec.ofNat 64 el.chn⟩])))) ∧
     (∀ x, elemReady s 5 1 cid c el → el.busy = false → holdsData s c el 0 x → roomOn s c 0 →
       moves .carry s cid c el [0] [(0, x)] { el with busy := true } []) ∧
     (∀ p x, elemReady s 5 1 cid c el → el.busy = true → holdsData s c el 1 p →
       ((readsTrue el.cfg p ↔ el.cfg.mode / 4 % 2 = 1) → holdsData s c el 2 x → roomOn s c 0 →
         moves .carry s cid c el [1, 2] [(0, chosenBy p x)] el []) ∧
       (¬ (readsTrue el.cfg p ↔ el.cfg.mode / 4 % 2 = 1) →
         moves .carry s cid c el [1] [] { el with busy := false } [])) ∧
     (∀ x, elemReady s 5 2 cid c el → el.kept = none → holdsData s c el 0 x → roomOn s c 0 →
       moves .inv s cid c el [0] [(0, x)] { el with busy := true, kept := some x } []) ∧
     (∀ p x, elemReady s 5 2 cid c el → el.kept = some x → holdsData s c el 1 p →
       ((readsTrue el.cfg p ↔ el.cfg.mode / 4 % 2 = 1) → roomOn s c 0 →
         moves .inv s cid c el [1] [(0, chosenBy p x)] el []) ∧
       (¬ (readsTrue el.cfg p ↔ el.cfg.mode / 4 % 2 = 1) →
         moves .inv s cid c el [1] [] { el with busy := false, kept := none } []))) ∧
  (∀ (s : State) (cid : Nat) (c : Ctx) (el : Elem),
     (∀ i op, (i, op) ∈ [(Instr.repeatTok, 1), (Instr.repeatp, 2)] → elemReady s 6 op cid c el →
       (∀ x, el.busy = true → el.held[el.ptr]? = some x → roomOn s c 0 →
         let lastTok := el.ptr + 1 = el.held.length
         (¬ lastTok → moves i s cid c el [] [(0, x)] { el with ptr := el.ptr + 1 } []) ∧
         (lastTok → el.pos ≠ el.cnt →
           moves i s cid c el [] [(0, x.withHdr (hSetLs (hSetLr x.hdr true) false))] { el with ptr := 0, pos := el.pos + 1 } []) ∧
         (lastTok → el.pos = el.cnt →
           moves i s cid c el [] [(0, x.withHdr (hSetLs (hSetLr x.hdr true) el.expired))]
             { el with busy := false, held := [], ptr := 0, pos := 0, expired := false } [])) ∧
       (∀ x, el.busy = false → arrives s c el 0 x → x.kind = .xch → roomOn s c 0 →
         moves i s cid c el [0] [(0, x)] el []) ∧
       (∀ x, el.busy = false → el.flag = true → holdsData s c el 0 x → 1 ≤ el.cnt → roomOn s c 0 →
         let out := if x.ends = true then x.withHdr (hSetLs (hSetLr x.hdr true) (x.ls && el.cnt == 1)) else x
         let ends := x.ends = true
         (el.held.length < parNum el.cfg 0 % 8 → ∃ el', moves i s cid c el [0] [(0, out)] el' [] ∧ el'.cnt = el.cnt ∧
           (el'.flag = true ↔ ¬ ends) ∧ (el'.busy = true ↔ ends ∧ 2 ≤ el.cnt) ∧
           (¬ ends ∨ 2 ≤ el.cnt → el'.held = el.held ++ [x])) ∧
         (parNum el.cfg 0 % 8 ≤ el.held.length → el.held ≠ [] →
           ∃ el', moves i s cid c el [0] [(0, out.poison)] el' [ownLog el out.poison] ∧ el'.cnt = el.cnt ∧
             (el'.flag = true ↔ ¬ ends) ∧ (el'.busy = true ↔ ends ∧ 2 ≤ el.cnt) ∧
             (¬ ends ∨ 2 ≤ el.cnt → el'.held = el.held))) ∧
       (∀ x y n, el.busy = false → el.flag = false → el.held = [] → holdsData s c el 0 x → 0 < parNum el.cfg 0 % 8 →
         (if op = 1 then holdsData s c el 1 y ∧ y.first = some n else n = parNum el.cfg 1) →
         let ins := if op = 1 then [0, 1] else [0]
         (n = 0 → ∃ el', moves i s cid c el ins [] el' [] ∧ el'.cnt = 0 ∧ el'.flag = !x.ends) ∧
         (1 ≤ n → x.ends = false → roomOn s c 0 →
           ∃ el', moves i s cid c el ins [(0, x)] el' [] ∧ el'.cnt = n ∧ el'.flag = true ∧ el'.held = [x]) ∧
         (1 ≤ n → x.ends = true → roomOn s c 0 →
           ∃ el', moves i s cid c el ins [(0, x.withHdr (hSetLs (hSetLr x.hdr true) (x.ls && n == 1)))] el' [] ∧
             el'.flag = false ∧ el'.busy = decide (2 ≤ n) ∧ (2 ≤ n → el'.cnt = n ∧ el'.pos = 2 ∧ el'.held = [x])))) ∧
     (∀ i op, (i, op) ∈ [(Instr.const, 3), (Instr.count, 4)] → elemReady s 6 op cid c el → roomOn s c 0 →
       let f := el.cfg.ofmt
       let m := if op = 3 then 0 else parNum el.cfg 3 / 256 % 256
       let v := if op = 3 then (parNum el.cfg 0 + 2 ^ 32 * parNum el.cfg 1) % 2 ^ fmtBits f
         else wrapped f (parNum el.cfg 0 + el.cnt * signedOf 32 (parNum el.cfg 1))
       let nth := m ≠ 0 ∧ (el.cnt + 1) % m = 0
       (∀ x, el.cfg.uses 0 = true → holdsData s c el 0 x → x.bub = false →
         moves i s cid c el [0] [(0, elemTok (hSetLs (hSetLr (hData f 1 1 (hChn x.hdr) (parNum el.cfg 3 % 256) (hEp x.hdr))
           (x.lr || decide nth)) x.ls) [v])] { el with cnt := if x.ls = true then 0 else el.cnt + 1 } []) ∧
       (el.cfg.uses 0 = false → (parNum el.cfg 2 = 0 ∨ el.cnt < parNum el.cfg 2) →
         let last := parNum el.cfg 2 ≠ 0 ∧ el.cnt + 1 = parNum el.cfg 2
         moves i s cid c el [] [(0, elemTok (hSetLs (hSetLr (hData f 1 1 el.chn (parNum el.cfg 3 % 256) el.ep)
           (decide nth)) (decide last)) [v])]
           { el with cnt := el.cnt + 1, chn := (el.chn + 1) % 2 ^ 24, ep := el.ep != decide last } [])) ∧
     (∀ x y, elemReady s 7 1 cid c el → holdsTile s c el 0 x → holdsData s c el 1 y → roomOn s c 0 →
       let done := el.pos + x.rows = y.codes.length ∨ x.ends = true
       (el.pos + x.rows ≤ y.codes.length →
         moves .ratem s cid c el (if done then [0, 1] else [0])
           [(0, mxTok x.hdr x.codes ((y.codes.drop el.pos).take x.rows))]
           { el with pos := if done then 0 else el.pos + x.rows } [])) ∧
     (∀ x, elemReady s 7 2 cid c el → holdsTile s c el 0 x → roomOn s c 0 → roomOn s c 1 →
       moves .scsplit s cid c el [0] [(0, mxTok x.hdr x.codes (x.scales.map fun _ => 0x7F)),
         (1, elemTok (hSetShape (hSetFmt x.hdr 0x05) x.rows 1) x.scales)] el []) ∧
     (∀ x y, elemReady s 7 3 cid c el → holdsTile s c el 0 x → holdsData s c el 1 y → roomOn s c 0 →
       let h := hSetLs (hSetLr x.hdr (x.lr || y.lr)) (x.ls || y.ls)
       (y.codes.length = x.rows → moves .scjoin s cid c el [0, 1] [(0, mxTok h x.codes y.codes)] el []) ∧
       (y.codes.length ≠ x.rows →
         moves .scjoin s cid c el [0, 1] [(0, (x.withHdr h).poison)] el [ownLog el (x.withHdr h).poison])) ∧
     (∀ x, elemReady s 9 2 cid c el → arrives s c el 0 x → x.closed = false → (∀ o ∈ el.cfg.outputs, roomOn s c o) →
       moves .fan s cid c el [0] (el.cfg.outputs.map fun o => (o, x)) el []))

/-- R59, R60, R71-R73, R284, R302-R304: the port nodes move entries between the queues and the fabric, stream buffers
take messages whole, flag nodes set, test and await flags.
The model reads open points as log entries 19, 23, 24 and 41 say. -/
def Obligations.PortsAndFlagNodes : Prop :=
  ∀ (s : State) (cid : Nat) (c : Ctx) (el : Elem),
    let r := s.site.r
    let k := s.site.s / 12 - 4
    let f := fun (t : Token) => r / 24 * 4096 +
      (parNum el.cfg 0 % 4096 + if el.cfg.mode / 2 % 2 = 1 then t.first.getD 0 else 0) % 4096
    let want := el.cfg.mode / 4 % 2 = 0
    (∀ v rest, elemReady s 10 3 cid c el → (s.region r).ing.getD k [] = (false, v) :: rest → roomOn s c 0 →
      ∃ post, movesWith .ingrq s cid c el []
          [(0, elemTok (hData el.cfg.ofmt 1 1 el.chn (parNum el.cfg 0 % 256) el.ep) [v.toNat % 2 ^ fmtBits el.cfg.ofmt])]
          { el with chn := (el.chn + 1) % 2 ^ 24, cnt := el.cnt - 1 } [] post ∧
        ∀ u : State, ((post u).region r).ing.getD k [] = rest ∧ ((post u).seq r).latch.getLsbD (4 + k) = decide (4 + k < 12)) ∧
    (∀ v rest, elemReady s 10 3 cid c el → (s.region r).ing.getD k [] = (true, v) :: rest → roomOn s c 0 →
      let el' := if kindOfHdr v = .data then
          { el with chn := if hLs v = true then 0 else (el.chn + 1) % 2 ^ 24, ep := el.ep != hLs v, cnt := el.cnt - 1 }
        else { el with cnt := el.cnt - 1 }
      ∃ h post, movesWith .ingrq s cid c el [] [(0, ⟨h, .none⟩)] el' [] post ∧
        (∀ i < 32, i ≠ 25 → h.getLsbD i = v.getLsbD i) ∧ hEp h = el.ep ∧ hChn h = el.chn % 2 ^ 24 ∧
        hSrc h = parNum el.cfg 0 % 256 ∧ ∀ u : State, ((post u).region r).ing.getD k [] = rest) ∧
    (∀ x v vs, elemReady s 10 4 cid c el → holdsData s c el 0 x → x.bub = false → x.codes = v :: vs →
      let w : Word := if isSigned x.fmt then BitVec.ofInt 64 (signedOf (fmtBits x.fmt) v) else BitVec.ofNat 64 v
      let es := if el.cfg.mode % 4 = 0 then [w] else if el.cfg.mode % 4 = 1 then [x.hdr] else [x.hdr, w]
      let q := (s.region r).egr.getD k []
      q.length + es.length ≤ 8 →
      ∃ post, movesWith .egrq s cid c el [0] [] el [] post ∧ ∀ u : State, ((post u).region r).egr.getD k [] = q ++ es) ∧
    (∀ b t b', elemReady s 10 1 cid c el → s.bufferFor r el.cfg.handle = some b →
      b.ingr = some (siteKey r s.site.s) → b.pop = some (t, b') → roomOn s c 0 →
      let el' := if t.isData = true then { el with chn := nextOf t } else el
      (s.ringBad el.cfg.handle b t = false →
        movesWith .ingr s cid c el [] [(0, t)] el' [] fun u => { u with sbufs := u.sbufs.put el.cfg.handle b' }) ∧
      (s.ringBad el.cfg.handle b t = true → ∃ u post, u.hdr = hSetPsn t.hdr true ∧
        movesWith .ingr s cid c el [] [(0, u)] el' [⟨0x04, t.hdr, BitVec.ofNat 64 el.cfg.handle, u.hdr⟩] post ∧
        ∀ v : State, ∃ n, post v = { v with free := n, sbufs := v.sbufs.put el.cfg.handle b' })) ∧
    (∀ x b b' off, elemReady s 10 2 cid c el → holdsData s c el 0 x → el.cfg.handle.testBit 31 = false →
      s.bufferFor r el.cfg.handle = some b → b.egr = some (siteKey r s.site.s) → b.push x = .done b' off none →
      movesWith .egr s cid c el [0] [] el [] fun u => u.pushed el.cfg.handle b' x off) ∧
    (∀ i op v, (i, op, v) ∈ [(Instr.flset, 1, true), (Instr.flclr, 2, false)] → ∀ x, elemReady s 11 op cid c el →
      holdsData s c el 0 x → (el.cfg.mode / 2 % 2 = 1 → x.first ≠ none) → roomOn s c 0 →
      movesWith i s cid c el [0] [(0, x)] el [] fun u => u.setFlag (f x) v) ∧
    (∀ x, elemReady s 11 3 cid c el → holdsData s c el 0 x → (el.cfg.mode / 2 % 2 = 1 → x.first ≠ none) → roomOn s c 0 →
      moves .fltst s cid c el [0] [(0, elemTok (hdrFrom x el.cfg.ofmt 1 1)
        [if s.flag (f x) = decide want then 1 else 0])] el []) ∧
    (∀ x, elemReady s 11 4 cid c el → holdsData s c el 0 x → (el.cfg.mode / 2 % 2 = 1 → x.first ≠ none) →
      (el.waited = some true ∨ (el.waited = none ∧ s.flag (f x) = decide want) → roomOn s c 0 →
        moves .flwait s cid c el [0] [(0, x)] { el with waited := none } []) ∧
      (el.waited = none → s.flag (f x) ≠ decide want →
        moves .flwait s cid c el [] [] { el with waited := some false, cnt := f x % 4096 } [])) ∧
    (∀ x, elemReady s 11 5 cid c el → holdsData s c el 0 x → (el.cfg.mode / 2 % 2 = 1 → x.first ≠ none) →
      let o := if s.flag (f x) = decide want then 0 else 1
      roomOn s c o → moves .flgate s cid c el [0] [(o, x)] el []) ∧
    (∀ i op, (i, op) ∈ [(Instr.flset, 1), (Instr.flclr, 2), (Instr.fltst, 3), (Instr.flwait, 4), (Instr.flgate, 5)] →
      ∀ x, elemReady s 11 op cid c el → holdsData s c el 0 x → el.cfg.mode / 2 % 2 = 1 → x.bub = true → el.waited = none →
      roomOn s c 0 → moves i s cid c el [0] [(0, x.poison)] el [ownLog el x.poison])

/-- R23, R89, R90, R94, R95, R357: the oldest token on its way along an arc arrives; a request reaches its producer; a
control token that an input has no treatment for is taken and logged; WEIR and SLUICE pass element by element, the
header of the token at the lowest input going on, and a WEIR resets the element that it passes; CARRY closes on i0 and
i1, and awaits the control token on i2, before which it discards data under a WEIR; a stuck token is parked under a
SLUICE.
The model reads open points as log entries 21, 42, 44 and 57 say. -/
def Obligations.TokensAndControlTokensPass : Prop :=
  (∀ (s : State) (p : Port) (cid : Nat) (c : Ctx) (a : Arc), (s.region p.r).armed = some cid → s.ctxs.find? cid = some c →
    c.arcTo (p.r * 384 + p.p) = some a →
    (∀ pre f post, a.toks = pre ++ f :: post → (∀ g ∈ pre, g.vis = true) → f.vis = false →
      (∀ r ∈ a.src / 384 :: a.dst / 384 :: a.via, (s.seq r).frozen = false) →
      (∀ q ∈ c.regions, (s.seq q).hen = false ∧ (s.seq q).heldPrev = 0) → (∀ k ∈ c.arcs, ∀ g ∈ k.toks, g.rel = 0) →
      completes (.tokenVisible p) s fun t => t.mem = s.mem ∧ t.seqs = s.seqs ∧ ∃ c', t.ctxs.find? cid = some c' ∧
        c'.elems = c.elems ∧ c'.arcTo a.dst = some { a with toks := pre ++ { f with vis := true } :: post }) ∧
    (a.reqFly ≠ 0 → s.canMove p.r = true → (∀ r ∈ a.src / 384 :: a.dst / 384 :: a.via, (s.seq r).frozen = false) →
      completes (.requestArrival p) s fun t => t.mem = s.mem ∧ t.seqs = s.seqs ∧ ∃ c', t.ctxs.find? cid = some c' ∧
        c'.elems = c.elems ∧ c'.arcTo a.dst = some { a with req := a.req + 1, reqFly := a.reqFly - 1 })) ∧
  (∀ (s : State) (p : Port) (cid : Nat) (c : Ctx) (el : Elem) (x : Token),
    s.elemAt p.r (p.p / 4) = some (cid, c, el) → s.headOf c (siteKey p.r (p.p / 4)) (p.p % 4) = some x →
    s.canMove p.r = true →
    (x.kind = .xch ∧ takesXch el.cfg (p.p % 4) = false ∨ x.kind = .req ∧ takesReq el.cfg = false →
      completes (.strayControlDiscard p) s fun t => t = s.applyFiring p.r (p.p / 4) cid c el
        ⟨[p.p % 4], [], el, [⟨0x03, x.hdr, x.hdr, 0⟩], 0, id⟩) ∧
    (c.mode = .save → el.passage = .open → x.closed = false →
      (∀ a ∈ c.arcs, a.back = []) → el.park.length < 8 → el.cfg.uses (p.p % 4) = true →
      (∃ k < 4, el.cfg.uses k = true ∧ k ∈ el.needs (fun k => if el.cfg.uses k then
          s.headOf c (siteKey p.r (p.p / 4)) k else none) (p.p % 4) ∧
        ∃ y, s.headOf c (siteKey p.r (p.p / 4)) k = some y ∧ y.kind = .sluice) →
      completes (.sluicePark p) s fun t => t = s.applyFiring p.r (p.p / 4) cid c el
        ⟨[p.p % 4], [], { el with park := el.park ++ [(p.p % 4, x)] }, [], 0, id⟩)) ∧
  ∀ (s : State) (cid : Nat) (c : Ctx) (el : Elem), s.elemAt s.site.r s.site.s = some (cid, c, el) →
    s.canMove s.site.r = true → el.owes = false → el.hasPorts = true →
    let key := siteKey s.site.r s.site.s
    let carry := el.cfg.kind = 5 ∧ el.cfg.op = 1
    let weired : Elem := { Elem.initial el.cfg with
      desc := if el.desc = .fetching then .bad else el.desc
      wq := el.wq
      wdone := el.wdone
      rdone := el.rdone + el.readsDue
      lsSeen := el.lsSeen }
    let after := fun (x : Token) (p : Passage) => if x.kind = .weir then { weired with passage := p } else { el with passage := p }
    let closes := fun (i : Nat) => ∃ y, s.headOf c key i = some y ∧ y.closed = true
    let onward := fun (i : Nat) (x : Token) => el.cfg.outputs.map fun o =>
      (o, (⟨if malformed el.cfg i x = true then hSetPsn x.hdr true else x.hdr, .none⟩ : Token))
    (carry → el.passage = .half → 2 ∈ el.cfg.inputs → ∀ x, s.headOf c key 2 = some x →
      (x.closed = true → moves .controlTokenPassage s cid c el [2] [] (after x .passed) []) ∧
      (c.mode = .drain → x.isData = true → moves .controlTokenPassage s cid c el [2] [] el [])) ∧
    (el.passage = .open → (∀ o ∈ el.cfg.outputs, roomOn s c o) →
    (∀ x, carry → el.cfg.inputs = [0, 1, 2] → s.headOf c key 0 = some x → x.closed = true → closes 1 →
      moves .controlTokenPassage s cid c el [0, 1] (onward 0 x) (after x .half) []) ∧
    (el.cfg.ingress = true → c.mode = .drain → el.closing .drain = true →
      moves .controlTokenPassage s cid c el [] (el.cfg.outputs.map fun o =>
          (o, ⟨hControl 2 (s.nextChn s.site.r el) el.cfg.srcId el.ep, .none⟩))
        { weired with passage := .passed } []) ∧
    (el.cfg.ingress = true → c.mode = .save →
      moves .controlTokenPassage s cid c el [] (el.cfg.outputs.map fun o =>
          (o, ⟨hControl 3 (s.nextChn s.site.r el) el.cfg.srcId el.ep, .none⟩))
        { el with passage := .passed } []) ∧
    (∀ i ins x, ¬ carry → el.cfg.ingress = false → el.cfg.inputs = i :: ins → s.headOf c key i = some x → x.closed = true →
      (∀ j ∈ ins, closes j) →
      moves .controlTokenPassage s cid c el (i :: ins) (onward i x) (after x .passed) []))

/-- R53, R108-R111, R113, R119, R160, R166, R173, R176, R177: what a write of a sequencer's register leaves: a write of
dbg.step releases the withheld token, and a thaw and a discard end a freeze.
The model reads open points as log entries 26, 55 and 58 say. -/
def Obligations.ControlRegisterWrites : Prop :=
  ∀ (s : State) (q : Nat) (v : Word),
    (∀ (id : Nat) (w : Word), (id, w) ∈ [(0x001, v &&& 0xFF), (0x002, v &&& ~~~ 0xF), (0x003, v), (0x004, v), (0x005, v &&& ~~~ 0xF),
        (0x007, if v.toNat % 2 ^ 32 < 1024 then 1024 else v &&& 0xFFFFFFFF), (0x010, v &&& 0xFFFFFFFFFFFF)] →
      completes (.registerWrite q (BitVec.ofNat 12 id) v) s fun t => t.readReg q id = some w ∧ onlySeq q s t) ∧
    (∀ k < 16, completes (.registerWrite q (BitVec.ofNat 12 (0x070 + k)) v) s fun t =>
      t.readReg q (0x070 + k) = some (v &&& 0xFFFF) ∧ onlySeq q s t) ∧
    (completes (.sqStatusWrite q v) s fun t =>
      let x := t.seq q
      x.tm = v.getLsbD 0 ∧ x.lben = v.getLsbD 3 ∧ x.raen = v.getLsbD 4 ∧ x.dbl = v.getLsbD 15 ∧
        x.dcause = v.extractLsb' 16 8 ∧ (v.getLsbD 31 = true → x.esat = true) ∧ x.g = (s.seq q).g ∧
        (v.getLsbD 4 = false → x.blocks = (s.seq q).blocks.take 1) ∧
        (v.getLsbD 4 = true → x.blocks = (s.seq q).blocks) ∧ (v.getLsbD 3 = false → x.lbuf = []) ∧ onlySeq q s t) ∧
    (completes (.rasdWrite q v) s fun t =>
      let n := min 32 (v.toNat % 64)
      (t.seq q).ras.length = n ∧ (∀ k < n, (t.seq q).rasAt k = (s.seq q).rasAt k) ∧ onlySeq q s t) ∧
    (completes (.flogCtlWrite q v) s fun t =>
      (t.seq q).flogSize.toNat = min 12 (v.toNat % 16) ∧ (t.seq q).flogW = 0 ∧ (t.seq q).flogR = 0 ∧
        (t.seq q).flogDrop = 0 ∧ onlySeq q s t) ∧
    (completes (.flogRdWrite q v) s fun t =>
      let x := s.seq q
      ((v.setWidth 32 - x.flogR).toNat ≤ (x.flogW - x.flogR).toNat → (t.seq q).flogR = v.setWidth 32) ∧
        ((x.flogW - x.flogR).toNat < (v.setWidth 32 - x.flogR).toNat → (t.seq q).flogR = x.flogW) ∧ onlySeq q s t) ∧
    (q < 96 →
      (completes (.dbgCtlWrite q v) s fun t =>
        (t.seq q).hen = v.getLsbD 0 ∧ (t.seq q).htrap = v.getLsbD 1 ∧ t.mem = s.mem ∧ t.regions = s.regions) ∧
      (∀ k < 16, completes (.dbgHaltWrite q k v) s fun t =>
        t.halt q k = v.setWidth 32 &&& 0x8000F3FF ∧ (∀ j, j ≠ k → t.halt q j = s.halt q j) ∧ t.mem = s.mem ∧
          t.regions = s.regions) ∧
      (∀ (cid : Nat) (c : Ctx) (n : Nat) (a : Arc) (f : Flying) (rest : List Flying), (s.seq q).hen = true → (s.halt q (v.toNat % 16)).getLsbD 31 = true →
        (s.region q).armed = some cid → s.ctxs.find? cid = some c → q ∈ c.regions → c.arcs[n]? = some a →
        haltCovers (s.halt q (v.toNat % 16)) q a = true → s.holds a = [relBit q (v.toNat % 16) a] → a.relReg = none →
        a.toks = f :: rest → f.vis = true → f.rel = 0 →
        completes (.dbgStep q v) s fun t => ∃ c', t.ctxs.find? cid = some c' ∧
          c'.arcs[n]? = some { a with relReg := some f.tok, toks := rest }) ∧
      (v.toNat / 256 % 4 = 1 → completes (.hangThaw q v) s fun t =>
        (t.seq q).frozen = false ∧ (t.seq q).hangEn = v.getLsbD 0 ∧ (t.seq q).hangTrap = v.getLsbD 1 ∧
          (t.seq q).hangNotify = v.getLsbD 2 ∧ t.ctxs = s.ctxs ∧ t.mem = s.mem) ∧
      (∀ (cid : Nat) (c : Ctx), v.toNat / 256 % 4 = 2 → (s.seq q).frozen = true → (s.region q).armed = some cid →
        s.ctxs.find? cid = some c →
        completes (.hangDiscard q v) s fun t => t.ctxs.find? cid = none ∧
          ∀ r ∈ c.regions, (t.region r).armed = none ∧ (t.seq r).frozen = false))

/-- R57, R58, R145, R271, R281, R316, R355, R359, R374: an arming arms its regions with every element in its initial state, and
the context drains at once where a later CFGA waits for its regions; a drained context leaves its regions unarmed; at phase
end, with every write performed, PHASE is latched and the predicate network's slot is armed; an arrival is counted and its
result delivered, once its owner is awake, those of one block in the order of its instructions.
The model reads open points as log entries 54, 56 and 69 say. -/
def Obligations.ContextsAndArrivals : Prop :=
  (∀ (s : State) (k : Nat) (a : Arming), s.armings[k]? = some a →
    (∀ r ∈ a.regions, (s.region r).armed = none ∧ ∀ x, (s.region r).slots.find? a.slot = some x → x.marked = false) →
    (∀ j < k, ∀ b, s.armings[j]? = some b → ∀ r ∈ b.regions, r ∉ a.regions) →
    (∃ r ∈ a.regions, (s.region r).slots.find? a.slot ≠ none) →
    completes (.contextArm k) s fun t => t.armings = s.armings.eraseIdx k ∧
      (∀ r ∈ a.regions, ∀ x, (s.region r).slots.find? a.slot = some x →
        (t.region r).armed = some s.nextCtx ∧ (t.region r).ctx = a.slot ∧ (t.region r).pred = x.pred ∧
          (t.region r).mxmode = x.mxmode ∧ (t.seq r).latch.getLsbD 9 = true) ∧
      ∃ c, t.ctxs.find? s.nextCtx = some c ∧ c.slot = a.slot ∧ c.task = a.task ∧
        ((∀ b ∈ s.armings.eraseIdx k, ∀ r ∈ b.regions, r ∉ a.regions) →
          c.mode = .run ∧ ∀ ke ∈ c.elems, ke.2 = Elem.initial ke.2.cfg) ∧
        ((∃ b ∈ s.armings.eraseIdx k, ∃ r ∈ b.regions, r ∈ a.regions) →
          (∀ r ∈ a.regions, (s.region r).slots.find? a.slot ≠ none) → c.mode = .drain)) ∧
  (∀ (s : State) (cid : Nat) (c : Ctx), s.ctxs.find? cid = some c → (∀ r ∈ c.regions, (s.seq r).frozen = false) →
    (c.mode = .drain → c.closedOut = true →
      completes (.drainComplete cid) s fun t => t.ctxs.find? cid = none ∧
        ∀ r ∈ c.regions, (t.region r).armed = none ∧ (t.seq r).latch.getLsbD 9 = true ∧ (t.seq r).waitDrain = false) ∧
    (c.mode = .run → c.ended = false → c.phaseOver = true → (∀ ke ∈ c.elems, ke.2.wq = []) →
      ((∀ r ∈ c.regions, s.predicted r = none) →
        completes (.phaseEnd cid) s fun t => t.ctxs.find? cid = some { c with ended := true } ∧
          ∀ r ∈ c.regions, (t.seq r).latch.getLsbD 10 = true) ∧
      (∀ r rs j, c.regions = r :: rs → s.predicted r = some j →
        (s.region r).slots.find? j = none →
        completes (.phaseEnd cid) s fun t => t.ctxs.find? cid = none ∧
          ∀ g ∈ c.regions, (t.region g).armed = none ∧ (t.seq g).latch.getLsbD 10 = true))) ∧
  (∀ (s : State) (k : Nat) (a : Arrival), s.arrivals[k]? = some a →
    (s.barAwake a.h = false ∨ a.first = false → exec (.barrierArrival k) s = .next s) ∧
    (s.barAwake a.h = true → a.first = true → completes (.barrierArrival k) s fun t =>
      let b := s.barrier a.h
      let total := if b.arr = 0 then barCount a.h else b.n
      t.arrivals.map (fun (x : Arrival) => (x.h, x.q, x.regs)) =
        (s.arrivals.eraseIdx k).map (fun (x : Arrival) => (x.h, x.q, x.regs)) ∧
      (∀ j x, t.arrivals[j]? = some x → (x.first = true ↔
        (∃ y, (s.arrivals.eraseIdx k)[j]? = some y ∧ y.first = true) ∨
          k ≤ j ∧ x.q = a.q ∧ ∀ i, k ≤ i → i < j → ∀ y, t.arrivals[i]? = some y → y.q ≠ a.q)) ∧
      t.barrier a.h = (if b.arr + 1 = total then ⟨b.gen + 1, 0, total⟩ else ⟨b.gen, b.arr + 1, total⟩) ∧
      (∀ g ∈ a.regs, (t.seq a.q).reg g = b.gen.setWidth 64 ∧ g ∉ (t.seq a.q).awaits)))

/-- R369-R375: a request that is accepted moves its group along; pwr.grpack reports it, and then its completion; a
group woken without RESTORE is in the state given there, and its held tags are set; a failed request changes no group.
The model reads open points as log entries 75 and 76 say. -/
def Obligations.RegionGroups : Prop :=
  (∀ (s : State) (v : Word), s.busy = false → reqBad v = false →
    let g := reqGroup v
    let ack (busy : Nat) (op : Nat) : Word := BitVec.ofNat 64 (busy * 2 ^ 16 + bitsOf v 12 4 * 2 ^ 12 + op * 2 ^ 8)
    (reqOp v = 0 → completes (.groupSelectDie v) s fun t => t.svc.stateDie = bitsOf v 3 2 ∧ t.groups = s.groups) ∧
    (reqOp v = 1 → s.group g = .pool → completes (.quiesce v) s fun t =>
      t.group g = .quiescing ∧ t.svc.grpack = ack 1 1 ∧
        ∀ k ∈ s.groupTasks g, (s.task k).preemptible = true → (s.task k).preempt = none → (s.task k).grace = none →
          if (s.task k).ptrap then (t.task k).preempt = some 3 else (t.task k).state = .saving) ∧
    (reqOp v = 2 → s.group g = .quiet → areaBase s.svc.retsave + 0x1040000 ≤ 0x6000000000 →
      completes (.retain v) s fun t => t.group g = .retaining ∧ t.svc.grpack = ack 1 2 ∧ t.mem = s.mem) ∧
    ((s.group g = .quiet ∨ s.group g = .retained) →
      (reqOp v = 3 → s.crossed g = false →
        completes (.gate v) s fun t => t.groups = s.groups ∧ t.svc.grpack = ack 1 3 ∧ t.svc.grpreq = v &&& 0xF71F) ∧
      (reqOp v = 4 → completes (.release v) s fun t => t.groups = s.groups ∧ t.svc.grpack = ack 1 4 ∧
        t.svc.grpreq = v &&& 0xF71F))) ∧
  (∀ (s : State) (v : Word), s.busy = false → wakeBad v = false → s.group (reqGroup v) = .gated →
    completes (.wake v) s fun t => t.group (reqGroup v) = .waking ∧ t.svc.grpack.getLsbD 16 = true ∧
      bitsOf t.svc.grpack 12 4 = bitsOf v 12 4 ∧ bitsOf t.svc.grpack 8 4 = 5) ∧
  (∀ (s : State) (v : Word), s.busy = true → ∀ i k, (i, k) ∈ [(Instr.quiesce v, 1), (.retain v, 2), (.gate v, 3), (.release v, 4)] →
    reqOp v = k → completes i s fun t => t.groups = s.groups ∧ t.mem = s.mem ∧ t.tasks = s.tasks ∧
      t.svc.grpack = s.svc.grpack ∧ bitsOf t.svc.errlog 0 16 = 0x805) ∧
  ∀ (s : State) (d c : Nat),
    let g := d * 6 + c
    let done : Word := BitVec.ofNat 64 (bitsOf s.svc.grpack 12 4 * 2 ^ 12 + bitsOf s.svc.grpack 8 3 * 2 ^ 8)
    (s.group g = .quiescing → s.groupFree g = true →
      completes (.quiesceComplete d c) s fun t => t.group g = .quiet ∧ t.svc.grpack = done) ∧
    (s.group g = .retaining → s.retainFails g = false →
      completes (.retainComplete d c) s fun t => t.group g = .retained ∧ t.svc.grpack = done) ∧
    (s.group g = .retaining → s.retainFails g = true →
      completes (.retainComplete d c) s fun t => t.group g = .quiet ∧ t.svc.grpack = done + 4 ∧ t.mem = s.mem ∧
        bitsOf t.svc.errlog 0 16 = 0x804) ∧
    (s.busy = true → bitsOf s.svc.grpack 8 3 = 3 → reqGroup s.svc.grpreq = g →
      completes (.gateComplete d c) s fun t => t.group g = .gated ∧ t.svc.grpack = done) ∧
    (s.timeHeld = false → s.busy = true → bitsOf s.svc.grpack 8 3 = 4 → reqGroup s.svc.grpreq = g →
      completes .staticEnergyTick s fun t => t.group g = .pool ∧ t.svc.grpack = done) ∧
    (s.group g = .waking → s.svc.wakeArea.getLsbD 0 = false →
      completes (.wakeComplete d c) s fun t => t.group g = .pool ∧ t.svc.grpack = done ∧ ∀ r ∈ groupRegions g,
        (t.region r).tags = (s.region r).tagsPending ∧ (t.region r).tagsPending = 0 ∧ (t.region r).ing = [] ∧
          (t.region r).egr = [] ∧ (t.region r).bars = [] ∧ (t.seq r).hen = false ∧ (t.seq r).frozen = false ∧
          ∀ a, nodesAddr r ≤ a → a < nodesAddr r + nodesSize → Memory.byte t.mem a = 0)

/-- R368, R378, R382, R388, R390, R392, R393, R395: what the writes of the service sequencer's power registers leave,
a supply's step, the idle gate and the loading of a partition record. Time advances by one where nothing is due; a resident
task's anchor with SEN adds its static power to its counter, which stops at 2^48 - 1 and sets ESAT, and the other
sequencers add none; the mean of the last ten samples above the cap lowers codes by one step, and
none of a partition at or below its floor; a mean below the cap lowers none.
The model reads open points as log entries 74, 77, 78, 79, 80, 81 and 82 say. -/
def Obligations.PowerRegistersAndControl : Prop :=
  ((∀ (s : State) (v : Word),
     (completes (.pwrErrlogClear v) s fun t => t.svc.errlog = 0 ∧ t.mem = s.mem ∧ t.seqs = s.seqs) ∧
     (completes (.pwrCapWrite v) s fun t => t.svc.cap =
       if bitsOf v 0 16 < 320 ∨ bitsOf v 0 16 < s.floorsBut 8 then s.svc.cap else min (bitsOf v 0 16) 2600) ∧
     (∀ c, bitsOf v 0 7 < 96 → bitsOf v 8 4 = c → c ≠ 15 →
       let r := bitsOf v 0 7
       completes (.pwrVsetWrite v) s fun t => t.svc.vsetRegion = r ∧
         (s.group (groupOf r) = .pool → (t.region r).vceil = c ∧ (t.region r).vcur = min (s.region r).vcur c) ∧
         (s.group (groupOf r) ≠ .pool → (t.region r).vheld = some c ∧ (t.region r).vcur = (s.region r).vcur)) ∧
     (∀ k, s.counter = some k → completes (.pwrEvalWrite v) s fun t =>
       t.energy.getD k 0 = (if k / 128 = 5 then bitsOf v 0 16 else bitsOf v 0 48) * 9000 ∧
         ∀ j, j ≠ k → t.energy.getD j 0 = s.energy.getD j 0)) ∧
   (∀ (s : State) (r a : Nat), (s.region r).slewing = some a → a ≠ (s.region r).vcur →
     let b := if a < (s.region r).vcur then a + 1 else a - 1
     completes (.voltageSlew r) s fun t => (t.region r).vcur = (s.region r).vcur ∧
       (t.region r).slewing = if b = (s.region r).vcur then none else some b) ∧
   (∀ (s : State) (r pct : Nat),
     ((s.region r).millpond = none → pct < 70 →
       completes (.millpondHold r pct) s fun t => (t.region r).millpond = some s.now) ∧
     (∀ h, (s.region r).millpond = some h → (80 ≤ pct ∨ h + 1500 ≤ s.now) →
       completes (.millpondRelease r pct) s fun t => (t.region r).millpond = none) ∧
     ((s.region r).gated = false → (s.region r).idleSince = none → s.regionIdle r = true → s.group (groupOf r) = .pool →
       3600 * (s.region r).idleHist.length < ((s.region r).idleHist.map fun n => min n 65536).sum → completes (.regionIdleGate r) s fun t =>
         (t.region r).gated = true ∧ (t.region r).idleSince = some s.now ∧ t.mem = s.mem ∧ t.seqs = s.seqs) ∧
     ((s.region r).gated = true → exec (.regionIdleGate r) s = .next s) ∧
     (s.wakeDue r = false → exec (.regionIdleWake r) s = .next s) ∧
     ((s.region r).gated = true → (r ∈ s.roused ∨ s.regionIdle r = false) →
       completes (.regionIdleWake r) s fun t =>
         (t.region r).gated = false ∧ r ∉ t.roused ∧ t.mem = s.mem ∧ t.seqs = s.seqs)) ∧
   ∀ (s : State) (p : Nat) (bs : List Byte) (u : State), p < 8 →
     s.readAt s.physTr (s.svc.partBase.toNat + 64 * p) 64 = .ok (bs, u) →
     let r := bytesToWords bs
     let new := if (u.part p).valid = true then partFrom r (u.part p).fqCount (u.part p).opened else partFrom r 0 []
     let moved := (List.range 96).filter fun g => (u.part p).regions.contains g != new.regions.contains g
     partBad r = false → moved.any u.regionHeld = false →
     (∀ k < 8, k ≠ p → ∀ g ∈ new.regions, g ∉ (u.part k).regions) →
     (new.valid = true → u.floorsBut p + new.floor ≤ u.svc.cap) →
     completes (.partitionLoad (BitVec.ofNat 64 (0x100 + p))) s fun t => t.part p = new ∧
       (∀ k, k ≠ p → t.part k = u.part k) ∧
       ∀ g ∈ moved, (t.region g).bars = [] ∧ (t.region g).tags = 0 ∧ (t.region g).ing = [] ∧ (t.region g).egr = [] ∧
         ∀ a, nodesAddr g ≤ a → a < nodesAddr g + nodesSize → Memory.byte t.mem a = 0) ∧
  ((∀ s : State, (s.timeHeld = true → exec .staticEnergyTick s = .next s) ∧
     (s.timeHeld = false → completes .staticEnergyTick s fun t => t.now = s.now + 1 ∧ t.mem = s.mem ∧ t.ctxs = s.ctxs ∧
       (∀ q, (∀ kt ∈ s.tasks, kt.2.anchor = q → kt.2.resident = true → (s.seq q).senOn = false) → t.seq q = s.seq q) ∧
       ∀ (k : Nat) (x : Task), (s.tasks.filter fun kt => kt.2.resident && kt.2.anchor == x.anchor) = [(k, x)] →
         (s.seq x.anchor).senOn = true →
         let a := s.seq x.anchor
         let n := a.energy.toNat + t.staticMw x.anchor
         t.seq x.anchor = { a with energy := BitVec.ofNat 48 (min n (2 ^ 48 - 1)), esat := a.esat || decide (2 ^ 48 - 1 < n) })) ∧
   ∀ (s : State) (mw : Nat), s.svc.nextMeasure ≤ s.now →
     let l := (mw :: s.svc.samples).take 10
     let cap := s.svc.cap * 1000 * l.length
     completes (.powerMeasure mw) s fun t => t.svc.samples = l ∧ s.now < t.svc.nextMeasure ∧
       t.svc.nextMeasure ≤ s.now + 1000 ∧ t.mem = s.mem ∧
       (cap * 95 ≤ l.sum * 100 → l.sum ≤ cap → t.svc.below = none ∧ t.svc.steps = s.svc.steps ∧
         (s.svc.coll.getLsbD 31 = false → t.regions = s.regions)) ∧
       (l.sum ≤ cap → ∀ r, (s.region r).vcur ≤ (t.region r).vcur) ∧
       (cap < l.sum → ∀ r, (t.region r).vcur ≤ (s.region r).vcur ∧ (s.region r).vcur ≤ (t.region r).vcur + 1 ∧
         ((∀ p < 8, r ∈ (s.part p).regions → Config.partPower s.free p ≤ (s.part p).floor * 1000) →
           (t.region r).vcur = (s.region r).vcur)))

/-- R346-R351, R353, R364: a task is allocated, selected, launched and ended, and each of its stages is selected for
regions of its own; a fault ends it, and what is frozen of it is discarded; the host resets and releases it; what the
anchor's thread starts with.
The model reads open points as log entries 67 and 68 say. -/
def Obligations.TasksRunAndEnd : Prop :=
  ∀ (s : State) (d k : Nat),
    let t := d * 4096 + k
    let x := s.task t
    (∀ r u, s.readTaskRec t = .ok (r, u) → x.state = .free →
      completes (.taskAllocate d k) s fun v => (v.task t).record = r ∧ (v.task t).counter.toNat = recBits r 2 15 0 ∧
        (v.task t).state = if recBits r 2 15 0 = 0 then .ready else .wait) ∧
    (∀ r u, s.readTaskRec t = .ok (r, u) → x.state = .faulted → s.taskRec t % 64 = 0 →
      s.taskRec t + 64 ≤ 0x6000000000 →
      completes (.taskResetByHost d k) s fun v => (v.task t).record = r ∧
        (v.task t).counter.toNat = recBits r 2 15 0 ∧
        (v.task t).state = (if recBits r 2 15 0 = 0 then .ready else .wait) ∧
        Memory.bytes v.mem (s.taskRec t + 56) 8 = List.replicate 8 0) ∧
    (x.state ∈ [.wait, .ready, .done, .faulted] →
      completes (.taskReleaseByHost d k) s fun v => (v.task t).state = .free ∧ v.mem = s.mem) ∧
    (∀ u r p, s.chosen d = some (.launch u r p) →
      completes (.taskSelect d) s fun v => (v.task u).state = .launch ∧ (v.task u).record = r ∧
        (v.task u).regions = p.regions ∧ (v.task u).anchor = p.anchor ∧ v.mem = s.mem) ∧
    (∀ u i rs ps g, s.chosen d = some (.stage u i rs (.ok ps)) → (s.task u).stages[i]? = some g →
      completes (.taskSelect d) s fun v => (v.task u).state = (s.task u).state ∧
        (v.task u).regions = (s.task u).regions ++ rs ∧
        (v.task u).stages[i]? = some { g with regions := rs, changed := s.now } ∧
        ∀ r ∈ rs, (v.region r).ing = [] ∧ (v.region r).egr = []) ∧
    (∀ ps l w, x.state = .launch → s.launchImage t = .ok ps → s.staging t = .ok l w →
      completes (.taskLaunch d k) s fun v => (v.task t).state = .run ∧
        let y := v.seq x.anchor
        y.reg 0 = BitVec.ofNat 64 (t % 4096) ∧ (∀ n, 0 < n → y.reg n = 0) ∧ y.tm = false ∧ y.ras = [] ∧ y.latch = 0 ∧
          y.tvec = x.record.getD 6 0 &&& ~~~ 0xF ∧ y.btime = 0x10000 ∧ y.blocks = [] ∧
          y.cond = if x.entry = 0 then .idle else .fetch x.entry) ∧
    (x.state = .run → x.toFault = false → (x.entry = 0 ∨ (s.seq x.anchor).cond.isHalted = true) →
      (x.chain = 0 ∨ x.chainDone = true) → (∀ g ∈ x.stages, g.ended = true) →
      completes (.taskEnd d k) s fun v =>
        if s.taskCtxs t = [] ∧ s.taskArming t = false ∧ (∀ r ∈ x.regions, (s.seq r).committing = false) then
          (v.task t).state = .done ∧ (v.task t).regions = []
        else (v.task t).state = .ending ∧ ∀ c ∈ s.taskCtxs t, ∀ y, v.ctxs.find? c = some y → y.mode ≠ .run) ∧
    (x.state = .run → (x.toFault = true ∨ s.stoppedThread t ≠ none) →
      completes (.taskFault d k) s fun v =>
        (x.toFault = true → (v.task t).cause = x.cause) ∧
        (∀ r, x.toFault = false → s.stoppedThread t = some r →
          (v.task t).cause = if (s.seq r).dbl then (s.seq r).dcause else (s.seq r).cause) ∧
        if (∀ c ∈ s.taskCtxs t, ∃ y, s.ctxs.find? c = some y ∧ s.anyFrozen y.regions = true) ∧
            s.taskArming t = false ∧ (∀ r ∈ x.regions, (s.seq r).committing = false) then
          (v.task t).state = .faulted ∧ (v.task t).regions = []
        else (v.task t).state = .ending)

/-- R343, R356-R360, R372: a pre-emption goes through the PREEMPT trap where PTRAP asks for it and proceeds when the
grace is over; the saved task keeps nothing in its regions, and is resumed on them and restored; the victim is a task
of the lowest base priority.
The model reads open points as log entries 70 and 71 say. -/
def Obligations.Preemption : Prop :=
  ∀ (s : State) (d k : Nat),
    let t := d * 4096 + k
    let x := s.task t
    (∀ n, x.preemptible = true → x.grace = none → x.preempt = some n →
      completes (.preempt d k n) s fun v =>
        (x.ptrap = true → (v.task t).grace = some (s.now + x.graceUs * 1000) ∧
          let y := s.seq x.anchor
          (y.tm = true → (v.seq x.anchor).asyncPreempt = some (BitVec.ofNat 64 (n + 256 * x.graceUs)) ∧
            (v.seq x.anchor).tm = true ∧ (v.seq x.anchor).cause = y.cause) ∧
          (∀ e, y.tm = false → y.resumeAt = some e → y.asyncHang = none →
            (v.seq x.anchor).cause = causePREEMPT ∧ (v.seq x.anchor).tm = true ∧
              (v.seq x.anchor).epc = e &&& ~~~ 0xF ∧ (v.seq x.anchor).tval = BitVec.ofNat 64 (n + 256 * x.graceUs))) ∧
        (x.ptrap = false → (v.task t).state = .saving)) ∧
    (∀ g, x.state = .run → x.grace = some g → g ≤ s.now →
      completes (.preemptGraceExpire d k) s fun v => (v.task t).state = .saving ∧ (v.task t).grace = none ∧
        v.mem = s.mem ∧ (∀ r ∈ x.regions, ∀ e, (s.seq r).resumeAt = some e → (v.seq r).cond = .parked e) ∧
        ((∀ r ∈ x.regions, (s.seq r).committing = false) →
          ∀ c ∈ s.taskCtxs t, ∀ y, v.ctxs.find? c = some y → y.mode ≠ .run) ∧
        ((∃ r ∈ x.regions, (s.seq r).committing = true) → v.ctxs = s.ctxs)) ∧
    (∀ u v, (∀ kt ∈ s.tasks, ∀ r ∈ kt.2.regions, s.group (groupOf r) ≠ .quiescing) → s.waiting d = [u] →
      s.unplaced u = true → s.makingRoom d (s.task u).part = false →
      s.victim d (s.task u).part (s.task u).prio = some v →
      (s.task v).preemptible = true → (s.task v).preempt = none → (s.task v).grace = none →
      completes (.preemptDecision d) s fun w =>
        if (s.task v).ptrap then (w.task v).preempt = some 1 else (w.task v).state = .saving) ∧
    (∀ p pr v, s.victim d p pr = some v → ∃ y, (v, y) ∈ s.tasks ∧ y.preemptible = true ∧ y.prio < pr ∧
      ∀ kt ∈ s.tasks, kt.1 / 4096 = d → kt.2.part = p → kt.2.preemptible = true →
        y.prio ≤ kt.2.prio ∧ (y.prio = kt.2.prio → kt.2.order ≤ y.order)) ∧
    (∀ v u, x.state = .saving → x.saved = some v →
      (∀ c ∈ s.taskCtxs t, ∃ y, s.ctxs.find? c = some y ∧ y.mode ≠ .run ∧ y.savedOut = true) →
      s.taskArming t = false → s.anyFrozen x.regions = false → (∀ r ∈ x.regions, (s.seq r).awaits = []) →
      (∀ r ∈ x.regions, (s.seq r).committing = false) → v.copies = [] →
      s.writeImages t (v.chain.getD 0) v.chain.isSome ((sortNat x.regions).zipIdx) = .ok u →
      completes (.saveComplete d k) s fun w => (w.task t).state = .saved ∧ (w.task t).regions = [] ∧
        (w.task t).saved ≠ none ∧ (∀ c ∈ s.taskCtxs t, w.ctxs.find? c = none) ∧
        ∀ r ∈ x.regions, (w.region r).ing = [] ∧ (w.region r).egr = [] ∧ (w.seq r).tres = 0) ∧
    (∀ v, s.chosen d = some (.resume t) → x.saved = some v →
      (∀ rj ∈ (sortNat v.regions).zipIdx, v.seqs.has rj.1 = true →
        ∃ b, s.readAt (s.walkTr t) (x.imageAddr rj.2) 0x1000 = .ok b) →
      completes (.taskResume d k) s fun w => (w.task t).state = .resuming ∧ (w.task t).regions = v.regions ∧
        w.mem = s.mem ∧ w.ctxs = s.ctxs ∧
        ∀ r ∈ v.regions, ∀ j, (sortNat v.regions)[j]? = some r → v.seqs.has r = true →
          ∀ bs u, s.readAt (s.walkTr t) (x.imageAddr j) 0x1000 = .ok (bs, u) →
            let ws := bytesToWords bs
            (w.seq r).energy = (wordOff ws 0x268).setWidth 48 ∧ (w.seq r).tm = (wordOff ws 0x248).getLsbD 0 ∧
              (w.seq r).senOn = (wordOff ws 0x270).getLsbD 1) ∧
    (∀ v bs, x.state = .resuming → x.saved = some v → s.readBacks t v ((sortNat v.regions).zipIdx) = .ok bs →
      completes (.restoreComplete d k) s fun w => (w.task t).state = .run ∧ (w.task t).saved = none ∧
        (w.task t).regions = x.regions)

/-- R354, R363, R365, R366: a stage is widened into free regions once its buffer has been high for 4 µs; the pager's
answer lets every element and channel that waits on an entry go on, and PFLAG is cleared; corrected errors are counted by
window, and a structure at or above the threshold is lasting.
The model reads open points as log entries 68, 72 and 73 say. -/
def Obligations.StagesPagerAndErrors : Prop :=
  (∀ (s : State) (d k i : Nat) (g : Stage) (h : Nat),
    let x := s.task (d * 4096 + k)
    ∀ extra : List Nat,
    k < 4096 → x.state = .run → x.stages[i]? = some g → s.stageChanging d = false → s.changeable g = true → g.unroll ≤ 2 →
    g.thread = false → g.image (2 * g.unroll) ≠ 0 → g.highSince = some h → h + 4000 ≤ s.now →
    s.takes (d * 4096 + k) (2 * g.unroll) g (s.freeOn (d * 4096 + k)) = some extra →
    completes (.stageWiden d k i) s fun t =>
      (t.task (d * 4096 + k)).stages[i]? = some { g with next := 2 * g.unroll, extra := extra, gift := none } ∧
        (t.task (d * 4096 + k)).regions = x.regions ++ extra ∧
        ∀ r ∈ g.regions, ∀ c, (s.region r).armed = some c → ∀ y, t.ctxs.find? c = some y → y.mode ≠ .run) ∧
  (∀ (s : State) (p : Nat) (w0 w1 : Word),
    let x := s.part p
    x.valid = true → s.flag x.pflag = true →
    completes (.pagerResolve p) s fun t => t.flag x.pflag = false ∧
      (x.fqCount = 1 → x.fqn ≠ 0 → s.pageFaults = [] → s.physWord (x.slotAt 0) = some w0 →
        s.physWord (x.slotAt 0 + 8) = some w1 → w0.getLsbD 63 = true → bitsOf w1 24 8 = 1 → bitsOf w0 52 4 ≤ 3 →
        (∀ cid c key el, s.ctxs.find? cid = some c → c.elems.find? key = some el → el.fault = some (p, 0) →
          ∃ c' e', t.ctxs.find? cid = some c' ∧ c'.elems.find? key = some e' ∧ e'.stall = none ∧ e'.fault = none) ∧
        ∀ k, (s.chan k).mode = .stop → (s.chan k).fault = some (p, 0) →
          (t.chan k).mode = .run ∧ (t.chan k).phase = .read ∧ (t.chan k).recAt = (s.chan k).recAt)) ∧
  ∀ (s : State) (kind index : Nat),
    (s.windowNow ≠ s.errorWindow →
      completes .errorWindowExpire s fun t => t.errors = [] ∧ t.errorWindow = s.windowNow) ∧
    let key := kind * 2 ^ 20 + index
    let n := (if s.windowNow = s.errorWindow then s.errors.getD key 0 else 0) + 1
    completes (.correctedError kind index) s fun t => t.errors.getD key 0 = n ∧ t.errorWindow = s.windowNow ∧
      (s.svc.thr ≠ 0 → s.svc.thr ≤ n → key ∈ t.lasting ∧
        (kind = 0 → key ∉ s.lasting → (t.region (index / 128)).lost = true) ∧
        (kind = 1 → key ∉ s.lasting → (t.region (index / 768)).lost = true)) ∧
      ((s.svc.thr = 0 ∨ n < s.svc.thr ∨ key ∈ s.lasting) → t.lasting = s.lasting)

/-- R227, R228, R290, R326, R329, R331, R337, R338: a channel takes a chain, reads a record, writes a unit to every
destination and nothing else, in turn with the engine's other channels, and ends the record with its actions, one by one,
and then its final write. The graph sequencer reads a
section record, gives its counts, and once every counted element has expired sets its flag and goes to the next
record.
The model reads open points as log entries 61, 62, 63, 64 and 66 say. -/
def Obligations.Engines : Prop :=
  (∀ (s : State) (d c : Nat),
     let k := d * 64 + c
     let x := s.chan k
     let tr := s.chanTr k x.issuer
     (∀ a q o rest, x.mode = .idle → x.queue = (a, q, o) :: rest →
       completes (.copyChainStart d c) s fun t => (t.chan k).mode = .run ∧ (t.chan k).phase = .read ∧
         (t.chan k).recAt = a ∧ (t.chan k).issuer = q ∧ (t.chan k).task = o ∧ (t.chan k).queue = rest ∧ t.mem = s.mem) ∧
     (∀ bs u, x.mode = .run → x.phase = .read → s.chanFenced x = false → s.readAt tr x.recAt.toNat 128 = .ok (bs, u) →
       let w := bytesToWords bs
       ((w.getD 0 0).getLsbD 0 = false →
         completes (.copyRecordRead d c) s fun t => (t.chan k).mode = .idle ∧ t.mem = s.mem) ∧
       ((w.getD 0 0).getLsbD 0 = true →
         (∀ e f v, u.checkRecord k x.issuer w = .bad e f v → completes (.copyRecordRead d c) s fun t =>
           (t.chan k).phase = .final (BitVec.ofNat 8 e) (BitVec.ofNat 64 f) ∧ t.mem = s.mem) ∧
         (∀ ws v, u.checkRecord k x.issuer w = .good ws v → completes (.copyRecordRead d c) s fun t =>
           (t.chan k).phase = .units 0 ∧ (t.chan k).data = w ++ ws ∧ (t.chan k).mode = .run ∧ t.mem = s.mem))) ∧
     (∀ n ds bs blocks ps, x.mode = .run → x.phase = .units n → x.abort = false → s.chanFenced x = false →
       s.chanTurn k = true →
       let f := xferOf x.data
       let row := n / 2 ^ 18
       let piece := f.unit row (n % 2 ^ 18)
       let more := n % 2 ^ 18 + 1 < f.units row
       row < f.rows → s.unitPieces tr piece.2.1 (f.unitDests row piece) = .ok ds →
       s.unitBytes tr f row piece ds x.row = .ok (bs, blocks) ps →
       completes (.copyWriteUnit d c) s fun t =>
         (t.chan k).phase = .units (if more then n + 1 else (row + 1) * 2 ^ 18) ∧
         (t.chan k).row = (if more then blocks else []) ∧ t.served.getD (k / 16) 15 = k % 16 ∧
         (∀ a, (∀ qs ∈ ds, ∀ q ∈ qs, a < q.1 ∨ q.1 + q.2 ≤ a) → Memory.byte t.mem a = Memory.byte s.mem a) ∧
         (∀ a, ds = [[(a, bs.length)]] → Memory.bytes t.mem a bs.length = bs)) ∧
     (x.mode = .run → s.chanFenced x = false →
       (∀ n, x.phase = .units n → (xferOf x.data).rows ≤ n / 2 ^ 18 →
         exec (.copyRecordComplete d c) s = .next (if x.abort = true then s.setChan k { x with phase := .final 0x10 0 }
           else (s.complete k 0).setChan k { x with phase := .acts 1 })) ∧
       (∀ n < 3, x.phase = .acts n →
         exec (.copyRecordComplete d c) s = .next ((s.complete k n).setChan k { x with phase := .acts (n + 1) }))) ∧
     (let w := x.data.getD 6 0
      (w.getLsbD 16 = true → bitsOf w 43 7 < 96 → s.group (groupOf (bitsOf w 43 7)) = .pool →
        ((s.complete k 0).region (bitsOf w 43 7)).tags.getLsbD (bitsOf w 10 6) = true) ∧
      (w.getLsbD 29 = true →
        let n := k / 64 * 4096 + bitsOf w 17 12
        ((s.complete k 1).task n).counter.toNat = (s.task n).counter.toNat - 1) ∧
      (w.getLsbD 30 = true → (s.complete k 2).flag (k / 64 * 4096 + bitsOf w 31 12) = true) ∧
      (w.getLsbD 16 = false → s.complete k 0 = s) ∧ (w.getLsbD 29 = false → s.complete k 1 = s) ∧
      (w.getLsbD 30 = false → s.complete k 2 = s)) ∧
     (x.mode = .run → x.phase = .acts 3 → x.abort = false → s.chanFenced x = false →
       completes (.copyRecordComplete d c) s fun t =>
         (bitsOf (x.data.getD 0 0) 6 58 = 0 → (t.chan k).mode = .idle) ∧
         (bitsOf (x.data.getD 0 0) 6 58 ≠ 0 → (t.chan k).mode = .run ∧ (t.chan k).phase = .read ∧
           (t.chan k).recAt = x.data.getD 0 0 &&& ~~~ 0x3F) ∧
         ∀ pa pb, s.runAt tr .write x.recAt.toNat 8 = .ok [(pa, 8)] →
           s.runAt tr .write (x.recAt.toNat + 0x58) 16 = .ok [(pb, 16)] → pa + 8 ≤ pb →
           Memory.byte t.mem pa = Memory.byte s.mem pa &&& 0xFE ∧ Memory.bytes t.mem pb 8 = [2, 0, 0, 0, 0, 0, 0, 0])) ∧
  (∀ (s : State) (d t : Nat),
     let h := s.race d
     h.task = some t → (s.task t).state = .run →
     (∀ bs u, h.waiting = false → h.data = [] → s.readAt (s.walkTr t) h.recAt.toNat 64 = .ok (bs, u) →
       let w := bytesToWords bs
       ((w.getD 0 0).getLsbD 0 = false → completes (.headraceRecordRead d) s fun v =>
         (v.race d).task = none ∧ (v.task t).chainDone = true ∧ v.mem = s.mem) ∧
       ((w.getD 0 0).getLsbD 0 = true → sectionBad w = false → completes (.headraceRecordRead d) s fun v =>
         (v.race d).data = w ∧ (v.race d).task = some t ∧ v.mem = s.mem)) ∧
     (h.waiting = false → h.data ≠ [] → h.loaded = true → (∀ a ∈ s.armings, a.issuer ≠ raceLoader d) →
       completes (.headraceRecordRead d) s fun v => (v.race d).waiting = true ∧ v.mem = s.mem ∧
         ∀ cid c key el, s.ctxs.find? cid = some c → c.elems.find? key = some el →
           key / 96 ∈ sectionRegions h.data → el.cfg.kind = 0 → (el.cfg.op = 0x40 ∨ el.cfg.op = 0x41) →
           el.cfg.uncounted = false →
           ∃ c' e', v.ctxs.find? cid = some c' ∧ c'.elems.find? key = some e' ∧
             e'.cnt = min (el.cnt + bitsOf (h.data.getD 4 0) 0 32) 0xFFFFFFFE) ∧
     (h.waiting = true → h.data ≠ [] → s.sectionOver (sectionRegions h.data) h.goals = true →
       let w := h.data.getD 5 0
       let next := h.data.getD 0 0 &&& ~~~ 0x3F
       completes (.headraceSectionComplete d) s fun v =>
         (w.getLsbD 39 = true → v.flag (d * 4096 + bitsOf w 27 12) = true) ∧
         (next = 0 → (v.race d).task = none ∧ (v.task t).chainDone = true) ∧
         (next ≠ 0 → (v.race d).task = some t ∧ (v.race d).recAt = next ∧ (v.race d).data = [] ∧
           (v.race d).waiting = false)))

/-- R287, R396, R398-R400: the host's window reads and writes bytes; its posts lower and set counters; a reset leaves
the module as reset leaves it and runs the stages that verify; reports; frames of other modules.
The model reads open points as log entries 84, 85, 86, 87, 89 and 107 say. -/
def Obligations.HostAndRemote : Prop :=
  (∀ (s : State) (p pa : Nat) (va : Word) (data : List Byte), data.length ∈ [1, 2, 4, 8] →
    (s.checkOrder (s.translate (some p) .write va.toNat) .write va data.length = .ok pa →
      completes (.hostMemoryWindow p va true data) s fun t => t.replies = s.replies ++ [.ok] ∧
        Memory.bytes t.mem pa data.length = data ∧
        ∀ a, a < pa ∨ pa + data.length ≤ a → Memory.byte t.mem a = Memory.byte s.mem a) ∧
    (s.checkOrder (s.translate (some p) .read va.toNat) .read va data.length = .ok pa →
      s.windowAt pa data.length false = .plain →
      (s.poisoned pa data.length = false → completes (.hostMemoryWindow p va false data) s fun t => t.mem = s.mem ∧
        t.replies = s.replies ++ [.data (Memory.bytes s.mem pa data.length)]) ∧
      (s.poisoned pa data.length = true → completes (.hostMemoryWindow p va false data) s fun t =>
        t.replies = s.replies ++ [.error va])) ∧
    (∀ e, s.checkOrder (s.translate (some p) .write va.toNat) .write va data.length = .error e →
      completes (.hostMemoryWindow p va true data) s fun t => t.replies = s.replies ++ [.error va] ∧ t.ctxs = s.ctxs)) ∧
  (∀ (s : State) (v : Word), postBad v = false →
    let k := postTask v
    let n := postAmount v
    let c := (s.task k).counter.toNat
    (completes (.hostTaskPost v) s fun t => t.replies = s.replies ++ [.ok] ∧
      (t.task k).counter.toNat = c - min c n ∧
      (t.task k).state = if (s.task k).state = .wait ∧ 0 < c ∧ c ≤ n then .ready else (s.task k).state) ∧
    ((s.task k).state = .wait ∨ (s.task k).state = .done →
      completes (.hostArmPost v) s fun t => t.replies = s.replies ++ [.ok] ∧ (t.task k).counter.toNat = n ∧
        (t.task k).state = if n = 0 then .ready else .wait)) ∧
  (∀ (s : State) (nonce : List Byte), nonce.length = 64 → s.boot.stage ≠ 0 → s.boot.failed = false →
    completes (.attestationRequest nonce) s fun t => t.mem = s.mem ∧ ∃ svn msg rnd, rnd.length = 32 ∧
      t.replies = s.replies ++ [.report nonce s.boot.meas svn 0x0004 (mldsaSign s.boot.keys.2 msg rnd)]) ∧
  (∀ (s : State) (img : List Byte),
    (completes (.moduleReset []) s fun t => t.mem = [] ∧ t.seqs = State.reset.seqs ∧ t.tasks = State.reset.tasks ∧
      t.groups = State.reset.groups ∧ t.boot.stage = 0 ∧ t.boot.failed = false ∧ t.boot.meas = State.reset.boot.meas ∧
      t.boot.keys = if s.boot.keys = ([], []) then identityKeys else s.boot.keys) ∧
    (∀ e, fwVerify img = .error e → completes (.moduleReset [img]) s fun t => t.boot.failed = true ∧ t.boot.stage = 0 ∧
      t.mem = [] ∧ t.seqs = State.reset.seqs) ∧
    (∀ h p g, fwVerify img = .ok (h, p, g) → completes (.moduleReset [img]) s fun t => t.boot.stage = 1 ∧
      t.boot.failed = false ∧ sha3_512 (List.replicate 64 0 ++ g) ∈ t.boot.meas ∧
        ∃ a, (t.seq service).cond = .fetch a)) ∧
  ∀ (s : State) (p h : Nat),
    let x := s.peer p
    let y := x.stream h
    (∀ n, completes (.remoteFrameReceive p n h []) s fun t => (t.peer p).silent = false ∧
      ((t.peer p).stream h).sent = y.sent.filter (fun f => n ≤ f.seqno) ∧ t.mem = s.mem) ∧
    (∀ ws b, y.taken = 0 → s.sbufs.find? (localHandle h) = some b → b.egr = none →
      (∀ b' off, b.push (wordsToken ws) = .done b' off none →
        completes (.remoteFrameReceive p y.got h [ws]) s fun t => ((t.peer p).stream h).got = y.got + 1 ∧
          (∀ g, g % 2 ^ 25 ≠ h % 2 ^ 25 → (t.peer p).stream g = x.stream g) ∧
          t.sbufs.find? (localHandle h) = some b' ∧
          (t.peer p).wire = x.wire ++ [⟨y.got + 1, BitVec.ofNat 32 h, []⟩]) ∧
      (b.push (wordsToken ws) = .stall →
        completes (.remoteFrameReceive p y.got h [ws]) s fun t => (∀ g, (t.peer p).stream g = x.stream g) ∧
          (t.peer p).wire = x.wire ∧ t.sbufs = s.sbufs ∧ t.mem = s.mem)) ∧
    (∀ n ws, ws ≠ [] → y.got < n → completes (.remoteFrameReceive p n h ws) s fun t =>
      t.peer p = x ∧ t.sbufs = s.sbufs ∧ t.mem = s.mem) ∧
    (∀ k f, x.unanswered[k]? = some f →
      completes (.remoteRetransmit p k) s fun t => (t.peer p).wire = x.wire ++ [f] ∧ t.mem = s.mem) ∧
    (x.unanswered ≠ [] → x.since + 1000000 ≤ s.now →
      completes (.remotePeerTimeout p) s fun t => (t.peer p).silent = true ∧ t.mem = s.mem)

/-- Debug access of chapter 19: what the instructions of the test access port capture; REGACC reads and writes
registers, and SQHALT holds the service sequencer, only while debug is enabled.
The model reads open points as log entries 88 and 90 say. -/
def Obligations.TestAccessPort : Prop :=
  ∀ s : State,
    let kept (t : State) : Prop := t.mem = s.mem ∧ t.seqs = s.seqs ∧ t.svc = s.svc ∧ t.regions = s.regions
    (completes .idcode s fun t => t.tap.ir = 0x01 ∧ t.tap.dr = 0x1A04D0F3 ∧ kept t) ∧
    (completes .bypass s fun t => t.tap.ir = 0xFF ∧ kept t) ∧
    (completes .extest s fun t => t.tap.ir = 0x00 ∧ kept t) ∧
    (completes .samplePreload s fun t => t.tap.ir = 0x02 ∧ kept t) ∧
    (completes .sqhaltStop s fun t => t.tap.ir = 0x21 ∧ t.tap.halt = (s.tap.halt || s.boot.debug) ∧ kept t) ∧
    (completes .sqhaltRelease s fun t => t.tap.ir = 0x21 ∧ t.tap.halt = (s.tap.halt && !s.boot.debug) ∧ kept t) ∧
    (∀ (g : BitVec 8) (id : BitVec 12) (v : Word),
      (s.boot.debug = false →
        (completes (.regaccRead g id) s fun t => t.tap.ir = 0x20 ∧ t.tap.dr.extractLsb' 0 64 = 0 ∧ kept t) ∧
        (completes (.regaccWrite g id v) s fun t => t.tap.ir = 0x20 ∧ kept t)) ∧
      (∀ q w, s.boot.debug = true → regTarget g = some q → s.readReg q id.toNat = some w →
        (completes (.regaccRead g id) s fun t => t.tap.ir = 0x20 ∧ t.tap.dr.extractLsb' 0 64 = w ∧ kept t) ∧
        (readOnly id.toNat = false → completes (.regaccWrite g id v) s fun t =>
          t = (s.setTap 0x20 (g ++ id ++ (1 : BitVec 12) ++ v)).writeReg q id.toNat v)))

/-! ## Encoding, the step, reset, frames and the invariant -/

/-- R13, R14, R16 and the debug access of chapter 19: the word that encodes a well-formed control-thread instruction
decodes to that instruction, with every field at every value, and so does the scan of an instruction of the test
access port. -/
def Obligations.DecodingUndoesEncoding : Prop :=
  (∀ (i : Instr) (w : BitVec 32), i.wf = true → encode i = some w → decode w = .ok i) ∧
  ∀ (i : Instr) (v : BitVec 104), encodeTap i = some v → decodeTap v = .ok i

/-- R14, R16, R18: a word decodes to one well-formed instruction, whose encoding it is; words of an opcode outside the
map, and words of PR = 0b01 of a format that has a predicate, are refused. -/
def Obligations.EncodingUndoesDecoding : Prop :=
  (∀ (w : BitVec 32) (i : Instr), decode w = .ok i → i.wf = true ∧ encode i = some w) ∧
  (∀ w : BitVec 32, (w.extractLsb' 24 8).toNat = 0 ∨ 0xB4 ≤ (w.extractLsb' 24 8).toNat → decode w = .error .opcode) ∧
  ∀ (w : BitVec 32) (f : Form), formOf (w.extractLsb' 24 8).toNat = some f → w.extractLsb' 21 2 = 1 →
    (∀ c, f ≠ .rd c) → (∀ c, f ≠ .wr c) → (∀ c, f ≠ .fn c) → decode w = .error .predicate

/-- The words of the worked encodings of chapters 1 to 3. -/
def Obligations.WorkedEncodingsDecode : Prop :=
  decode 0x011409FF = .ok (.rdg ⟨5, 0x004, noTarget⟩) ∧
  decode 0x30018FFF = .ok (.addi ⟨false, .always, 0x018, 0xFFF⟩) ∧
  decode 0x02050000 = .ok (.wrg ⟨.always, 5⟩) ∧
  decode 0x4A01C000 = .ok (.teqi ⟨false, .always, 0x01C, 0⟩) ∧
  decode 0x70400003 = .ok (.br ⟨.onTrue, 0, 3⟩) ∧
  decode 0x70640000 = .ok (.br ⟨.onFalse, 1, 0⟩) ∧
  decode 0x03008060 = .ok (.mov ⟨false, .always, 0x008, 0x00C, 0⟩) ∧
  decode 0x04004012 = .ok (.movi ⟨false, .always, 0x004, 0x012⟩) ∧
  decode 0x05008345 = .ok (.movhi ⟨false, .always, 0x008, 0x345⟩) ∧
  decode 0xB21FF000 = .ok (.halt ⟨.always, noTarget, 0⟩) ∧
  decode 0x841FF001 = .ok (.spush ⟨.always, noTarget, 1⟩) ∧
  decode 0x80014002 = .ok (.cfgl ⟨.always, 0x014, 2⟩)

/-- A step at a planned firing runs the decoded word of the block at that place; one at a planned firing of an element
runs that element's instruction; one at a planned mirror read or message makes that move from the outside; one at a
TAP scan runs the instruction that the scan decodes to. -/
def Obligations.StepRunsTheDecodedInstruction : Prop :=
  ∀ (s : State),
    (∀ q n k rest b w i, s.plan = .thread q n k :: rest → q < 97 → s.blk q n = some b → b.words[k]? = some w →
      decode w = .ok i →
      step s = exec i { s with plan := rest, cur := q, curBlk := n, curIx := k }) ∧
    (∀ r p ch i rest, s.plan = .fire r p ch i :: rest → r < 96 → p < 96 →
      ({ s with plan := rest } : State).elemStep r p i = true →
      step s = exec i { s with plan := rest, site := ⟨r, p⟩, choice := ch }) ∧
    (∀ id rest, s.plan = .mirrorRead id :: rest → step s = .next (({ s with plan := rest } : State).mirrorRead id)) ∧
    (∀ part what v rest, s.plan = .message part what v :: rest →
      step s = .next (({ s with plan := rest } : State).interrupt 0x0004 part what v)) ∧
    (∀ v i, s.plan = [] → s.tap.scan = some v → decodeTap v = .ok i →
      step s = exec i { s with tap := { s.tap with scan := none } })

/-- R109, R119, R160, R173-R175, R367, R368, R378, R400: what the registers read right after reset; no group is
outside the pool, no task is allocated, no partition exists, and memory is in canonical form. -/
def Obligations.ResetLeavesTheStatedValues : Prop :=
  let z := State.reset
  (∀ q < 97, (∀ id ∈ [0x001, 0x002, 0x003, 0x004, 0x005, 0x006, 0x008, 0x010, 0x011, 0x044, 0x045, 0x046],
      z.readReg q id = some 0) ∧
    z.readReg q 0x000 = some (if q = 96 then 0x38 else 0x18) ∧ z.readReg q 0x007 = some 0x10000 ∧
    (∀ k < 16, z.readReg q (0x070 + k) = some 0) ∧ ∀ k < 32, z.readReg q (0x080 + k) = some 0) ∧
  (∀ r < 96, z.readReg r 0x042 = some 0xF4240 ∧ (∀ k < 16, z.readReg r (0x021 + k) = some 0xF000) ∧
    ∀ id ∈ [0x020, 0x050, 0x051, 0x052, 0x060], z.readReg r id = some 0) ∧
  z.readReg 96 0x0CD = some 0xA28 ∧
  (∀ id ∈ [0x0C8, 0x0C9, 0x0CA, 0x0CB, 0x0CE], z.readReg 96 id = some 0) ∧
  (∀ g, z.group g = .pool) ∧ (∀ t, (z.task t).state = .free) ∧ (∀ p, (z.part p).valid = false) ∧
  z.boot.meas = List.replicate 8 (List.replicate 64 0) ∧ memoryWf z

/-- Every step keeps memory in canonical form: addresses strictly rising, nothing listed that an unlisted address
reads as. -/
def Obligations.EveryStepKeepsMemoryCanonical : Prop :=
  ∀ s t : State, memoryWf s → step s = .next t → memoryWf t

/-- R45, R156, R172: the frame of the control thread. An instruction of a block changes its block alone, keeps what the
block's slots hold and what has fired, and does not fire twice; a read, a store, an atomic and an acquire may take back
firings of the sequencer's blocks besides, CFGL and CFGW change context slots and write the fault log, and a CFGL empties
the memory-node entries that it reads; registers, flags, tasks, copy channels, queues and every other sequencer wait for
the commit, and so does memory but for the 32 bytes of the log's next entry. -/
def Obligations.ControlThreadFrame : Prop :=
  (∀ (i : Instr) (s t : State), encode i ≠ none → exec i s = .next t → retakes i = false → loadsConfig i = false →
    t = s ∨ ∃ b', t = s.setBlk s.cur s.curBlk b' ∧ ∀ b, s.blk s.cur s.curBlk = some b →
      b'.words = b.words ∧ b'.addr = b.addr ∧ (∀ k ∈ b.fired, k ∈ b'.fired) ∧
        (∀ k v, b.slots.find? k = some v → b'.slots.find? k = some v)) ∧
  (∀ (i : Instr) (s t : State), encode i ≠ none → exec i s = .next t →
    (loadsConfig i = false → t.mem = s.mem) ∧
    (let x := s.seq s.cur
     let entry := x.flogBase.toNat + 32 * (x.flogW.toNat % 2 ^ (min x.flogSize.toNat 12 + 4))
     ∀ a, (∀ pa, s.logRun s.cur entry = .ok pa → a < pa ∨ pa + 32 ≤ a) → Memory.byte t.mem a = Memory.byte s.mem a) ∧
    ((∀ f, i ≠ .cfgl f) → t.ctxs = s.ctxs) ∧
    (∀ cid, (t.ctxs.find? cid).map (fun c => { c with elems := [] }) =
      (s.ctxs.find? cid).map fun c => { c with elems := [] }) ∧
    t.flags = s.flags ∧ t.tasks = s.tasks ∧ t.chans = s.chans ∧ t.sbufs = s.sbufs ∧ t.svc = s.svc ∧
      (∀ q, (t.seq q).g = (s.seq q).g ∧ (t.seq q).cond = (s.seq q).cond ∧ (t.seq q).tm = (s.seq q).tm ∧
        (t.seq q).cause = (s.seq q).cause ∧ (t.seq q).epc = (s.seq q).epc ∧ (t.seq q).tval = (s.seq q).tval ∧
        (q ≠ s.cur → (t.seq q).blocks = (s.seq q).blocks)) ∧
      ∀ r, (t.region r).armed = (s.region r).armed ∧ (t.region r).ing = (s.region r).ing ∧
        (t.region r).egr = (s.region r).egr ∧ (t.region r).tags = (s.region r).tags) ∧
  ∀ (i : Instr) (s : State) (b : Blk), encode i ≠ none → s.blk s.cur s.curBlk = some b → s.curIx ∈ b.fired →
    (∀ w ∈ b.waits, w.ix ≠ s.curIx) → exec i s = .next s
end

