-- ==== Sys2Proof/Laws/State.lean ====
section
/-! SUPPORT. What each update of a state leaves in each field: nothing but its own field changes. -/

namespace Sys2Proof.Machine

/-! ### State.setSeq -/

@[simp] theorem setSeq_mem (s : State) (q : Nat) (x : Seq) : (s.setSeq q x).mem = s.mem := rfl
@[simp] theorem setSeq_poison (s : State) (q : Nat) (x : Seq) : (s.setSeq q x).poison = s.poison := rfl
@[simp] theorem setSeq_regions (s : State) (q : Nat) (x : Seq) : (s.setSeq q x).regions = s.regions := rfl
@[simp] theorem setSeq_ctxs (s : State) (q : Nat) (x : Seq) : (s.setSeq q x).ctxs = s.ctxs := rfl
@[simp] theorem setSeq_nextCtx (s : State) (q : Nat) (x : Seq) : (s.setSeq q x).nextCtx = s.nextCtx := rfl
@[simp] theorem setSeq_armings (s : State) (q : Nat) (x : Seq) : (s.setSeq q x).armings = s.armings := rfl
@[simp] theorem setSeq_sbufs (s : State) (q : Nat) (x : Seq) : (s.setSeq q x).sbufs = s.sbufs := rfl
@[simp] theorem setSeq_flags (s : State) (q : Nat) (x : Seq) : (s.setSeq q x).flags = s.flags := rfl
@[simp] theorem setSeq_arrivals (s : State) (q : Nat) (x : Seq) : (s.setSeq q x).arrivals = s.arrivals := rfl
@[simp] theorem setSeq_chans (s : State) (q : Nat) (x : Seq) : (s.setSeq q x).chans = s.chans := rfl
@[simp] theorem setSeq_tasks (s : State) (q : Nat) (x : Seq) : (s.setSeq q x).tasks = s.tasks := rfl
@[simp] theorem setSeq_races (s : State) (q : Nat) (x : Seq) : (s.setSeq q x).races = s.races := rfl
@[simp] theorem setSeq_groups (s : State) (q : Nat) (x : Seq) : (s.setSeq q x).groups = s.groups := rfl
@[simp] theorem setSeq_parts (s : State) (q : Nat) (x : Seq) : (s.setSeq q x).parts = s.parts := rfl
@[simp] theorem setSeq_svc (s : State) (q : Nat) (x : Seq) : (s.setSeq q x).svc = s.svc := rfl
@[simp] theorem setSeq_coll (s : State) (q : Nat) (x : Seq) : (s.setSeq q x).coll = s.coll := rfl
@[simp] theorem setSeq_energy (s : State) (q : Nat) (x : Seq) : (s.setSeq q x).energy = s.energy := rfl
@[simp] theorem setSeq_energySat (s : State) (q : Nat) (x : Seq) : (s.setSeq q x).energySat = s.energySat := rfl
@[simp] theorem setSeq_errors (s : State) (q : Nat) (x : Seq) : (s.setSeq q x).errors = s.errors := rfl
@[simp] theorem setSeq_errorWindow (s : State) (q : Nat) (x : Seq) : (s.setSeq q x).errorWindow = s.errorWindow := rfl
@[simp] theorem setSeq_lasting (s : State) (q : Nat) (x : Seq) : (s.setSeq q x).lasting = s.lasting := rfl
@[simp] theorem setSeq_pageFaults (s : State) (q : Nat) (x : Seq) : (s.setSeq q x).pageFaults = s.pageFaults := rfl
@[simp] theorem setSeq_written (s : State) (q : Nat) (x : Seq) : (s.setSeq q x).written = s.written := rfl
@[simp] theorem setSeq_served (s : State) (q : Nat) (x : Seq) : (s.setSeq q x).served = s.served := rfl
@[simp] theorem setSeq_roused (s : State) (q : Nat) (x : Seq) : (s.setSeq q x).roused = s.roused := rfl
@[simp] theorem setSeq_irqs (s : State) (q : Nat) (x : Seq) : (s.setSeq q x).irqs = s.irqs := rfl
@[simp] theorem setSeq_replies (s : State) (q : Nat) (x : Seq) : (s.setSeq q x).replies = s.replies := rfl
@[simp] theorem setSeq_peers (s : State) (q : Nat) (x : Seq) : (s.setSeq q x).peers = s.peers := rfl
@[simp] theorem setSeq_boot (s : State) (q : Nat) (x : Seq) : (s.setSeq q x).boot = s.boot := rfl
@[simp] theorem setSeq_tap (s : State) (q : Nat) (x : Seq) : (s.setSeq q x).tap = s.tap := rfl
@[simp] theorem setSeq_now (s : State) (q : Nat) (x : Seq) : (s.setSeq q x).now = s.now := rfl
@[simp] theorem setSeq_plan (s : State) (q : Nat) (x : Seq) : (s.setSeq q x).plan = s.plan := rfl
@[simp] theorem setSeq_turn (s : State) (q : Nat) (x : Seq) : (s.setSeq q x).turn = s.turn := rfl
@[simp] theorem setSeq_cur (s : State) (q : Nat) (x : Seq) : (s.setSeq q x).cur = s.cur := rfl
@[simp] theorem setSeq_curBlk (s : State) (q : Nat) (x : Seq) : (s.setSeq q x).curBlk = s.curBlk := rfl
@[simp] theorem setSeq_curIx (s : State) (q : Nat) (x : Seq) : (s.setSeq q x).curIx = s.curIx := rfl
@[simp] theorem setSeq_site (s : State) (q : Nat) (x : Seq) : (s.setSeq q x).site = s.site := rfl
@[simp] theorem setSeq_choice (s : State) (q : Nat) (x : Seq) : (s.setSeq q x).choice = s.choice := rfl
@[simp] theorem setSeq_free (s : State) (q : Nat) (x : Seq) : (s.setSeq q x).free = s.free := rfl

/-! ### State.updSeq -/

@[simp] theorem updSeq_mem (s : State) (q : Nat) (f : Seq → Seq) : (s.updSeq q f).mem = s.mem := rfl
@[simp] theorem updSeq_poison (s : State) (q : Nat) (f : Seq → Seq) : (s.updSeq q f).poison = s.poison := rfl
@[simp] theorem updSeq_regions (s : State) (q : Nat) (f : Seq → Seq) : (s.updSeq q f).regions = s.regions := rfl
@[simp] theorem updSeq_ctxs (s : State) (q : Nat) (f : Seq → Seq) : (s.updSeq q f).ctxs = s.ctxs := rfl
@[simp] theorem updSeq_nextCtx (s : State) (q : Nat) (f : Seq → Seq) : (s.updSeq q f).nextCtx = s.nextCtx := rfl
@[simp] theorem updSeq_armings (s : State) (q : Nat) (f : Seq → Seq) : (s.updSeq q f).armings = s.armings := rfl
@[simp] theorem updSeq_sbufs (s : State) (q : Nat) (f : Seq → Seq) : (s.updSeq q f).sbufs = s.sbufs := rfl
@[simp] theorem updSeq_flags (s : State) (q : Nat) (f : Seq → Seq) : (s.updSeq q f).flags = s.flags := rfl
@[simp] theorem updSeq_arrivals (s : State) (q : Nat) (f : Seq → Seq) : (s.updSeq q f).arrivals = s.arrivals := rfl
@[simp] theorem updSeq_chans (s : State) (q : Nat) (f : Seq → Seq) : (s.updSeq q f).chans = s.chans := rfl
@[simp] theorem updSeq_tasks (s : State) (q : Nat) (f : Seq → Seq) : (s.updSeq q f).tasks = s.tasks := rfl
@[simp] theorem updSeq_races (s : State) (q : Nat) (f : Seq → Seq) : (s.updSeq q f).races = s.races := rfl
@[simp] theorem updSeq_groups (s : State) (q : Nat) (f : Seq → Seq) : (s.updSeq q f).groups = s.groups := rfl
@[simp] theorem updSeq_parts (s : State) (q : Nat) (f : Seq → Seq) : (s.updSeq q f).parts = s.parts := rfl
@[simp] theorem updSeq_svc (s : State) (q : Nat) (f : Seq → Seq) : (s.updSeq q f).svc = s.svc := rfl
@[simp] theorem updSeq_coll (s : State) (q : Nat) (f : Seq → Seq) : (s.updSeq q f).coll = s.coll := rfl
@[simp] theorem updSeq_energy (s : State) (q : Nat) (f : Seq → Seq) : (s.updSeq q f).energy = s.energy := rfl
@[simp] theorem updSeq_energySat (s : State) (q : Nat) (f : Seq → Seq) : (s.updSeq q f).energySat = s.energySat := rfl
@[simp] theorem updSeq_errors (s : State) (q : Nat) (f : Seq → Seq) : (s.updSeq q f).errors = s.errors := rfl
@[simp] theorem updSeq_errorWindow (s : State) (q : Nat) (f : Seq → Seq) : (s.updSeq q f).errorWindow = s.errorWindow := rfl
@[simp] theorem updSeq_lasting (s : State) (q : Nat) (f : Seq → Seq) : (s.updSeq q f).lasting = s.lasting := rfl
@[simp] theorem updSeq_pageFaults (s : State) (q : Nat) (f : Seq → Seq) : (s.updSeq q f).pageFaults = s.pageFaults := rfl
@[simp] theorem updSeq_written (s : State) (q : Nat) (f : Seq → Seq) : (s.updSeq q f).written = s.written := rfl
@[simp] theorem updSeq_served (s : State) (q : Nat) (f : Seq → Seq) : (s.updSeq q f).served = s.served := rfl
@[simp] theorem updSeq_roused (s : State) (q : Nat) (f : Seq → Seq) : (s.updSeq q f).roused = s.roused := rfl
@[simp] theorem updSeq_irqs (s : State) (q : Nat) (f : Seq → Seq) : (s.updSeq q f).irqs = s.irqs := rfl
@[simp] theorem updSeq_replies (s : State) (q : Nat) (f : Seq → Seq) : (s.updSeq q f).replies = s.replies := rfl
@[simp] theorem updSeq_peers (s : State) (q : Nat) (f : Seq → Seq) : (s.updSeq q f).peers = s.peers := rfl
@[simp] theorem updSeq_boot (s : State) (q : Nat) (f : Seq → Seq) : (s.updSeq q f).boot = s.boot := rfl
@[simp] theorem updSeq_tap (s : State) (q : Nat) (f : Seq → Seq) : (s.updSeq q f).tap = s.tap := rfl
@[simp] theorem updSeq_now (s : State) (q : Nat) (f : Seq → Seq) : (s.updSeq q f).now = s.now := rfl
@[simp] theorem updSeq_plan (s : State) (q : Nat) (f : Seq → Seq) : (s.updSeq q f).plan = s.plan := rfl
@[simp] theorem updSeq_turn (s : State) (q : Nat) (f : Seq → Seq) : (s.updSeq q f).turn = s.turn := rfl
@[simp] theorem updSeq_cur (s : State) (q : Nat) (f : Seq → Seq) : (s.updSeq q f).cur = s.cur := rfl
@[simp] theorem updSeq_curBlk (s : State) (q : Nat) (f : Seq → Seq) : (s.updSeq q f).curBlk = s.curBlk := rfl
@[simp] theorem updSeq_curIx (s : State) (q : Nat) (f : Seq → Seq) : (s.updSeq q f).curIx = s.curIx := rfl
@[simp] theorem updSeq_site (s : State) (q : Nat) (f : Seq → Seq) : (s.updSeq q f).site = s.site := rfl
@[simp] theorem updSeq_choice (s : State) (q : Nat) (f : Seq → Seq) : (s.updSeq q f).choice = s.choice := rfl
@[simp] theorem updSeq_free (s : State) (q : Nat) (f : Seq → Seq) : (s.updSeq q f).free = s.free := rfl

/-! ### State.setBlk -/

@[simp] theorem setBlk_mem (s : State) (q n : Nat) (b : Blk) : (s.setBlk q n b).mem = s.mem := rfl
@[simp] theorem setBlk_poison (s : State) (q n : Nat) (b : Blk) : (s.setBlk q n b).poison = s.poison := rfl
@[simp] theorem setBlk_regions (s : State) (q n : Nat) (b : Blk) : (s.setBlk q n b).regions = s.regions := rfl
@[simp] theorem setBlk_ctxs (s : State) (q n : Nat) (b : Blk) : (s.setBlk q n b).ctxs = s.ctxs := rfl
@[simp] theorem setBlk_nextCtx (s : State) (q n : Nat) (b : Blk) : (s.setBlk q n b).nextCtx = s.nextCtx := rfl
@[simp] theorem setBlk_armings (s : State) (q n : Nat) (b : Blk) : (s.setBlk q n b).armings = s.armings := rfl
@[simp] theorem setBlk_sbufs (s : State) (q n : Nat) (b : Blk) : (s.setBlk q n b).sbufs = s.sbufs := rfl
@[simp] theorem setBlk_flags (s : State) (q n : Nat) (b : Blk) : (s.setBlk q n b).flags = s.flags := rfl
@[simp] theorem setBlk_arrivals (s : State) (q n : Nat) (b : Blk) : (s.setBlk q n b).arrivals = s.arrivals := rfl
@[simp] theorem setBlk_chans (s : State) (q n : Nat) (b : Blk) : (s.setBlk q n b).chans = s.chans := rfl
@[simp] theorem setBlk_tasks (s : State) (q n : Nat) (b : Blk) : (s.setBlk q n b).tasks = s.tasks := rfl
@[simp] theorem setBlk_races (s : State) (q n : Nat) (b : Blk) : (s.setBlk q n b).races = s.races := rfl
@[simp] theorem setBlk_groups (s : State) (q n : Nat) (b : Blk) : (s.setBlk q n b).groups = s.groups := rfl
@[simp] theorem setBlk_parts (s : State) (q n : Nat) (b : Blk) : (s.setBlk q n b).parts = s.parts := rfl
@[simp] theorem setBlk_svc (s : State) (q n : Nat) (b : Blk) : (s.setBlk q n b).svc = s.svc := rfl
@[simp] theorem setBlk_coll (s : State) (q n : Nat) (b : Blk) : (s.setBlk q n b).coll = s.coll := rfl
@[simp] theorem setBlk_energy (s : State) (q n : Nat) (b : Blk) : (s.setBlk q n b).energy = s.energy := rfl
@[simp] theorem setBlk_energySat (s : State) (q n : Nat) (b : Blk) : (s.setBlk q n b).energySat = s.energySat := rfl
@[simp] theorem setBlk_errors (s : State) (q n : Nat) (b : Blk) : (s.setBlk q n b).errors = s.errors := rfl
@[simp] theorem setBlk_errorWindow (s : State) (q n : Nat) (b : Blk) : (s.setBlk q n b).errorWindow = s.errorWindow := rfl
@[simp] theorem setBlk_lasting (s : State) (q n : Nat) (b : Blk) : (s.setBlk q n b).lasting = s.lasting := rfl
@[simp] theorem setBlk_pageFaults (s : State) (q n : Nat) (b : Blk) : (s.setBlk q n b).pageFaults = s.pageFaults := rfl
@[simp] theorem setBlk_written (s : State) (q n : Nat) (b : Blk) : (s.setBlk q n b).written = s.written := rfl
@[simp] theorem setBlk_served (s : State) (q n : Nat) (b : Blk) : (s.setBlk q n b).served = s.served := rfl
@[simp] theorem setBlk_roused (s : State) (q n : Nat) (b : Blk) : (s.setBlk q n b).roused = s.roused := rfl
@[simp] theorem setBlk_irqs (s : State) (q n : Nat) (b : Blk) : (s.setBlk q n b).irqs = s.irqs := rfl
@[simp] theorem setBlk_replies (s : State) (q n : Nat) (b : Blk) : (s.setBlk q n b).replies = s.replies := rfl
@[simp] theorem setBlk_peers (s : State) (q n : Nat) (b : Blk) : (s.setBlk q n b).peers = s.peers := rfl
@[simp] theorem setBlk_boot (s : State) (q n : Nat) (b : Blk) : (s.setBlk q n b).boot = s.boot := rfl
@[simp] theorem setBlk_tap (s : State) (q n : Nat) (b : Blk) : (s.setBlk q n b).tap = s.tap := rfl
@[simp] theorem setBlk_now (s : State) (q n : Nat) (b : Blk) : (s.setBlk q n b).now = s.now := rfl
@[simp] theorem setBlk_plan (s : State) (q n : Nat) (b : Blk) : (s.setBlk q n b).plan = s.plan := rfl
@[simp] theorem setBlk_turn (s : State) (q n : Nat) (b : Blk) : (s.setBlk q n b).turn = s.turn := rfl
@[simp] theorem setBlk_cur (s : State) (q n : Nat) (b : Blk) : (s.setBlk q n b).cur = s.cur := rfl
@[simp] theorem setBlk_curBlk (s : State) (q n : Nat) (b : Blk) : (s.setBlk q n b).curBlk = s.curBlk := rfl
@[simp] theorem setBlk_curIx (s : State) (q n : Nat) (b : Blk) : (s.setBlk q n b).curIx = s.curIx := rfl
@[simp] theorem setBlk_site (s : State) (q n : Nat) (b : Blk) : (s.setBlk q n b).site = s.site := rfl
@[simp] theorem setBlk_choice (s : State) (q n : Nat) (b : Blk) : (s.setBlk q n b).choice = s.choice := rfl
@[simp] theorem setBlk_free (s : State) (q n : Nat) (b : Blk) : (s.setBlk q n b).free = s.free := rfl

/-! ### State.setRegion -/

@[simp] theorem setRegion_mem (s : State) (r : Nat) (x : Region) : (s.setRegion r x).mem = s.mem := rfl
@[simp] theorem setRegion_poison (s : State) (r : Nat) (x : Region) : (s.setRegion r x).poison = s.poison := rfl
@[simp] theorem setRegion_seqs (s : State) (r : Nat) (x : Region) : (s.setRegion r x).seqs = s.seqs := rfl
@[simp] theorem setRegion_ctxs (s : State) (r : Nat) (x : Region) : (s.setRegion r x).ctxs = s.ctxs := rfl
@[simp] theorem setRegion_nextCtx (s : State) (r : Nat) (x : Region) : (s.setRegion r x).nextCtx = s.nextCtx := rfl
@[simp] theorem setRegion_armings (s : State) (r : Nat) (x : Region) : (s.setRegion r x).armings = s.armings := rfl
@[simp] theorem setRegion_sbufs (s : State) (r : Nat) (x : Region) : (s.setRegion r x).sbufs = s.sbufs := rfl
@[simp] theorem setRegion_flags (s : State) (r : Nat) (x : Region) : (s.setRegion r x).flags = s.flags := rfl
@[simp] theorem setRegion_arrivals (s : State) (r : Nat) (x : Region) : (s.setRegion r x).arrivals = s.arrivals := rfl
@[simp] theorem setRegion_chans (s : State) (r : Nat) (x : Region) : (s.setRegion r x).chans = s.chans := rfl
@[simp] theorem setRegion_tasks (s : State) (r : Nat) (x : Region) : (s.setRegion r x).tasks = s.tasks := rfl
@[simp] theorem setRegion_races (s : State) (r : Nat) (x : Region) : (s.setRegion r x).races = s.races := rfl
@[simp] theorem setRegion_groups (s : State) (r : Nat) (x : Region) : (s.setRegion r x).groups = s.groups := rfl
@[simp] theorem setRegion_parts (s : State) (r : Nat) (x : Region) : (s.setRegion r x).parts = s.parts := rfl
@[simp] theorem setRegion_svc (s : State) (r : Nat) (x : Region) : (s.setRegion r x).svc = s.svc := rfl
@[simp] theorem setRegion_coll (s : State) (r : Nat) (x : Region) : (s.setRegion r x).coll = s.coll := rfl
@[simp] theorem setRegion_energy (s : State) (r : Nat) (x : Region) : (s.setRegion r x).energy = s.energy := rfl
@[simp] theorem setRegion_energySat (s : State) (r : Nat) (x : Region) : (s.setRegion r x).energySat = s.energySat := rfl
@[simp] theorem setRegion_errors (s : State) (r : Nat) (x : Region) : (s.setRegion r x).errors = s.errors := rfl
@[simp] theorem setRegion_errorWindow (s : State) (r : Nat) (x : Region) : (s.setRegion r x).errorWindow = s.errorWindow := rfl
@[simp] theorem setRegion_lasting (s : State) (r : Nat) (x : Region) : (s.setRegion r x).lasting = s.lasting := rfl
@[simp] theorem setRegion_pageFaults (s : State) (r : Nat) (x : Region) : (s.setRegion r x).pageFaults = s.pageFaults := rfl
@[simp] theorem setRegion_written (s : State) (r : Nat) (x : Region) : (s.setRegion r x).written = s.written := rfl
@[simp] theorem setRegion_served (s : State) (r : Nat) (x : Region) : (s.setRegion r x).served = s.served := rfl
@[simp] theorem setRegion_roused (s : State) (r : Nat) (x : Region) : (s.setRegion r x).roused = s.roused := rfl
@[simp] theorem setRegion_irqs (s : State) (r : Nat) (x : Region) : (s.setRegion r x).irqs = s.irqs := rfl
@[simp] theorem setRegion_replies (s : State) (r : Nat) (x : Region) : (s.setRegion r x).replies = s.replies := rfl
@[simp] theorem setRegion_peers (s : State) (r : Nat) (x : Region) : (s.setRegion r x).peers = s.peers := rfl
@[simp] theorem setRegion_boot (s : State) (r : Nat) (x : Region) : (s.setRegion r x).boot = s.boot := rfl
@[simp] theorem setRegion_tap (s : State) (r : Nat) (x : Region) : (s.setRegion r x).tap = s.tap := rfl
@[simp] theorem setRegion_now (s : State) (r : Nat) (x : Region) : (s.setRegion r x).now = s.now := rfl
@[simp] theorem setRegion_plan (s : State) (r : Nat) (x : Region) : (s.setRegion r x).plan = s.plan := rfl
@[simp] theorem setRegion_turn (s : State) (r : Nat) (x : Region) : (s.setRegion r x).turn = s.turn := rfl
@[simp] theorem setRegion_cur (s : State) (r : Nat) (x : Region) : (s.setRegion r x).cur = s.cur := rfl
@[simp] theorem setRegion_curBlk (s : State) (r : Nat) (x : Region) : (s.setRegion r x).curBlk = s.curBlk := rfl
@[simp] theorem setRegion_curIx (s : State) (r : Nat) (x : Region) : (s.setRegion r x).curIx = s.curIx := rfl
@[simp] theorem setRegion_site (s : State) (r : Nat) (x : Region) : (s.setRegion r x).site = s.site := rfl
@[simp] theorem setRegion_choice (s : State) (r : Nat) (x : Region) : (s.setRegion r x).choice = s.choice := rfl
@[simp] theorem setRegion_free (s : State) (r : Nat) (x : Region) : (s.setRegion r x).free = s.free := rfl

/-! ### State.updRegion -/

@[simp] theorem updRegion_mem (s : State) (r : Nat) (f : Region → Region) : (s.updRegion r f).mem = s.mem := rfl
@[simp] theorem updRegion_poison (s : State) (r : Nat) (f : Region → Region) : (s.updRegion r f).poison = s.poison := rfl
@[simp] theorem updRegion_seqs (s : State) (r : Nat) (f : Region → Region) : (s.updRegion r f).seqs = s.seqs := rfl
@[simp] theorem updRegion_ctxs (s : State) (r : Nat) (f : Region → Region) : (s.updRegion r f).ctxs = s.ctxs := rfl
@[simp] theorem updRegion_nextCtx (s : State) (r : Nat) (f : Region → Region) : (s.updRegion r f).nextCtx = s.nextCtx := rfl
@[simp] theorem updRegion_armings (s : State) (r : Nat) (f : Region → Region) : (s.updRegion r f).armings = s.armings := rfl
@[simp] theorem updRegion_sbufs (s : State) (r : Nat) (f : Region → Region) : (s.updRegion r f).sbufs = s.sbufs := rfl
@[simp] theorem updRegion_flags (s : State) (r : Nat) (f : Region → Region) : (s.updRegion r f).flags = s.flags := rfl
@[simp] theorem updRegion_arrivals (s : State) (r : Nat) (f : Region → Region) : (s.updRegion r f).arrivals = s.arrivals := rfl
@[simp] theorem updRegion_chans (s : State) (r : Nat) (f : Region → Region) : (s.updRegion r f).chans = s.chans := rfl
@[simp] theorem updRegion_tasks (s : State) (r : Nat) (f : Region → Region) : (s.updRegion r f).tasks = s.tasks := rfl
@[simp] theorem updRegion_races (s : State) (r : Nat) (f : Region → Region) : (s.updRegion r f).races = s.races := rfl
@[simp] theorem updRegion_groups (s : State) (r : Nat) (f : Region → Region) : (s.updRegion r f).groups = s.groups := rfl
@[simp] theorem updRegion_parts (s : State) (r : Nat) (f : Region → Region) : (s.updRegion r f).parts = s.parts := rfl
@[simp] theorem updRegion_svc (s : State) (r : Nat) (f : Region → Region) : (s.updRegion r f).svc = s.svc := rfl
@[simp] theorem updRegion_coll (s : State) (r : Nat) (f : Region → Region) : (s.updRegion r f).coll = s.coll := rfl
@[simp] theorem updRegion_energy (s : State) (r : Nat) (f : Region → Region) : (s.updRegion r f).energy = s.energy := rfl
@[simp] theorem updRegion_energySat (s : State) (r : Nat) (f : Region → Region) : (s.updRegion r f).energySat = s.energySat := rfl
@[simp] theorem updRegion_errors (s : State) (r : Nat) (f : Region → Region) : (s.updRegion r f).errors = s.errors := rfl
@[simp] theorem updRegion_errorWindow (s : State) (r : Nat) (f : Region → Region) : (s.updRegion r f).errorWindow = s.errorWindow := rfl
@[simp] theorem updRegion_lasting (s : State) (r : Nat) (f : Region → Region) : (s.updRegion r f).lasting = s.lasting := rfl
@[simp] theorem updRegion_pageFaults (s : State) (r : Nat) (f : Region → Region) : (s.updRegion r f).pageFaults = s.pageFaults := rfl
@[simp] theorem updRegion_written (s : State) (r : Nat) (f : Region → Region) : (s.updRegion r f).written = s.written := rfl
@[simp] theorem updRegion_served (s : State) (r : Nat) (f : Region → Region) : (s.updRegion r f).served = s.served := rfl
@[simp] theorem updRegion_roused (s : State) (r : Nat) (f : Region → Region) : (s.updRegion r f).roused = s.roused := rfl
@[simp] theorem updRegion_irqs (s : State) (r : Nat) (f : Region → Region) : (s.updRegion r f).irqs = s.irqs := rfl
@[simp] theorem updRegion_replies (s : State) (r : Nat) (f : Region → Region) : (s.updRegion r f).replies = s.replies := rfl
@[simp] theorem updRegion_peers (s : State) (r : Nat) (f : Region → Region) : (s.updRegion r f).peers = s.peers := rfl
@[simp] theorem updRegion_boot (s : State) (r : Nat) (f : Region → Region) : (s.updRegion r f).boot = s.boot := rfl
@[simp] theorem updRegion_tap (s : State) (r : Nat) (f : Region → Region) : (s.updRegion r f).tap = s.tap := rfl
@[simp] theorem updRegion_now (s : State) (r : Nat) (f : Region → Region) : (s.updRegion r f).now = s.now := rfl
@[simp] theorem updRegion_plan (s : State) (r : Nat) (f : Region → Region) : (s.updRegion r f).plan = s.plan := rfl
@[simp] theorem updRegion_turn (s : State) (r : Nat) (f : Region → Region) : (s.updRegion r f).turn = s.turn := rfl
@[simp] theorem updRegion_cur (s : State) (r : Nat) (f : Region → Region) : (s.updRegion r f).cur = s.cur := rfl
@[simp] theorem updRegion_curBlk (s : State) (r : Nat) (f : Region → Region) : (s.updRegion r f).curBlk = s.curBlk := rfl
@[simp] theorem updRegion_curIx (s : State) (r : Nat) (f : Region → Region) : (s.updRegion r f).curIx = s.curIx := rfl
@[simp] theorem updRegion_site (s : State) (r : Nat) (f : Region → Region) : (s.updRegion r f).site = s.site := rfl
@[simp] theorem updRegion_choice (s : State) (r : Nat) (f : Region → Region) : (s.updRegion r f).choice = s.choice := rfl
@[simp] theorem updRegion_free (s : State) (r : Nat) (f : Region → Region) : (s.updRegion r f).free = s.free := rfl

/-! ### State.setChan -/

@[simp] theorem setChan_mem (s : State) (k : Nat) (x : Chan) : (s.setChan k x).mem = s.mem := rfl
@[simp] theorem setChan_poison (s : State) (k : Nat) (x : Chan) : (s.setChan k x).poison = s.poison := rfl
@[simp] theorem setChan_seqs (s : State) (k : Nat) (x : Chan) : (s.setChan k x).seqs = s.seqs := rfl
@[simp] theorem setChan_regions (s : State) (k : Nat) (x : Chan) : (s.setChan k x).regions = s.regions := rfl
@[simp] theorem setChan_ctxs (s : State) (k : Nat) (x : Chan) : (s.setChan k x).ctxs = s.ctxs := rfl
@[simp] theorem setChan_nextCtx (s : State) (k : Nat) (x : Chan) : (s.setChan k x).nextCtx = s.nextCtx := rfl
@[simp] theorem setChan_armings (s : State) (k : Nat) (x : Chan) : (s.setChan k x).armings = s.armings := rfl
@[simp] theorem setChan_sbufs (s : State) (k : Nat) (x : Chan) : (s.setChan k x).sbufs = s.sbufs := rfl
@[simp] theorem setChan_flags (s : State) (k : Nat) (x : Chan) : (s.setChan k x).flags = s.flags := rfl
@[simp] theorem setChan_arrivals (s : State) (k : Nat) (x : Chan) : (s.setChan k x).arrivals = s.arrivals := rfl
@[simp] theorem setChan_tasks (s : State) (k : Nat) (x : Chan) : (s.setChan k x).tasks = s.tasks := rfl
@[simp] theorem setChan_races (s : State) (k : Nat) (x : Chan) : (s.setChan k x).races = s.races := rfl
@[simp] theorem setChan_groups (s : State) (k : Nat) (x : Chan) : (s.setChan k x).groups = s.groups := rfl
@[simp] theorem setChan_parts (s : State) (k : Nat) (x : Chan) : (s.setChan k x).parts = s.parts := rfl
@[simp] theorem setChan_svc (s : State) (k : Nat) (x : Chan) : (s.setChan k x).svc = s.svc := rfl
@[simp] theorem setChan_coll (s : State) (k : Nat) (x : Chan) : (s.setChan k x).coll = s.coll := rfl
@[simp] theorem setChan_energy (s : State) (k : Nat) (x : Chan) : (s.setChan k x).energy = s.energy := rfl
@[simp] theorem setChan_energySat (s : State) (k : Nat) (x : Chan) : (s.setChan k x).energySat = s.energySat := rfl
@[simp] theorem setChan_errors (s : State) (k : Nat) (x : Chan) : (s.setChan k x).errors = s.errors := rfl
@[simp] theorem setChan_errorWindow (s : State) (k : Nat) (x : Chan) : (s.setChan k x).errorWindow = s.errorWindow := rfl
@[simp] theorem setChan_lasting (s : State) (k : Nat) (x : Chan) : (s.setChan k x).lasting = s.lasting := rfl
@[simp] theorem setChan_pageFaults (s : State) (k : Nat) (x : Chan) : (s.setChan k x).pageFaults = s.pageFaults := rfl
@[simp] theorem setChan_written (s : State) (k : Nat) (x : Chan) : (s.setChan k x).written = s.written := rfl
@[simp] theorem setChan_served (s : State) (k : Nat) (x : Chan) : (s.setChan k x).served = s.served := rfl
@[simp] theorem setChan_roused (s : State) (k : Nat) (x : Chan) : (s.setChan k x).roused = s.roused := rfl
@[simp] theorem setChan_irqs (s : State) (k : Nat) (x : Chan) : (s.setChan k x).irqs = s.irqs := rfl
@[simp] theorem setChan_replies (s : State) (k : Nat) (x : Chan) : (s.setChan k x).replies = s.replies := rfl
@[simp] theorem setChan_peers (s : State) (k : Nat) (x : Chan) : (s.setChan k x).peers = s.peers := rfl
@[simp] theorem setChan_boot (s : State) (k : Nat) (x : Chan) : (s.setChan k x).boot = s.boot := rfl
@[simp] theorem setChan_tap (s : State) (k : Nat) (x : Chan) : (s.setChan k x).tap = s.tap := rfl
@[simp] theorem setChan_now (s : State) (k : Nat) (x : Chan) : (s.setChan k x).now = s.now := rfl
@[simp] theorem setChan_plan (s : State) (k : Nat) (x : Chan) : (s.setChan k x).plan = s.plan := rfl
@[simp] theorem setChan_turn (s : State) (k : Nat) (x : Chan) : (s.setChan k x).turn = s.turn := rfl
@[simp] theorem setChan_cur (s : State) (k : Nat) (x : Chan) : (s.setChan k x).cur = s.cur := rfl
@[simp] theorem setChan_curBlk (s : State) (k : Nat) (x : Chan) : (s.setChan k x).curBlk = s.curBlk := rfl
@[simp] theorem setChan_curIx (s : State) (k : Nat) (x : Chan) : (s.setChan k x).curIx = s.curIx := rfl
@[simp] theorem setChan_site (s : State) (k : Nat) (x : Chan) : (s.setChan k x).site = s.site := rfl
@[simp] theorem setChan_choice (s : State) (k : Nat) (x : Chan) : (s.setChan k x).choice = s.choice := rfl
@[simp] theorem setChan_free (s : State) (k : Nat) (x : Chan) : (s.setChan k x).free = s.free := rfl

/-! ### State.updChan -/

@[simp] theorem updChan_mem (s : State) (k : Nat) (f : Chan → Chan) : (s.updChan k f).mem = s.mem := rfl
@[simp] theorem updChan_poison (s : State) (k : Nat) (f : Chan → Chan) : (s.updChan k f).poison = s.poison := rfl
@[simp] theorem updChan_seqs (s : State) (k : Nat) (f : Chan → Chan) : (s.updChan k f).seqs = s.seqs := rfl
@[simp] theorem updChan_regions (s : State) (k : Nat) (f : Chan → Chan) : (s.updChan k f).regions = s.regions := rfl
@[simp] theorem updChan_ctxs (s : State) (k : Nat) (f : Chan → Chan) : (s.updChan k f).ctxs = s.ctxs := rfl
@[simp] theorem updChan_nextCtx (s : State) (k : Nat) (f : Chan → Chan) : (s.updChan k f).nextCtx = s.nextCtx := rfl
@[simp] theorem updChan_armings (s : State) (k : Nat) (f : Chan → Chan) : (s.updChan k f).armings = s.armings := rfl
@[simp] theorem updChan_sbufs (s : State) (k : Nat) (f : Chan → Chan) : (s.updChan k f).sbufs = s.sbufs := rfl
@[simp] theorem updChan_flags (s : State) (k : Nat) (f : Chan → Chan) : (s.updChan k f).flags = s.flags := rfl
@[simp] theorem updChan_arrivals (s : State) (k : Nat) (f : Chan → Chan) : (s.updChan k f).arrivals = s.arrivals := rfl
@[simp] theorem updChan_tasks (s : State) (k : Nat) (f : Chan → Chan) : (s.updChan k f).tasks = s.tasks := rfl
@[simp] theorem updChan_races (s : State) (k : Nat) (f : Chan → Chan) : (s.updChan k f).races = s.races := rfl
@[simp] theorem updChan_groups (s : State) (k : Nat) (f : Chan → Chan) : (s.updChan k f).groups = s.groups := rfl
@[simp] theorem updChan_parts (s : State) (k : Nat) (f : Chan → Chan) : (s.updChan k f).parts = s.parts := rfl
@[simp] theorem updChan_svc (s : State) (k : Nat) (f : Chan → Chan) : (s.updChan k f).svc = s.svc := rfl
@[simp] theorem updChan_coll (s : State) (k : Nat) (f : Chan → Chan) : (s.updChan k f).coll = s.coll := rfl
@[simp] theorem updChan_energy (s : State) (k : Nat) (f : Chan → Chan) : (s.updChan k f).energy = s.energy := rfl
@[simp] theorem updChan_energySat (s : State) (k : Nat) (f : Chan → Chan) : (s.updChan k f).energySat = s.energySat := rfl
@[simp] theorem updChan_errors (s : State) (k : Nat) (f : Chan → Chan) : (s.updChan k f).errors = s.errors := rfl
@[simp] theorem updChan_errorWindow (s : State) (k : Nat) (f : Chan → Chan) : (s.updChan k f).errorWindow = s.errorWindow := rfl
@[simp] theorem updChan_lasting (s : State) (k : Nat) (f : Chan → Chan) : (s.updChan k f).lasting = s.lasting := rfl
@[simp] theorem updChan_pageFaults (s : State) (k : Nat) (f : Chan → Chan) : (s.updChan k f).pageFaults = s.pageFaults := rfl
@[simp] theorem updChan_written (s : State) (k : Nat) (f : Chan → Chan) : (s.updChan k f).written = s.written := rfl
@[simp] theorem updChan_served (s : State) (k : Nat) (f : Chan → Chan) : (s.updChan k f).served = s.served := rfl
@[simp] theorem updChan_roused (s : State) (k : Nat) (f : Chan → Chan) : (s.updChan k f).roused = s.roused := rfl
@[simp] theorem updChan_irqs (s : State) (k : Nat) (f : Chan → Chan) : (s.updChan k f).irqs = s.irqs := rfl
@[simp] theorem updChan_replies (s : State) (k : Nat) (f : Chan → Chan) : (s.updChan k f).replies = s.replies := rfl
@[simp] theorem updChan_peers (s : State) (k : Nat) (f : Chan → Chan) : (s.updChan k f).peers = s.peers := rfl
@[simp] theorem updChan_boot (s : State) (k : Nat) (f : Chan → Chan) : (s.updChan k f).boot = s.boot := rfl
@[simp] theorem updChan_tap (s : State) (k : Nat) (f : Chan → Chan) : (s.updChan k f).tap = s.tap := rfl
@[simp] theorem updChan_now (s : State) (k : Nat) (f : Chan → Chan) : (s.updChan k f).now = s.now := rfl
@[simp] theorem updChan_plan (s : State) (k : Nat) (f : Chan → Chan) : (s.updChan k f).plan = s.plan := rfl
@[simp] theorem updChan_turn (s : State) (k : Nat) (f : Chan → Chan) : (s.updChan k f).turn = s.turn := rfl
@[simp] theorem updChan_cur (s : State) (k : Nat) (f : Chan → Chan) : (s.updChan k f).cur = s.cur := rfl
@[simp] theorem updChan_curBlk (s : State) (k : Nat) (f : Chan → Chan) : (s.updChan k f).curBlk = s.curBlk := rfl
@[simp] theorem updChan_curIx (s : State) (k : Nat) (f : Chan → Chan) : (s.updChan k f).curIx = s.curIx := rfl
@[simp] theorem updChan_site (s : State) (k : Nat) (f : Chan → Chan) : (s.updChan k f).site = s.site := rfl
@[simp] theorem updChan_choice (s : State) (k : Nat) (f : Chan → Chan) : (s.updChan k f).choice = s.choice := rfl
@[simp] theorem updChan_free (s : State) (k : Nat) (f : Chan → Chan) : (s.updChan k f).free = s.free := rfl

/-! ### State.setTask -/

@[simp] theorem setTask_mem (s : State) (k : Nat) (x : Task) : (s.setTask k x).mem = s.mem := rfl
@[simp] theorem setTask_poison (s : State) (k : Nat) (x : Task) : (s.setTask k x).poison = s.poison := rfl
@[simp] theorem setTask_seqs (s : State) (k : Nat) (x : Task) : (s.setTask k x).seqs = s.seqs := rfl
@[simp] theorem setTask_regions (s : State) (k : Nat) (x : Task) : (s.setTask k x).regions = s.regions := rfl
@[simp] theorem setTask_ctxs (s : State) (k : Nat) (x : Task) : (s.setTask k x).ctxs = s.ctxs := rfl
@[simp] theorem setTask_nextCtx (s : State) (k : Nat) (x : Task) : (s.setTask k x).nextCtx = s.nextCtx := rfl
@[simp] theorem setTask_armings (s : State) (k : Nat) (x : Task) : (s.setTask k x).armings = s.armings := rfl
@[simp] theorem setTask_sbufs (s : State) (k : Nat) (x : Task) : (s.setTask k x).sbufs = s.sbufs := rfl
@[simp] theorem setTask_flags (s : State) (k : Nat) (x : Task) : (s.setTask k x).flags = s.flags := rfl
@[simp] theorem setTask_arrivals (s : State) (k : Nat) (x : Task) : (s.setTask k x).arrivals = s.arrivals := rfl
@[simp] theorem setTask_chans (s : State) (k : Nat) (x : Task) : (s.setTask k x).chans = s.chans := rfl
@[simp] theorem setTask_races (s : State) (k : Nat) (x : Task) : (s.setTask k x).races = s.races := rfl
@[simp] theorem setTask_groups (s : State) (k : Nat) (x : Task) : (s.setTask k x).groups = s.groups := rfl
@[simp] theorem setTask_parts (s : State) (k : Nat) (x : Task) : (s.setTask k x).parts = s.parts := rfl
@[simp] theorem setTask_svc (s : State) (k : Nat) (x : Task) : (s.setTask k x).svc = s.svc := rfl
@[simp] theorem setTask_coll (s : State) (k : Nat) (x : Task) : (s.setTask k x).coll = s.coll := rfl
@[simp] theorem setTask_energy (s : State) (k : Nat) (x : Task) : (s.setTask k x).energy = s.energy := rfl
@[simp] theorem setTask_energySat (s : State) (k : Nat) (x : Task) : (s.setTask k x).energySat = s.energySat := rfl
@[simp] theorem setTask_errors (s : State) (k : Nat) (x : Task) : (s.setTask k x).errors = s.errors := rfl
@[simp] theorem setTask_errorWindow (s : State) (k : Nat) (x : Task) : (s.setTask k x).errorWindow = s.errorWindow := rfl
@[simp] theorem setTask_lasting (s : State) (k : Nat) (x : Task) : (s.setTask k x).lasting = s.lasting := rfl
@[simp] theorem setTask_pageFaults (s : State) (k : Nat) (x : Task) : (s.setTask k x).pageFaults = s.pageFaults := rfl
@[simp] theorem setTask_written (s : State) (k : Nat) (x : Task) : (s.setTask k x).written = s.written := rfl
@[simp] theorem setTask_served (s : State) (k : Nat) (x : Task) : (s.setTask k x).served = s.served := rfl
@[simp] theorem setTask_roused (s : State) (k : Nat) (x : Task) : (s.setTask k x).roused = s.roused := rfl
@[simp] theorem setTask_irqs (s : State) (k : Nat) (x : Task) : (s.setTask k x).irqs = s.irqs := rfl
@[simp] theorem setTask_replies (s : State) (k : Nat) (x : Task) : (s.setTask k x).replies = s.replies := rfl
@[simp] theorem setTask_peers (s : State) (k : Nat) (x : Task) : (s.setTask k x).peers = s.peers := rfl
@[simp] theorem setTask_boot (s : State) (k : Nat) (x : Task) : (s.setTask k x).boot = s.boot := rfl
@[simp] theorem setTask_tap (s : State) (k : Nat) (x : Task) : (s.setTask k x).tap = s.tap := rfl
@[simp] theorem setTask_now (s : State) (k : Nat) (x : Task) : (s.setTask k x).now = s.now := rfl
@[simp] theorem setTask_plan (s : State) (k : Nat) (x : Task) : (s.setTask k x).plan = s.plan := rfl
@[simp] theorem setTask_turn (s : State) (k : Nat) (x : Task) : (s.setTask k x).turn = s.turn := rfl
@[simp] theorem setTask_cur (s : State) (k : Nat) (x : Task) : (s.setTask k x).cur = s.cur := rfl
@[simp] theorem setTask_curBlk (s : State) (k : Nat) (x : Task) : (s.setTask k x).curBlk = s.curBlk := rfl
@[simp] theorem setTask_curIx (s : State) (k : Nat) (x : Task) : (s.setTask k x).curIx = s.curIx := rfl
@[simp] theorem setTask_site (s : State) (k : Nat) (x : Task) : (s.setTask k x).site = s.site := rfl
@[simp] theorem setTask_choice (s : State) (k : Nat) (x : Task) : (s.setTask k x).choice = s.choice := rfl
@[simp] theorem setTask_free (s : State) (k : Nat) (x : Task) : (s.setTask k x).free = s.free := rfl

/-! ### State.updTask -/

@[simp] theorem updTask_mem (s : State) (k : Nat) (f : Task → Task) : (s.updTask k f).mem = s.mem := rfl
@[simp] theorem updTask_poison (s : State) (k : Nat) (f : Task → Task) : (s.updTask k f).poison = s.poison := rfl
@[simp] theorem updTask_seqs (s : State) (k : Nat) (f : Task → Task) : (s.updTask k f).seqs = s.seqs := rfl
@[simp] theorem updTask_regions (s : State) (k : Nat) (f : Task → Task) : (s.updTask k f).regions = s.regions := rfl
@[simp] theorem updTask_ctxs (s : State) (k : Nat) (f : Task → Task) : (s.updTask k f).ctxs = s.ctxs := rfl
@[simp] theorem updTask_nextCtx (s : State) (k : Nat) (f : Task → Task) : (s.updTask k f).nextCtx = s.nextCtx := rfl
@[simp] theorem updTask_armings (s : State) (k : Nat) (f : Task → Task) : (s.updTask k f).armings = s.armings := rfl
@[simp] theorem updTask_sbufs (s : State) (k : Nat) (f : Task → Task) : (s.updTask k f).sbufs = s.sbufs := rfl
@[simp] theorem updTask_flags (s : State) (k : Nat) (f : Task → Task) : (s.updTask k f).flags = s.flags := rfl
@[simp] theorem updTask_arrivals (s : State) (k : Nat) (f : Task → Task) : (s.updTask k f).arrivals = s.arrivals := rfl
@[simp] theorem updTask_chans (s : State) (k : Nat) (f : Task → Task) : (s.updTask k f).chans = s.chans := rfl
@[simp] theorem updTask_races (s : State) (k : Nat) (f : Task → Task) : (s.updTask k f).races = s.races := rfl
@[simp] theorem updTask_groups (s : State) (k : Nat) (f : Task → Task) : (s.updTask k f).groups = s.groups := rfl
@[simp] theorem updTask_parts (s : State) (k : Nat) (f : Task → Task) : (s.updTask k f).parts = s.parts := rfl
@[simp] theorem updTask_svc (s : State) (k : Nat) (f : Task → Task) : (s.updTask k f).svc = s.svc := rfl
@[simp] theorem updTask_coll (s : State) (k : Nat) (f : Task → Task) : (s.updTask k f).coll = s.coll := rfl
@[simp] theorem updTask_energy (s : State) (k : Nat) (f : Task → Task) : (s.updTask k f).energy = s.energy := rfl
@[simp] theorem updTask_energySat (s : State) (k : Nat) (f : Task → Task) : (s.updTask k f).energySat = s.energySat := rfl
@[simp] theorem updTask_errors (s : State) (k : Nat) (f : Task → Task) : (s.updTask k f).errors = s.errors := rfl
@[simp] theorem updTask_errorWindow (s : State) (k : Nat) (f : Task → Task) : (s.updTask k f).errorWindow = s.errorWindow := rfl
@[simp] theorem updTask_lasting (s : State) (k : Nat) (f : Task → Task) : (s.updTask k f).lasting = s.lasting := rfl
@[simp] theorem updTask_pageFaults (s : State) (k : Nat) (f : Task → Task) : (s.updTask k f).pageFaults = s.pageFaults := rfl
@[simp] theorem updTask_written (s : State) (k : Nat) (f : Task → Task) : (s.updTask k f).written = s.written := rfl
@[simp] theorem updTask_served (s : State) (k : Nat) (f : Task → Task) : (s.updTask k f).served = s.served := rfl
@[simp] theorem updTask_roused (s : State) (k : Nat) (f : Task → Task) : (s.updTask k f).roused = s.roused := rfl
@[simp] theorem updTask_irqs (s : State) (k : Nat) (f : Task → Task) : (s.updTask k f).irqs = s.irqs := rfl
@[simp] theorem updTask_replies (s : State) (k : Nat) (f : Task → Task) : (s.updTask k f).replies = s.replies := rfl
@[simp] theorem updTask_peers (s : State) (k : Nat) (f : Task → Task) : (s.updTask k f).peers = s.peers := rfl
@[simp] theorem updTask_boot (s : State) (k : Nat) (f : Task → Task) : (s.updTask k f).boot = s.boot := rfl
@[simp] theorem updTask_tap (s : State) (k : Nat) (f : Task → Task) : (s.updTask k f).tap = s.tap := rfl
@[simp] theorem updTask_now (s : State) (k : Nat) (f : Task → Task) : (s.updTask k f).now = s.now := rfl
@[simp] theorem updTask_plan (s : State) (k : Nat) (f : Task → Task) : (s.updTask k f).plan = s.plan := rfl
@[simp] theorem updTask_turn (s : State) (k : Nat) (f : Task → Task) : (s.updTask k f).turn = s.turn := rfl
@[simp] theorem updTask_cur (s : State) (k : Nat) (f : Task → Task) : (s.updTask k f).cur = s.cur := rfl
@[simp] theorem updTask_curBlk (s : State) (k : Nat) (f : Task → Task) : (s.updTask k f).curBlk = s.curBlk := rfl
@[simp] theorem updTask_curIx (s : State) (k : Nat) (f : Task → Task) : (s.updTask k f).curIx = s.curIx := rfl
@[simp] theorem updTask_site (s : State) (k : Nat) (f : Task → Task) : (s.updTask k f).site = s.site := rfl
@[simp] theorem updTask_choice (s : State) (k : Nat) (f : Task → Task) : (s.updTask k f).choice = s.choice := rfl
@[simp] theorem updTask_free (s : State) (k : Nat) (f : Task → Task) : (s.updTask k f).free = s.free := rfl

/-! ### State.setRace -/

@[simp] theorem setRace_mem (s : State) (d : Nat) (x : Headrace) : (s.setRace d x).mem = s.mem := rfl
@[simp] theorem setRace_poison (s : State) (d : Nat) (x : Headrace) : (s.setRace d x).poison = s.poison := rfl
@[simp] theorem setRace_seqs (s : State) (d : Nat) (x : Headrace) : (s.setRace d x).seqs = s.seqs := rfl
@[simp] theorem setRace_regions (s : State) (d : Nat) (x : Headrace) : (s.setRace d x).regions = s.regions := rfl
@[simp] theorem setRace_ctxs (s : State) (d : Nat) (x : Headrace) : (s.setRace d x).ctxs = s.ctxs := rfl
@[simp] theorem setRace_nextCtx (s : State) (d : Nat) (x : Headrace) : (s.setRace d x).nextCtx = s.nextCtx := rfl
@[simp] theorem setRace_armings (s : State) (d : Nat) (x : Headrace) : (s.setRace d x).armings = s.armings := rfl
@[simp] theorem setRace_sbufs (s : State) (d : Nat) (x : Headrace) : (s.setRace d x).sbufs = s.sbufs := rfl
@[simp] theorem setRace_flags (s : State) (d : Nat) (x : Headrace) : (s.setRace d x).flags = s.flags := rfl
@[simp] theorem setRace_arrivals (s : State) (d : Nat) (x : Headrace) : (s.setRace d x).arrivals = s.arrivals := rfl
@[simp] theorem setRace_chans (s : State) (d : Nat) (x : Headrace) : (s.setRace d x).chans = s.chans := rfl
@[simp] theorem setRace_tasks (s : State) (d : Nat) (x : Headrace) : (s.setRace d x).tasks = s.tasks := rfl
@[simp] theorem setRace_groups (s : State) (d : Nat) (x : Headrace) : (s.setRace d x).groups = s.groups := rfl
@[simp] theorem setRace_parts (s : State) (d : Nat) (x : Headrace) : (s.setRace d x).parts = s.parts := rfl
@[simp] theorem setRace_svc (s : State) (d : Nat) (x : Headrace) : (s.setRace d x).svc = s.svc := rfl
@[simp] theorem setRace_coll (s : State) (d : Nat) (x : Headrace) : (s.setRace d x).coll = s.coll := rfl
@[simp] theorem setRace_energy (s : State) (d : Nat) (x : Headrace) : (s.setRace d x).energy = s.energy := rfl
@[simp] theorem setRace_energySat (s : State) (d : Nat) (x : Headrace) : (s.setRace d x).energySat = s.energySat := rfl
@[simp] theorem setRace_errors (s : State) (d : Nat) (x : Headrace) : (s.setRace d x).errors = s.errors := rfl
@[simp] theorem setRace_errorWindow (s : State) (d : Nat) (x : Headrace) : (s.setRace d x).errorWindow = s.errorWindow := rfl
@[simp] theorem setRace_lasting (s : State) (d : Nat) (x : Headrace) : (s.setRace d x).lasting = s.lasting := rfl
@[simp] theorem setRace_pageFaults (s : State) (d : Nat) (x : Headrace) : (s.setRace d x).pageFaults = s.pageFaults := rfl
@[simp] theorem setRace_written (s : State) (d : Nat) (x : Headrace) : (s.setRace d x).written = s.written := rfl
@[simp] theorem setRace_served (s : State) (d : Nat) (x : Headrace) : (s.setRace d x).served = s.served := rfl
@[simp] theorem setRace_roused (s : State) (d : Nat) (x : Headrace) : (s.setRace d x).roused = s.roused := rfl
@[simp] theorem setRace_irqs (s : State) (d : Nat) (x : Headrace) : (s.setRace d x).irqs = s.irqs := rfl
@[simp] theorem setRace_replies (s : State) (d : Nat) (x : Headrace) : (s.setRace d x).replies = s.replies := rfl
@[simp] theorem setRace_peers (s : State) (d : Nat) (x : Headrace) : (s.setRace d x).peers = s.peers := rfl
@[simp] theorem setRace_boot (s : State) (d : Nat) (x : Headrace) : (s.setRace d x).boot = s.boot := rfl
@[simp] theorem setRace_tap (s : State) (d : Nat) (x : Headrace) : (s.setRace d x).tap = s.tap := rfl
@[simp] theorem setRace_now (s : State) (d : Nat) (x : Headrace) : (s.setRace d x).now = s.now := rfl
@[simp] theorem setRace_plan (s : State) (d : Nat) (x : Headrace) : (s.setRace d x).plan = s.plan := rfl
@[simp] theorem setRace_turn (s : State) (d : Nat) (x : Headrace) : (s.setRace d x).turn = s.turn := rfl
@[simp] theorem setRace_cur (s : State) (d : Nat) (x : Headrace) : (s.setRace d x).cur = s.cur := rfl
@[simp] theorem setRace_curBlk (s : State) (d : Nat) (x : Headrace) : (s.setRace d x).curBlk = s.curBlk := rfl
@[simp] theorem setRace_curIx (s : State) (d : Nat) (x : Headrace) : (s.setRace d x).curIx = s.curIx := rfl
@[simp] theorem setRace_site (s : State) (d : Nat) (x : Headrace) : (s.setRace d x).site = s.site := rfl
@[simp] theorem setRace_choice (s : State) (d : Nat) (x : Headrace) : (s.setRace d x).choice = s.choice := rfl
@[simp] theorem setRace_free (s : State) (d : Nat) (x : Headrace) : (s.setRace d x).free = s.free := rfl

/-! ### State.setGroup -/

@[simp] theorem setGroup_mem (s : State) (g : Nat) (x : GroupState) : (s.setGroup g x).mem = s.mem := rfl
@[simp] theorem setGroup_poison (s : State) (g : Nat) (x : GroupState) : (s.setGroup g x).poison = s.poison := rfl
@[simp] theorem setGroup_seqs (s : State) (g : Nat) (x : GroupState) : (s.setGroup g x).seqs = s.seqs := rfl
@[simp] theorem setGroup_regions (s : State) (g : Nat) (x : GroupState) : (s.setGroup g x).regions = s.regions := rfl
@[simp] theorem setGroup_ctxs (s : State) (g : Nat) (x : GroupState) : (s.setGroup g x).ctxs = s.ctxs := rfl
@[simp] theorem setGroup_nextCtx (s : State) (g : Nat) (x : GroupState) : (s.setGroup g x).nextCtx = s.nextCtx := rfl
@[simp] theorem setGroup_armings (s : State) (g : Nat) (x : GroupState) : (s.setGroup g x).armings = s.armings := rfl
@[simp] theorem setGroup_sbufs (s : State) (g : Nat) (x : GroupState) : (s.setGroup g x).sbufs = s.sbufs := rfl
@[simp] theorem setGroup_flags (s : State) (g : Nat) (x : GroupState) : (s.setGroup g x).flags = s.flags := rfl
@[simp] theorem setGroup_arrivals (s : State) (g : Nat) (x : GroupState) : (s.setGroup g x).arrivals = s.arrivals := rfl
@[simp] theorem setGroup_chans (s : State) (g : Nat) (x : GroupState) : (s.setGroup g x).chans = s.chans := rfl
@[simp] theorem setGroup_tasks (s : State) (g : Nat) (x : GroupState) : (s.setGroup g x).tasks = s.tasks := rfl
@[simp] theorem setGroup_races (s : State) (g : Nat) (x : GroupState) : (s.setGroup g x).races = s.races := rfl
@[simp] theorem setGroup_parts (s : State) (g : Nat) (x : GroupState) : (s.setGroup g x).parts = s.parts := rfl
@[simp] theorem setGroup_svc (s : State) (g : Nat) (x : GroupState) : (s.setGroup g x).svc = s.svc := rfl
@[simp] theorem setGroup_coll (s : State) (g : Nat) (x : GroupState) : (s.setGroup g x).coll = s.coll := rfl
@[simp] theorem setGroup_energy (s : State) (g : Nat) (x : GroupState) : (s.setGroup g x).energy = s.energy := rfl
@[simp] theorem setGroup_energySat (s : State) (g : Nat) (x : GroupState) : (s.setGroup g x).energySat = s.energySat := rfl
@[simp] theorem setGroup_errors (s : State) (g : Nat) (x : GroupState) : (s.setGroup g x).errors = s.errors := rfl
@[simp] theorem setGroup_errorWindow (s : State) (g : Nat) (x : GroupState) : (s.setGroup g x).errorWindow = s.errorWindow := rfl
@[simp] theorem setGroup_lasting (s : State) (g : Nat) (x : GroupState) : (s.setGroup g x).lasting = s.lasting := rfl
@[simp] theorem setGroup_pageFaults (s : State) (g : Nat) (x : GroupState) : (s.setGroup g x).pageFaults = s.pageFaults := rfl
@[simp] theorem setGroup_written (s : State) (g : Nat) (x : GroupState) : (s.setGroup g x).written = s.written := rfl
@[simp] theorem setGroup_served (s : State) (g : Nat) (x : GroupState) : (s.setGroup g x).served = s.served := rfl
@[simp] theorem setGroup_roused (s : State) (g : Nat) (x : GroupState) : (s.setGroup g x).roused = s.roused := rfl
@[simp] theorem setGroup_irqs (s : State) (g : Nat) (x : GroupState) : (s.setGroup g x).irqs = s.irqs := rfl
@[simp] theorem setGroup_replies (s : State) (g : Nat) (x : GroupState) : (s.setGroup g x).replies = s.replies := rfl
@[simp] theorem setGroup_peers (s : State) (g : Nat) (x : GroupState) : (s.setGroup g x).peers = s.peers := rfl
@[simp] theorem setGroup_boot (s : State) (g : Nat) (x : GroupState) : (s.setGroup g x).boot = s.boot := rfl
@[simp] theorem setGroup_tap (s : State) (g : Nat) (x : GroupState) : (s.setGroup g x).tap = s.tap := rfl
@[simp] theorem setGroup_now (s : State) (g : Nat) (x : GroupState) : (s.setGroup g x).now = s.now := rfl
@[simp] theorem setGroup_plan (s : State) (g : Nat) (x : GroupState) : (s.setGroup g x).plan = s.plan := rfl
@[simp] theorem setGroup_turn (s : State) (g : Nat) (x : GroupState) : (s.setGroup g x).turn = s.turn := rfl
@[simp] theorem setGroup_cur (s : State) (g : Nat) (x : GroupState) : (s.setGroup g x).cur = s.cur := rfl
@[simp] theorem setGroup_curBlk (s : State) (g : Nat) (x : GroupState) : (s.setGroup g x).curBlk = s.curBlk := rfl
@[simp] theorem setGroup_curIx (s : State) (g : Nat) (x : GroupState) : (s.setGroup g x).curIx = s.curIx := rfl
@[simp] theorem setGroup_site (s : State) (g : Nat) (x : GroupState) : (s.setGroup g x).site = s.site := rfl
@[simp] theorem setGroup_choice (s : State) (g : Nat) (x : GroupState) : (s.setGroup g x).choice = s.choice := rfl
@[simp] theorem setGroup_free (s : State) (g : Nat) (x : GroupState) : (s.setGroup g x).free = s.free := rfl

/-! ### State.setPart -/

@[simp] theorem setPart_mem (s : State) (p : Nat) (x : Part) : (s.setPart p x).mem = s.mem := rfl
@[simp] theorem setPart_poison (s : State) (p : Nat) (x : Part) : (s.setPart p x).poison = s.poison := rfl
@[simp] theorem setPart_seqs (s : State) (p : Nat) (x : Part) : (s.setPart p x).seqs = s.seqs := rfl
@[simp] theorem setPart_regions (s : State) (p : Nat) (x : Part) : (s.setPart p x).regions = s.regions := rfl
@[simp] theorem setPart_ctxs (s : State) (p : Nat) (x : Part) : (s.setPart p x).ctxs = s.ctxs := rfl
@[simp] theorem setPart_nextCtx (s : State) (p : Nat) (x : Part) : (s.setPart p x).nextCtx = s.nextCtx := rfl
@[simp] theorem setPart_armings (s : State) (p : Nat) (x : Part) : (s.setPart p x).armings = s.armings := rfl
@[simp] theorem setPart_sbufs (s : State) (p : Nat) (x : Part) : (s.setPart p x).sbufs = s.sbufs := rfl
@[simp] theorem setPart_flags (s : State) (p : Nat) (x : Part) : (s.setPart p x).flags = s.flags := rfl
@[simp] theorem setPart_arrivals (s : State) (p : Nat) (x : Part) : (s.setPart p x).arrivals = s.arrivals := rfl
@[simp] theorem setPart_chans (s : State) (p : Nat) (x : Part) : (s.setPart p x).chans = s.chans := rfl
@[simp] theorem setPart_tasks (s : State) (p : Nat) (x : Part) : (s.setPart p x).tasks = s.tasks := rfl
@[simp] theorem setPart_races (s : State) (p : Nat) (x : Part) : (s.setPart p x).races = s.races := rfl
@[simp] theorem setPart_groups (s : State) (p : Nat) (x : Part) : (s.setPart p x).groups = s.groups := rfl
@[simp] theorem setPart_svc (s : State) (p : Nat) (x : Part) : (s.setPart p x).svc = s.svc := rfl
@[simp] theorem setPart_coll (s : State) (p : Nat) (x : Part) : (s.setPart p x).coll = s.coll := rfl
@[simp] theorem setPart_energy (s : State) (p : Nat) (x : Part) : (s.setPart p x).energy = s.energy := rfl
@[simp] theorem setPart_energySat (s : State) (p : Nat) (x : Part) : (s.setPart p x).energySat = s.energySat := rfl
@[simp] theorem setPart_errors (s : State) (p : Nat) (x : Part) : (s.setPart p x).errors = s.errors := rfl
@[simp] theorem setPart_errorWindow (s : State) (p : Nat) (x : Part) : (s.setPart p x).errorWindow = s.errorWindow := rfl
@[simp] theorem setPart_lasting (s : State) (p : Nat) (x : Part) : (s.setPart p x).lasting = s.lasting := rfl
@[simp] theorem setPart_pageFaults (s : State) (p : Nat) (x : Part) : (s.setPart p x).pageFaults = s.pageFaults := rfl
@[simp] theorem setPart_written (s : State) (p : Nat) (x : Part) : (s.setPart p x).written = s.written := rfl
@[simp] theorem setPart_served (s : State) (p : Nat) (x : Part) : (s.setPart p x).served = s.served := rfl
@[simp] theorem setPart_roused (s : State) (p : Nat) (x : Part) : (s.setPart p x).roused = s.roused := rfl
@[simp] theorem setPart_irqs (s : State) (p : Nat) (x : Part) : (s.setPart p x).irqs = s.irqs := rfl
@[simp] theorem setPart_replies (s : State) (p : Nat) (x : Part) : (s.setPart p x).replies = s.replies := rfl
@[simp] theorem setPart_peers (s : State) (p : Nat) (x : Part) : (s.setPart p x).peers = s.peers := rfl
@[simp] theorem setPart_boot (s : State) (p : Nat) (x : Part) : (s.setPart p x).boot = s.boot := rfl
@[simp] theorem setPart_tap (s : State) (p : Nat) (x : Part) : (s.setPart p x).tap = s.tap := rfl
@[simp] theorem setPart_now (s : State) (p : Nat) (x : Part) : (s.setPart p x).now = s.now := rfl
@[simp] theorem setPart_plan (s : State) (p : Nat) (x : Part) : (s.setPart p x).plan = s.plan := rfl
@[simp] theorem setPart_turn (s : State) (p : Nat) (x : Part) : (s.setPart p x).turn = s.turn := rfl
@[simp] theorem setPart_cur (s : State) (p : Nat) (x : Part) : (s.setPart p x).cur = s.cur := rfl
@[simp] theorem setPart_curBlk (s : State) (p : Nat) (x : Part) : (s.setPart p x).curBlk = s.curBlk := rfl
@[simp] theorem setPart_curIx (s : State) (p : Nat) (x : Part) : (s.setPart p x).curIx = s.curIx := rfl
@[simp] theorem setPart_site (s : State) (p : Nat) (x : Part) : (s.setPart p x).site = s.site := rfl
@[simp] theorem setPart_choice (s : State) (p : Nat) (x : Part) : (s.setPart p x).choice = s.choice := rfl
@[simp] theorem setPart_free (s : State) (p : Nat) (x : Part) : (s.setPart p x).free = s.free := rfl

/-! ### State.setPeer -/

@[simp] theorem setPeer_mem (s : State) (p : Nat) (x : Peer) : (s.setPeer p x).mem = s.mem := rfl
@[simp] theorem setPeer_poison (s : State) (p : Nat) (x : Peer) : (s.setPeer p x).poison = s.poison := rfl
@[simp] theorem setPeer_seqs (s : State) (p : Nat) (x : Peer) : (s.setPeer p x).seqs = s.seqs := rfl
@[simp] theorem setPeer_regions (s : State) (p : Nat) (x : Peer) : (s.setPeer p x).regions = s.regions := rfl
@[simp] theorem setPeer_ctxs (s : State) (p : Nat) (x : Peer) : (s.setPeer p x).ctxs = s.ctxs := rfl
@[simp] theorem setPeer_nextCtx (s : State) (p : Nat) (x : Peer) : (s.setPeer p x).nextCtx = s.nextCtx := rfl
@[simp] theorem setPeer_armings (s : State) (p : Nat) (x : Peer) : (s.setPeer p x).armings = s.armings := rfl
@[simp] theorem setPeer_sbufs (s : State) (p : Nat) (x : Peer) : (s.setPeer p x).sbufs = s.sbufs := rfl
@[simp] theorem setPeer_flags (s : State) (p : Nat) (x : Peer) : (s.setPeer p x).flags = s.flags := rfl
@[simp] theorem setPeer_arrivals (s : State) (p : Nat) (x : Peer) : (s.setPeer p x).arrivals = s.arrivals := rfl
@[simp] theorem setPeer_chans (s : State) (p : Nat) (x : Peer) : (s.setPeer p x).chans = s.chans := rfl
@[simp] theorem setPeer_tasks (s : State) (p : Nat) (x : Peer) : (s.setPeer p x).tasks = s.tasks := rfl
@[simp] theorem setPeer_races (s : State) (p : Nat) (x : Peer) : (s.setPeer p x).races = s.races := rfl
@[simp] theorem setPeer_groups (s : State) (p : Nat) (x : Peer) : (s.setPeer p x).groups = s.groups := rfl
@[simp] theorem setPeer_parts (s : State) (p : Nat) (x : Peer) : (s.setPeer p x).parts = s.parts := rfl
@[simp] theorem setPeer_svc (s : State) (p : Nat) (x : Peer) : (s.setPeer p x).svc = s.svc := rfl
@[simp] theorem setPeer_coll (s : State) (p : Nat) (x : Peer) : (s.setPeer p x).coll = s.coll := rfl
@[simp] theorem setPeer_energy (s : State) (p : Nat) (x : Peer) : (s.setPeer p x).energy = s.energy := rfl
@[simp] theorem setPeer_energySat (s : State) (p : Nat) (x : Peer) : (s.setPeer p x).energySat = s.energySat := rfl
@[simp] theorem setPeer_errors (s : State) (p : Nat) (x : Peer) : (s.setPeer p x).errors = s.errors := rfl
@[simp] theorem setPeer_errorWindow (s : State) (p : Nat) (x : Peer) : (s.setPeer p x).errorWindow = s.errorWindow := rfl
@[simp] theorem setPeer_lasting (s : State) (p : Nat) (x : Peer) : (s.setPeer p x).lasting = s.lasting := rfl
@[simp] theorem setPeer_pageFaults (s : State) (p : Nat) (x : Peer) : (s.setPeer p x).pageFaults = s.pageFaults := rfl
@[simp] theorem setPeer_written (s : State) (p : Nat) (x : Peer) : (s.setPeer p x).written = s.written := rfl
@[simp] theorem setPeer_served (s : State) (p : Nat) (x : Peer) : (s.setPeer p x).served = s.served := rfl
@[simp] theorem setPeer_roused (s : State) (p : Nat) (x : Peer) : (s.setPeer p x).roused = s.roused := rfl
@[simp] theorem setPeer_irqs (s : State) (p : Nat) (x : Peer) : (s.setPeer p x).irqs = s.irqs := rfl
@[simp] theorem setPeer_replies (s : State) (p : Nat) (x : Peer) : (s.setPeer p x).replies = s.replies := rfl
@[simp] theorem setPeer_boot (s : State) (p : Nat) (x : Peer) : (s.setPeer p x).boot = s.boot := rfl
@[simp] theorem setPeer_tap (s : State) (p : Nat) (x : Peer) : (s.setPeer p x).tap = s.tap := rfl
@[simp] theorem setPeer_now (s : State) (p : Nat) (x : Peer) : (s.setPeer p x).now = s.now := rfl
@[simp] theorem setPeer_plan (s : State) (p : Nat) (x : Peer) : (s.setPeer p x).plan = s.plan := rfl
@[simp] theorem setPeer_turn (s : State) (p : Nat) (x : Peer) : (s.setPeer p x).turn = s.turn := rfl
@[simp] theorem setPeer_cur (s : State) (p : Nat) (x : Peer) : (s.setPeer p x).cur = s.cur := rfl
@[simp] theorem setPeer_curBlk (s : State) (p : Nat) (x : Peer) : (s.setPeer p x).curBlk = s.curBlk := rfl
@[simp] theorem setPeer_curIx (s : State) (p : Nat) (x : Peer) : (s.setPeer p x).curIx = s.curIx := rfl
@[simp] theorem setPeer_site (s : State) (p : Nat) (x : Peer) : (s.setPeer p x).site = s.site := rfl
@[simp] theorem setPeer_choice (s : State) (p : Nat) (x : Peer) : (s.setPeer p x).choice = s.choice := rfl
@[simp] theorem setPeer_free (s : State) (p : Nat) (x : Peer) : (s.setPeer p x).free = s.free := rfl

/-! ### State.setSbuf -/

@[simp] theorem setSbuf_mem (s : State) (h : Nat) (b : SBuf) : (s.setSbuf h b).mem = s.mem := rfl
@[simp] theorem setSbuf_poison (s : State) (h : Nat) (b : SBuf) : (s.setSbuf h b).poison = s.poison := rfl
@[simp] theorem setSbuf_seqs (s : State) (h : Nat) (b : SBuf) : (s.setSbuf h b).seqs = s.seqs := rfl
@[simp] theorem setSbuf_regions (s : State) (h : Nat) (b : SBuf) : (s.setSbuf h b).regions = s.regions := rfl
@[simp] theorem setSbuf_ctxs (s : State) (h : Nat) (b : SBuf) : (s.setSbuf h b).ctxs = s.ctxs := rfl
@[simp] theorem setSbuf_nextCtx (s : State) (h : Nat) (b : SBuf) : (s.setSbuf h b).nextCtx = s.nextCtx := rfl
@[simp] theorem setSbuf_armings (s : State) (h : Nat) (b : SBuf) : (s.setSbuf h b).armings = s.armings := rfl
@[simp] theorem setSbuf_flags (s : State) (h : Nat) (b : SBuf) : (s.setSbuf h b).flags = s.flags := rfl
@[simp] theorem setSbuf_arrivals (s : State) (h : Nat) (b : SBuf) : (s.setSbuf h b).arrivals = s.arrivals := rfl
@[simp] theorem setSbuf_chans (s : State) (h : Nat) (b : SBuf) : (s.setSbuf h b).chans = s.chans := rfl
@[simp] theorem setSbuf_tasks (s : State) (h : Nat) (b : SBuf) : (s.setSbuf h b).tasks = s.tasks := rfl
@[simp] theorem setSbuf_races (s : State) (h : Nat) (b : SBuf) : (s.setSbuf h b).races = s.races := rfl
@[simp] theorem setSbuf_groups (s : State) (h : Nat) (b : SBuf) : (s.setSbuf h b).groups = s.groups := rfl
@[simp] theorem setSbuf_parts (s : State) (h : Nat) (b : SBuf) : (s.setSbuf h b).parts = s.parts := rfl
@[simp] theorem setSbuf_svc (s : State) (h : Nat) (b : SBuf) : (s.setSbuf h b).svc = s.svc := rfl
@[simp] theorem setSbuf_coll (s : State) (h : Nat) (b : SBuf) : (s.setSbuf h b).coll = s.coll := rfl
@[simp] theorem setSbuf_energy (s : State) (h : Nat) (b : SBuf) : (s.setSbuf h b).energy = s.energy := rfl
@[simp] theorem setSbuf_energySat (s : State) (h : Nat) (b : SBuf) : (s.setSbuf h b).energySat = s.energySat := rfl
@[simp] theorem setSbuf_errors (s : State) (h : Nat) (b : SBuf) : (s.setSbuf h b).errors = s.errors := rfl
@[simp] theorem setSbuf_errorWindow (s : State) (h : Nat) (b : SBuf) : (s.setSbuf h b).errorWindow = s.errorWindow := rfl
@[simp] theorem setSbuf_lasting (s : State) (h : Nat) (b : SBuf) : (s.setSbuf h b).lasting = s.lasting := rfl
@[simp] theorem setSbuf_pageFaults (s : State) (h : Nat) (b : SBuf) : (s.setSbuf h b).pageFaults = s.pageFaults := rfl
@[simp] theorem setSbuf_written (s : State) (h : Nat) (b : SBuf) : (s.setSbuf h b).written = s.written := rfl
@[simp] theorem setSbuf_served (s : State) (h : Nat) (b : SBuf) : (s.setSbuf h b).served = s.served := rfl
@[simp] theorem setSbuf_roused (s : State) (h : Nat) (b : SBuf) : (s.setSbuf h b).roused = s.roused := rfl
@[simp] theorem setSbuf_irqs (s : State) (h : Nat) (b : SBuf) : (s.setSbuf h b).irqs = s.irqs := rfl
@[simp] theorem setSbuf_replies (s : State) (h : Nat) (b : SBuf) : (s.setSbuf h b).replies = s.replies := rfl
@[simp] theorem setSbuf_peers (s : State) (h : Nat) (b : SBuf) : (s.setSbuf h b).peers = s.peers := rfl
@[simp] theorem setSbuf_boot (s : State) (h : Nat) (b : SBuf) : (s.setSbuf h b).boot = s.boot := rfl
@[simp] theorem setSbuf_tap (s : State) (h : Nat) (b : SBuf) : (s.setSbuf h b).tap = s.tap := rfl
@[simp] theorem setSbuf_now (s : State) (h : Nat) (b : SBuf) : (s.setSbuf h b).now = s.now := rfl
@[simp] theorem setSbuf_plan (s : State) (h : Nat) (b : SBuf) : (s.setSbuf h b).plan = s.plan := rfl
@[simp] theorem setSbuf_turn (s : State) (h : Nat) (b : SBuf) : (s.setSbuf h b).turn = s.turn := rfl
@[simp] theorem setSbuf_cur (s : State) (h : Nat) (b : SBuf) : (s.setSbuf h b).cur = s.cur := rfl
@[simp] theorem setSbuf_curBlk (s : State) (h : Nat) (b : SBuf) : (s.setSbuf h b).curBlk = s.curBlk := rfl
@[simp] theorem setSbuf_curIx (s : State) (h : Nat) (b : SBuf) : (s.setSbuf h b).curIx = s.curIx := rfl
@[simp] theorem setSbuf_site (s : State) (h : Nat) (b : SBuf) : (s.setSbuf h b).site = s.site := rfl
@[simp] theorem setSbuf_choice (s : State) (h : Nat) (b : SBuf) : (s.setSbuf h b).choice = s.choice := rfl
@[simp] theorem setSbuf_free (s : State) (h : Nat) (b : SBuf) : (s.setSbuf h b).free = s.free := rfl

/-! ### State.setTap -/

@[simp] theorem setTap_mem (s : State) (i : BitVec 8) (d : BitVec 96) : (s.setTap i d).mem = s.mem := rfl
@[simp] theorem setTap_poison (s : State) (i : BitVec 8) (d : BitVec 96) : (s.setTap i d).poison = s.poison := rfl
@[simp] theorem setTap_seqs (s : State) (i : BitVec 8) (d : BitVec 96) : (s.setTap i d).seqs = s.seqs := rfl
@[simp] theorem setTap_regions (s : State) (i : BitVec 8) (d : BitVec 96) : (s.setTap i d).regions = s.regions := rfl
@[simp] theorem setTap_ctxs (s : State) (i : BitVec 8) (d : BitVec 96) : (s.setTap i d).ctxs = s.ctxs := rfl
@[simp] theorem setTap_nextCtx (s : State) (i : BitVec 8) (d : BitVec 96) : (s.setTap i d).nextCtx = s.nextCtx := rfl
@[simp] theorem setTap_armings (s : State) (i : BitVec 8) (d : BitVec 96) : (s.setTap i d).armings = s.armings := rfl
@[simp] theorem setTap_sbufs (s : State) (i : BitVec 8) (d : BitVec 96) : (s.setTap i d).sbufs = s.sbufs := rfl
@[simp] theorem setTap_flags (s : State) (i : BitVec 8) (d : BitVec 96) : (s.setTap i d).flags = s.flags := rfl
@[simp] theorem setTap_arrivals (s : State) (i : BitVec 8) (d : BitVec 96) : (s.setTap i d).arrivals = s.arrivals := rfl
@[simp] theorem setTap_chans (s : State) (i : BitVec 8) (d : BitVec 96) : (s.setTap i d).chans = s.chans := rfl
@[simp] theorem setTap_tasks (s : State) (i : BitVec 8) (d : BitVec 96) : (s.setTap i d).tasks = s.tasks := rfl
@[simp] theorem setTap_races (s : State) (i : BitVec 8) (d : BitVec 96) : (s.setTap i d).races = s.races := rfl
@[simp] theorem setTap_groups (s : State) (i : BitVec 8) (d : BitVec 96) : (s.setTap i d).groups = s.groups := rfl
@[simp] theorem setTap_parts (s : State) (i : BitVec 8) (d : BitVec 96) : (s.setTap i d).parts = s.parts := rfl
@[simp] theorem setTap_svc (s : State) (i : BitVec 8) (d : BitVec 96) : (s.setTap i d).svc = s.svc := rfl
@[simp] theorem setTap_coll (s : State) (i : BitVec 8) (d : BitVec 96) : (s.setTap i d).coll = s.coll := rfl
@[simp] theorem setTap_energy (s : State) (i : BitVec 8) (d : BitVec 96) : (s.setTap i d).energy = s.energy := rfl
@[simp] theorem setTap_energySat (s : State) (i : BitVec 8) (d : BitVec 96) : (s.setTap i d).energySat = s.energySat := rfl
@[simp] theorem setTap_errors (s : State) (i : BitVec 8) (d : BitVec 96) : (s.setTap i d).errors = s.errors := rfl
@[simp] theorem setTap_errorWindow (s : State) (i : BitVec 8) (d : BitVec 96) : (s.setTap i d).errorWindow = s.errorWindow := rfl
@[simp] theorem setTap_lasting (s : State) (i : BitVec 8) (d : BitVec 96) : (s.setTap i d).lasting = s.lasting := rfl
@[simp] theorem setTap_pageFaults (s : State) (i : BitVec 8) (d : BitVec 96) : (s.setTap i d).pageFaults = s.pageFaults := rfl
@[simp] theorem setTap_written (s : State) (i : BitVec 8) (d : BitVec 96) : (s.setTap i d).written = s.written := rfl
@[simp] theorem setTap_served (s : State) (i : BitVec 8) (d : BitVec 96) : (s.setTap i d).served = s.served := rfl
@[simp] theorem setTap_roused (s : State) (i : BitVec 8) (d : BitVec 96) : (s.setTap i d).roused = s.roused := rfl
@[simp] theorem setTap_irqs (s : State) (i : BitVec 8) (d : BitVec 96) : (s.setTap i d).irqs = s.irqs := rfl
@[simp] theorem setTap_replies (s : State) (i : BitVec 8) (d : BitVec 96) : (s.setTap i d).replies = s.replies := rfl
@[simp] theorem setTap_peers (s : State) (i : BitVec 8) (d : BitVec 96) : (s.setTap i d).peers = s.peers := rfl
@[simp] theorem setTap_boot (s : State) (i : BitVec 8) (d : BitVec 96) : (s.setTap i d).boot = s.boot := rfl
@[simp] theorem setTap_now (s : State) (i : BitVec 8) (d : BitVec 96) : (s.setTap i d).now = s.now := rfl
@[simp] theorem setTap_plan (s : State) (i : BitVec 8) (d : BitVec 96) : (s.setTap i d).plan = s.plan := rfl
@[simp] theorem setTap_turn (s : State) (i : BitVec 8) (d : BitVec 96) : (s.setTap i d).turn = s.turn := rfl
@[simp] theorem setTap_cur (s : State) (i : BitVec 8) (d : BitVec 96) : (s.setTap i d).cur = s.cur := rfl
@[simp] theorem setTap_curBlk (s : State) (i : BitVec 8) (d : BitVec 96) : (s.setTap i d).curBlk = s.curBlk := rfl
@[simp] theorem setTap_curIx (s : State) (i : BitVec 8) (d : BitVec 96) : (s.setTap i d).curIx = s.curIx := rfl
@[simp] theorem setTap_site (s : State) (i : BitVec 8) (d : BitVec 96) : (s.setTap i d).site = s.site := rfl
@[simp] theorem setTap_choice (s : State) (i : BitVec 8) (d : BitVec 96) : (s.setTap i d).choice = s.choice := rfl
@[simp] theorem setTap_free (s : State) (i : BitVec 8) (d : BitVec 96) : (s.setTap i d).free = s.free := rfl

/-! ### State.reply -/

@[simp] theorem reply_mem (s : State) (r : Reply) : (s.reply r).mem = s.mem := rfl
@[simp] theorem reply_poison (s : State) (r : Reply) : (s.reply r).poison = s.poison := rfl
@[simp] theorem reply_seqs (s : State) (r : Reply) : (s.reply r).seqs = s.seqs := rfl
@[simp] theorem reply_regions (s : State) (r : Reply) : (s.reply r).regions = s.regions := rfl
@[simp] theorem reply_ctxs (s : State) (r : Reply) : (s.reply r).ctxs = s.ctxs := rfl
@[simp] theorem reply_nextCtx (s : State) (r : Reply) : (s.reply r).nextCtx = s.nextCtx := rfl
@[simp] theorem reply_armings (s : State) (r : Reply) : (s.reply r).armings = s.armings := rfl
@[simp] theorem reply_sbufs (s : State) (r : Reply) : (s.reply r).sbufs = s.sbufs := rfl
@[simp] theorem reply_flags (s : State) (r : Reply) : (s.reply r).flags = s.flags := rfl
@[simp] theorem reply_arrivals (s : State) (r : Reply) : (s.reply r).arrivals = s.arrivals := rfl
@[simp] theorem reply_chans (s : State) (r : Reply) : (s.reply r).chans = s.chans := rfl
@[simp] theorem reply_tasks (s : State) (r : Reply) : (s.reply r).tasks = s.tasks := rfl
@[simp] theorem reply_races (s : State) (r : Reply) : (s.reply r).races = s.races := rfl
@[simp] theorem reply_groups (s : State) (r : Reply) : (s.reply r).groups = s.groups := rfl
@[simp] theorem reply_parts (s : State) (r : Reply) : (s.reply r).parts = s.parts := rfl
@[simp] theorem reply_svc (s : State) (r : Reply) : (s.reply r).svc = s.svc := rfl
@[simp] theorem reply_coll (s : State) (r : Reply) : (s.reply r).coll = s.coll := rfl
@[simp] theorem reply_energy (s : State) (r : Reply) : (s.reply r).energy = s.energy := rfl
@[simp] theorem reply_energySat (s : State) (r : Reply) : (s.reply r).energySat = s.energySat := rfl
@[simp] theorem reply_errors (s : State) (r : Reply) : (s.reply r).errors = s.errors := rfl
@[simp] theorem reply_errorWindow (s : State) (r : Reply) : (s.reply r).errorWindow = s.errorWindow := rfl
@[simp] theorem reply_lasting (s : State) (r : Reply) : (s.reply r).lasting = s.lasting := rfl
@[simp] theorem reply_pageFaults (s : State) (r : Reply) : (s.reply r).pageFaults = s.pageFaults := rfl
@[simp] theorem reply_written (s : State) (r : Reply) : (s.reply r).written = s.written := rfl
@[simp] theorem reply_served (s : State) (r : Reply) : (s.reply r).served = s.served := rfl
@[simp] theorem reply_roused (s : State) (r : Reply) : (s.reply r).roused = s.roused := rfl
@[simp] theorem reply_irqs (s : State) (r : Reply) : (s.reply r).irqs = s.irqs := rfl
@[simp] theorem reply_peers (s : State) (r : Reply) : (s.reply r).peers = s.peers := rfl
@[simp] theorem reply_boot (s : State) (r : Reply) : (s.reply r).boot = s.boot := rfl
@[simp] theorem reply_tap (s : State) (r : Reply) : (s.reply r).tap = s.tap := rfl
@[simp] theorem reply_now (s : State) (r : Reply) : (s.reply r).now = s.now := rfl
@[simp] theorem reply_plan (s : State) (r : Reply) : (s.reply r).plan = s.plan := rfl
@[simp] theorem reply_turn (s : State) (r : Reply) : (s.reply r).turn = s.turn := rfl
@[simp] theorem reply_cur (s : State) (r : Reply) : (s.reply r).cur = s.cur := rfl
@[simp] theorem reply_curBlk (s : State) (r : Reply) : (s.reply r).curBlk = s.curBlk := rfl
@[simp] theorem reply_curIx (s : State) (r : Reply) : (s.reply r).curIx = s.curIx := rfl
@[simp] theorem reply_site (s : State) (r : Reply) : (s.reply r).site = s.site := rfl
@[simp] theorem reply_choice (s : State) (r : Reply) : (s.reply r).choice = s.choice := rfl
@[simp] theorem reply_free (s : State) (r : Reply) : (s.reply r).free = s.free := rfl

/-! ### State.draw -/

@[simp] theorem draw_mem (s : State) : (s.draw).mem = s.mem := rfl
@[simp] theorem draw_poison (s : State) : (s.draw).poison = s.poison := rfl
@[simp] theorem draw_seqs (s : State) : (s.draw).seqs = s.seqs := rfl
@[simp] theorem draw_regions (s : State) : (s.draw).regions = s.regions := rfl
@[simp] theorem draw_ctxs (s : State) : (s.draw).ctxs = s.ctxs := rfl
@[simp] theorem draw_nextCtx (s : State) : (s.draw).nextCtx = s.nextCtx := rfl
@[simp] theorem draw_armings (s : State) : (s.draw).armings = s.armings := rfl
@[simp] theorem draw_sbufs (s : State) : (s.draw).sbufs = s.sbufs := rfl
@[simp] theorem draw_flags (s : State) : (s.draw).flags = s.flags := rfl
@[simp] theorem draw_arrivals (s : State) : (s.draw).arrivals = s.arrivals := rfl
@[simp] theorem draw_chans (s : State) : (s.draw).chans = s.chans := rfl
@[simp] theorem draw_tasks (s : State) : (s.draw).tasks = s.tasks := rfl
@[simp] theorem draw_races (s : State) : (s.draw).races = s.races := rfl
@[simp] theorem draw_groups (s : State) : (s.draw).groups = s.groups := rfl
@[simp] theorem draw_parts (s : State) : (s.draw).parts = s.parts := rfl
@[simp] theorem draw_svc (s : State) : (s.draw).svc = s.svc := rfl
@[simp] theorem draw_coll (s : State) : (s.draw).coll = s.coll := rfl
@[simp] theorem draw_energy (s : State) : (s.draw).energy = s.energy := rfl
@[simp] theorem draw_energySat (s : State) : (s.draw).energySat = s.energySat := rfl
@[simp] theorem draw_errors (s : State) : (s.draw).errors = s.errors := rfl
@[simp] theorem draw_errorWindow (s : State) : (s.draw).errorWindow = s.errorWindow := rfl
@[simp] theorem draw_lasting (s : State) : (s.draw).lasting = s.lasting := rfl
@[simp] theorem draw_pageFaults (s : State) : (s.draw).pageFaults = s.pageFaults := rfl
@[simp] theorem draw_written (s : State) : (s.draw).written = s.written := rfl
@[simp] theorem draw_served (s : State) : (s.draw).served = s.served := rfl
@[simp] theorem draw_roused (s : State) : (s.draw).roused = s.roused := rfl
@[simp] theorem draw_irqs (s : State) : (s.draw).irqs = s.irqs := rfl
@[simp] theorem draw_replies (s : State) : (s.draw).replies = s.replies := rfl
@[simp] theorem draw_peers (s : State) : (s.draw).peers = s.peers := rfl
@[simp] theorem draw_boot (s : State) : (s.draw).boot = s.boot := rfl
@[simp] theorem draw_tap (s : State) : (s.draw).tap = s.tap := rfl
@[simp] theorem draw_now (s : State) : (s.draw).now = s.now := rfl
@[simp] theorem draw_plan (s : State) : (s.draw).plan = s.plan := rfl
@[simp] theorem draw_turn (s : State) : (s.draw).turn = s.turn := rfl
@[simp] theorem draw_cur (s : State) : (s.draw).cur = s.cur := rfl
@[simp] theorem draw_curBlk (s : State) : (s.draw).curBlk = s.curBlk := rfl
@[simp] theorem draw_curIx (s : State) : (s.draw).curIx = s.curIx := rfl
@[simp] theorem draw_site (s : State) : (s.draw).site = s.site := rfl
@[simp] theorem draw_choice (s : State) : (s.draw).choice = s.choice := rfl

/-! ### Accessors of what an update does not touch -/

@[simp] theorem setSeq_region (s : State) (q : Nat) (x : Seq) (k' : Nat) : (s.setSeq q x).region k' = s.region k' := rfl
@[simp] theorem setSeq_chan (s : State) (q : Nat) (x : Seq) (k' : Nat) : (s.setSeq q x).chan k' = s.chan k' := rfl
@[simp] theorem setSeq_task (s : State) (q : Nat) (x : Seq) (k' : Nat) : (s.setSeq q x).task k' = s.task k' := rfl
@[simp] theorem setSeq_race (s : State) (q : Nat) (x : Seq) (k' : Nat) : (s.setSeq q x).race k' = s.race k' := rfl
@[simp] theorem setSeq_group (s : State) (q : Nat) (x : Seq) (k' : Nat) : (s.setSeq q x).group k' = s.group k' := rfl
@[simp] theorem setSeq_part (s : State) (q : Nat) (x : Seq) (k' : Nat) : (s.setSeq q x).part k' = s.part k' := rfl
@[simp] theorem setSeq_peer (s : State) (q : Nat) (x : Seq) (k' : Nat) : (s.setSeq q x).peer k' = s.peer k' := rfl
@[simp] theorem updSeq_region (s : State) (q : Nat) (f : Seq → Seq) (k' : Nat) : (s.updSeq q f).region k' = s.region k' := rfl
@[simp] theorem updSeq_chan (s : State) (q : Nat) (f : Seq → Seq) (k' : Nat) : (s.updSeq q f).chan k' = s.chan k' := rfl
@[simp] theorem updSeq_task (s : State) (q : Nat) (f : Seq → Seq) (k' : Nat) : (s.updSeq q f).task k' = s.task k' := rfl
@[simp] theorem updSeq_race (s : State) (q : Nat) (f : Seq → Seq) (k' : Nat) : (s.updSeq q f).race k' = s.race k' := rfl
@[simp] theorem updSeq_group (s : State) (q : Nat) (f : Seq → Seq) (k' : Nat) : (s.updSeq q f).group k' = s.group k' := rfl
@[simp] theorem updSeq_part (s : State) (q : Nat) (f : Seq → Seq) (k' : Nat) : (s.updSeq q f).part k' = s.part k' := rfl
@[simp] theorem updSeq_peer (s : State) (q : Nat) (f : Seq → Seq) (k' : Nat) : (s.updSeq q f).peer k' = s.peer k' := rfl
@[simp] theorem setBlk_region (s : State) (q n : Nat) (b : Blk) (k' : Nat) : (s.setBlk q n b).region k' = s.region k' := rfl
@[simp] theorem setBlk_chan (s : State) (q n : Nat) (b : Blk) (k' : Nat) : (s.setBlk q n b).chan k' = s.chan k' := rfl
@[simp] theorem setBlk_task (s : State) (q n : Nat) (b : Blk) (k' : Nat) : (s.setBlk q n b).task k' = s.task k' := rfl
@[simp] theorem setBlk_race (s : State) (q n : Nat) (b : Blk) (k' : Nat) : (s.setBlk q n b).race k' = s.race k' := rfl
@[simp] theorem setBlk_group (s : State) (q n : Nat) (b : Blk) (k' : Nat) : (s.setBlk q n b).group k' = s.group k' := rfl
@[simp] theorem setBlk_part (s : State) (q n : Nat) (b : Blk) (k' : Nat) : (s.setBlk q n b).part k' = s.part k' := rfl
@[simp] theorem setBlk_peer (s : State) (q n : Nat) (b : Blk) (k' : Nat) : (s.setBlk q n b).peer k' = s.peer k' := rfl
@[simp] theorem setRegion_seq (s : State) (r : Nat) (x : Region) (k' : Nat) : (s.setRegion r x).seq k' = s.seq k' := rfl
@[simp] theorem setRegion_chan (s : State) (r : Nat) (x : Region) (k' : Nat) : (s.setRegion r x).chan k' = s.chan k' := rfl
@[simp] theorem setRegion_task (s : State) (r : Nat) (x : Region) (k' : Nat) : (s.setRegion r x).task k' = s.task k' := rfl
@[simp] theorem setRegion_race (s : State) (r : Nat) (x : Region) (k' : Nat) : (s.setRegion r x).race k' = s.race k' := rfl
@[simp] theorem setRegion_group (s : State) (r : Nat) (x : Region) (k' : Nat) : (s.setRegion r x).group k' = s.group k' := rfl
@[simp] theorem setRegion_part (s : State) (r : Nat) (x : Region) (k' : Nat) : (s.setRegion r x).part k' = s.part k' := rfl
@[simp] theorem setRegion_peer (s : State) (r : Nat) (x : Region) (k' : Nat) : (s.setRegion r x).peer k' = s.peer k' := rfl
@[simp] theorem updRegion_seq (s : State) (r : Nat) (f : Region → Region) (k' : Nat) : (s.updRegion r f).seq k' = s.seq k' := rfl
@[simp] theorem updRegion_chan (s : State) (r : Nat) (f : Region → Region) (k' : Nat) : (s.updRegion r f).chan k' = s.chan k' := rfl
@[simp] theorem updRegion_task (s : State) (r : Nat) (f : Region → Region) (k' : Nat) : (s.updRegion r f).task k' = s.task k' := rfl
@[simp] theorem updRegion_race (s : State) (r : Nat) (f : Region → Region) (k' : Nat) : (s.updRegion r f).race k' = s.race k' := rfl
@[simp] theorem updRegion_group (s : State) (r : Nat) (f : Region → Region) (k' : Nat) : (s.updRegion r f).group k' = s.group k' := rfl
@[simp] theorem updRegion_part (s : State) (r : Nat) (f : Region → Region) (k' : Nat) : (s.updRegion r f).part k' = s.part k' := rfl
@[simp] theorem updRegion_peer (s : State) (r : Nat) (f : Region → Region) (k' : Nat) : (s.updRegion r f).peer k' = s.peer k' := rfl
@[simp] theorem setChan_seq (s : State) (k : Nat) (x : Chan) (k' : Nat) : (s.setChan k x).seq k' = s.seq k' := rfl
@[simp] theorem setChan_region (s : State) (k : Nat) (x : Chan) (k' : Nat) : (s.setChan k x).region k' = s.region k' := rfl
@[simp] theorem setChan_task (s : State) (k : Nat) (x : Chan) (k' : Nat) : (s.setChan k x).task k' = s.task k' := rfl
@[simp] theorem setChan_race (s : State) (k : Nat) (x : Chan) (k' : Nat) : (s.setChan k x).race k' = s.race k' := rfl
@[simp] theorem setChan_group (s : State) (k : Nat) (x : Chan) (k' : Nat) : (s.setChan k x).group k' = s.group k' := rfl
@[simp] theorem setChan_part (s : State) (k : Nat) (x : Chan) (k' : Nat) : (s.setChan k x).part k' = s.part k' := rfl
@[simp] theorem setChan_peer (s : State) (k : Nat) (x : Chan) (k' : Nat) : (s.setChan k x).peer k' = s.peer k' := rfl
@[simp] theorem updChan_seq (s : State) (k : Nat) (f : Chan → Chan) (k' : Nat) : (s.updChan k f).seq k' = s.seq k' := rfl
@[simp] theorem updChan_region (s : State) (k : Nat) (f : Chan → Chan) (k' : Nat) : (s.updChan k f).region k' = s.region k' := rfl
@[simp] theorem updChan_task (s : State) (k : Nat) (f : Chan → Chan) (k' : Nat) : (s.updChan k f).task k' = s.task k' := rfl
@[simp] theorem updChan_race (s : State) (k : Nat) (f : Chan → Chan) (k' : Nat) : (s.updChan k f).race k' = s.race k' := rfl
@[simp] theorem updChan_group (s : State) (k : Nat) (f : Chan → Chan) (k' : Nat) : (s.updChan k f).group k' = s.group k' := rfl
@[simp] theorem updChan_part (s : State) (k : Nat) (f : Chan → Chan) (k' : Nat) : (s.updChan k f).part k' = s.part k' := rfl
@[simp] theorem updChan_peer (s : State) (k : Nat) (f : Chan → Chan) (k' : Nat) : (s.updChan k f).peer k' = s.peer k' := rfl
@[simp] theorem setTask_seq (s : State) (k : Nat) (x : Task) (k' : Nat) : (s.setTask k x).seq k' = s.seq k' := rfl
@[simp] theorem setTask_region (s : State) (k : Nat) (x : Task) (k' : Nat) : (s.setTask k x).region k' = s.region k' := rfl
@[simp] theorem setTask_chan (s : State) (k : Nat) (x : Task) (k' : Nat) : (s.setTask k x).chan k' = s.chan k' := rfl
@[simp] theorem setTask_race (s : State) (k : Nat) (x : Task) (k' : Nat) : (s.setTask k x).race k' = s.race k' := rfl
@[simp] theorem setTask_group (s : State) (k : Nat) (x : Task) (k' : Nat) : (s.setTask k x).group k' = s.group k' := rfl
@[simp] theorem setTask_part (s : State) (k : Nat) (x : Task) (k' : Nat) : (s.setTask k x).part k' = s.part k' := rfl
@[simp] theorem setTask_peer (s : State) (k : Nat) (x : Task) (k' : Nat) : (s.setTask k x).peer k' = s.peer k' := rfl
@[simp] theorem updTask_seq (s : State) (k : Nat) (f : Task → Task) (k' : Nat) : (s.updTask k f).seq k' = s.seq k' := rfl
@[simp] theorem updTask_region (s : State) (k : Nat) (f : Task → Task) (k' : Nat) : (s.updTask k f).region k' = s.region k' := rfl
@[simp] theorem updTask_chan (s : State) (k : Nat) (f : Task → Task) (k' : Nat) : (s.updTask k f).chan k' = s.chan k' := rfl
@[simp] theorem updTask_race (s : State) (k : Nat) (f : Task → Task) (k' : Nat) : (s.updTask k f).race k' = s.race k' := rfl
@[simp] theorem updTask_group (s : State) (k : Nat) (f : Task → Task) (k' : Nat) : (s.updTask k f).group k' = s.group k' := rfl
@[simp] theorem updTask_part (s : State) (k : Nat) (f : Task → Task) (k' : Nat) : (s.updTask k f).part k' = s.part k' := rfl
@[simp] theorem updTask_peer (s : State) (k : Nat) (f : Task → Task) (k' : Nat) : (s.updTask k f).peer k' = s.peer k' := rfl
@[simp] theorem setRace_seq (s : State) (d : Nat) (x : Headrace) (k' : Nat) : (s.setRace d x).seq k' = s.seq k' := rfl
@[simp] theorem setRace_region (s : State) (d : Nat) (x : Headrace) (k' : Nat) : (s.setRace d x).region k' = s.region k' := rfl
@[simp] theorem setRace_chan (s : State) (d : Nat) (x : Headrace) (k' : Nat) : (s.setRace d x).chan k' = s.chan k' := rfl
@[simp] theorem setRace_task (s : State) (d : Nat) (x : Headrace) (k' : Nat) : (s.setRace d x).task k' = s.task k' := rfl
@[simp] theorem setRace_group (s : State) (d : Nat) (x : Headrace) (k' : Nat) : (s.setRace d x).group k' = s.group k' := rfl
@[simp] theorem setRace_part (s : State) (d : Nat) (x : Headrace) (k' : Nat) : (s.setRace d x).part k' = s.part k' := rfl
@[simp] theorem setRace_peer (s : State) (d : Nat) (x : Headrace) (k' : Nat) : (s.setRace d x).peer k' = s.peer k' := rfl
@[simp] theorem setGroup_seq (s : State) (g : Nat) (x : GroupState) (k' : Nat) : (s.setGroup g x).seq k' = s.seq k' := rfl
@[simp] theorem setGroup_region (s : State) (g : Nat) (x : GroupState) (k' : Nat) : (s.setGroup g x).region k' = s.region k' := rfl
@[simp] theorem setGroup_chan (s : State) (g : Nat) (x : GroupState) (k' : Nat) : (s.setGroup g x).chan k' = s.chan k' := rfl
@[simp] theorem setGroup_task (s : State) (g : Nat) (x : GroupState) (k' : Nat) : (s.setGroup g x).task k' = s.task k' := rfl
@[simp] theorem setGroup_race (s : State) (g : Nat) (x : GroupState) (k' : Nat) : (s.setGroup g x).race k' = s.race k' := rfl
@[simp] theorem setGroup_part (s : State) (g : Nat) (x : GroupState) (k' : Nat) : (s.setGroup g x).part k' = s.part k' := rfl
@[simp] theorem setGroup_peer (s : State) (g : Nat) (x : GroupState) (k' : Nat) : (s.setGroup g x).peer k' = s.peer k' := rfl
@[simp] theorem setPart_seq (s : State) (p : Nat) (x : Part) (k' : Nat) : (s.setPart p x).seq k' = s.seq k' := rfl
@[simp] theorem setPart_region (s : State) (p : Nat) (x : Part) (k' : Nat) : (s.setPart p x).region k' = s.region k' := rfl
@[simp] theorem setPart_chan (s : State) (p : Nat) (x : Part) (k' : Nat) : (s.setPart p x).chan k' = s.chan k' := rfl
@[simp] theorem setPart_task (s : State) (p : Nat) (x : Part) (k' : Nat) : (s.setPart p x).task k' = s.task k' := rfl
@[simp] theorem setPart_race (s : State) (p : Nat) (x : Part) (k' : Nat) : (s.setPart p x).race k' = s.race k' := rfl
@[simp] theorem setPart_group (s : State) (p : Nat) (x : Part) (k' : Nat) : (s.setPart p x).group k' = s.group k' := rfl
@[simp] theorem setPart_peer (s : State) (p : Nat) (x : Part) (k' : Nat) : (s.setPart p x).peer k' = s.peer k' := rfl
@[simp] theorem setPeer_seq (s : State) (p : Nat) (x : Peer) (k' : Nat) : (s.setPeer p x).seq k' = s.seq k' := rfl
@[simp] theorem setPeer_region (s : State) (p : Nat) (x : Peer) (k' : Nat) : (s.setPeer p x).region k' = s.region k' := rfl
@[simp] theorem setPeer_chan (s : State) (p : Nat) (x : Peer) (k' : Nat) : (s.setPeer p x).chan k' = s.chan k' := rfl
@[simp] theorem setPeer_task (s : State) (p : Nat) (x : Peer) (k' : Nat) : (s.setPeer p x).task k' = s.task k' := rfl
@[simp] theorem setPeer_race (s : State) (p : Nat) (x : Peer) (k' : Nat) : (s.setPeer p x).race k' = s.race k' := rfl
@[simp] theorem setPeer_group (s : State) (p : Nat) (x : Peer) (k' : Nat) : (s.setPeer p x).group k' = s.group k' := rfl
@[simp] theorem setPeer_part (s : State) (p : Nat) (x : Peer) (k' : Nat) : (s.setPeer p x).part k' = s.part k' := rfl
@[simp] theorem setSbuf_seq (s : State) (h : Nat) (b : SBuf) (k' : Nat) : (s.setSbuf h b).seq k' = s.seq k' := rfl
@[simp] theorem setSbuf_region (s : State) (h : Nat) (b : SBuf) (k' : Nat) : (s.setSbuf h b).region k' = s.region k' := rfl
@[simp] theorem setSbuf_chan (s : State) (h : Nat) (b : SBuf) (k' : Nat) : (s.setSbuf h b).chan k' = s.chan k' := rfl
@[simp] theorem setSbuf_task (s : State) (h : Nat) (b : SBuf) (k' : Nat) : (s.setSbuf h b).task k' = s.task k' := rfl
@[simp] theorem setSbuf_race (s : State) (h : Nat) (b : SBuf) (k' : Nat) : (s.setSbuf h b).race k' = s.race k' := rfl
@[simp] theorem setSbuf_group (s : State) (h : Nat) (b : SBuf) (k' : Nat) : (s.setSbuf h b).group k' = s.group k' := rfl
@[simp] theorem setSbuf_part (s : State) (h : Nat) (b : SBuf) (k' : Nat) : (s.setSbuf h b).part k' = s.part k' := rfl
@[simp] theorem setSbuf_peer (s : State) (h : Nat) (b : SBuf) (k' : Nat) : (s.setSbuf h b).peer k' = s.peer k' := rfl
@[simp] theorem setTap_seq (s : State) (i : BitVec 8) (d : BitVec 96) (k' : Nat) : (s.setTap i d).seq k' = s.seq k' := rfl
@[simp] theorem setTap_region (s : State) (i : BitVec 8) (d : BitVec 96) (k' : Nat) : (s.setTap i d).region k' = s.region k' := rfl
@[simp] theorem setTap_chan (s : State) (i : BitVec 8) (d : BitVec 96) (k' : Nat) : (s.setTap i d).chan k' = s.chan k' := rfl
@[simp] theorem setTap_task (s : State) (i : BitVec 8) (d : BitVec 96) (k' : Nat) : (s.setTap i d).task k' = s.task k' := rfl
@[simp] theorem setTap_race (s : State) (i : BitVec 8) (d : BitVec 96) (k' : Nat) : (s.setTap i d).race k' = s.race k' := rfl
@[simp] theorem setTap_group (s : State) (i : BitVec 8) (d : BitVec 96) (k' : Nat) : (s.setTap i d).group k' = s.group k' := rfl
@[simp] theorem setTap_part (s : State) (i : BitVec 8) (d : BitVec 96) (k' : Nat) : (s.setTap i d).part k' = s.part k' := rfl
@[simp] theorem setTap_peer (s : State) (i : BitVec 8) (d : BitVec 96) (k' : Nat) : (s.setTap i d).peer k' = s.peer k' := rfl
@[simp] theorem reply_seq (s : State) (r : Reply) (k' : Nat) : (s.reply r).seq k' = s.seq k' := rfl
@[simp] theorem reply_region (s : State) (r : Reply) (k' : Nat) : (s.reply r).region k' = s.region k' := rfl
@[simp] theorem reply_chan (s : State) (r : Reply) (k' : Nat) : (s.reply r).chan k' = s.chan k' := rfl
@[simp] theorem reply_task (s : State) (r : Reply) (k' : Nat) : (s.reply r).task k' = s.task k' := rfl
@[simp] theorem reply_race (s : State) (r : Reply) (k' : Nat) : (s.reply r).race k' = s.race k' := rfl
@[simp] theorem reply_group (s : State) (r : Reply) (k' : Nat) : (s.reply r).group k' = s.group k' := rfl
@[simp] theorem reply_part (s : State) (r : Reply) (k' : Nat) : (s.reply r).part k' = s.part k' := rfl
@[simp] theorem reply_peer (s : State) (r : Reply) (k' : Nat) : (s.reply r).peer k' = s.peer k' := rfl
@[simp] theorem draw_seq (s : State) (k' : Nat) : (s.draw).seq k' = s.seq k' := rfl
@[simp] theorem draw_region (s : State) (k' : Nat) : (s.draw).region k' = s.region k' := rfl
@[simp] theorem draw_chan (s : State) (k' : Nat) : (s.draw).chan k' = s.chan k' := rfl
@[simp] theorem draw_task (s : State) (k' : Nat) : (s.draw).task k' = s.task k' := rfl
@[simp] theorem draw_race (s : State) (k' : Nat) : (s.draw).race k' = s.race k' := rfl
@[simp] theorem draw_group (s : State) (k' : Nat) : (s.draw).group k' = s.group k' := rfl
@[simp] theorem draw_part (s : State) (k' : Nat) : (s.draw).part k' = s.part k' := rfl
@[simp] theorem draw_peer (s : State) (k' : Nat) : (s.draw).peer k' = s.peer k' := rfl

end Sys2Proof.Machine
end

