-- ==== Sys2Proof/Laws/Tab.lean ====
section
/-! SUPPORT. Reading after writing, for sparse tables and for the parties that stand in them; memory and its canonical
form. -/

namespace Sys2Proof

variable {α : Type}

@[simp] theorem Tab.find_nil (a : Nat) : Tab.find? ([] : Tab α) a = none := rfl

theorem Tab.find_put (t : Tab α) (a b : Nat) (v : α) :
    Tab.find? (Tab.put t a v) b = if a = b then some v else Tab.find? t b := by
  induction t with
  | nil => simp [Tab.put, Tab.find?]
  | cons e t ih =>
    obtain ⟨k, w⟩ := e
    unfold Tab.put
    split
    · next h =>
      subst h
      simp only [Tab.find?]
      split <;> rfl
    · split
      · next h h' =>
        simp only [Tab.find?]
      · next h h' =>
        simp only [Tab.find?, ih]
        by_cases hb : k = b
        · subst hb; simp [Ne.symm h]
        · simp [hb]

@[simp] theorem Tab.find_put_same (t : Tab α) (a : Nat) (v : α) : Tab.find? (Tab.put t a v) a = some v := by
  simp [Tab.find_put]

theorem Tab.find_put_ne (t : Tab α) {a b : Nat} (v : α) (h : a ≠ b) : Tab.find? (Tab.put t a v) b = Tab.find? t b := by
  simp [Tab.find_put, h]

theorem Tab.find_del (t : Tab α) (a b : Nat) : Tab.find? (Tab.del t a) b = if a = b then none else Tab.find? t b := by
  induction t with
  | nil => simp [Tab.del, Tab.find?]
  | cons e t ih =>
    obtain ⟨k, w⟩ := e
    unfold Tab.del at ih ⊢
    by_cases hk : k = a
    · subst hk
      simp only [List.filter, bne_self_eq_false, ih, Tab.find?]
      split <;> simp_all
    · have : (k != a) = true := by simp [hk]
      simp only [List.filter, this, Tab.find?, ih]
      by_cases hb : k = b
      · subst hb; simp [Ne.symm hk]
      · simp [hb]

theorem Tab.find_set [BEq α] [LawfulBEq α] (t : Tab α) (d : α) (a b : Nat) (v : α) :
    (Tab.find? (Tab.set t d a v) b).getD d = if a = b then v else (Tab.find? t b).getD d := by
  unfold Tab.set
  split
  · next h =>
    rw [Tab.find_del]
    split <;> simp_all
  · rw [Tab.find_put]
    split <;> simp

theorem Tab.getD_put (t : Tab α) (a b : Nat) (v d : α) :
    Tab.getD (Tab.put t a v) b d = if a = b then v else Tab.getD t b d := by
  unfold Tab.getD
  rw [Tab.find_put]
  split <;> simp

theorem Tab.getD_set [BEq α] [LawfulBEq α] (t : Tab α) (d : α) (a b : Nat) (v : α) :
    Tab.getD (Tab.set t d a v) b d = if a = b then v else Tab.getD t b d := Tab.find_set t d a b v

theorem Tab.find_map {β : Type} (t : Tab α) (g : Nat × α → β) (b : Nat) :
    Tab.find? (t.map fun e => (e.1, g e)) b = (Tab.find? t b).map fun v => g (b, v) := by
  induction t with
  | nil => rfl
  | cons e t ih =>
    obtain ⟨k, w⟩ := e
    simp only [List.map, Tab.find?]
    split
    · next h => subst h; rfl
    · exact ih

theorem Tab.mem_of_find {t : Tab α} {a : Nat} {v : α} (h : Tab.find? t a = some v) : (a, v) ∈ t := by
  induction t with
  | nil => simp at h
  | cons e t ih =>
    obtain ⟨k, w⟩ := e
    simp only [Tab.find?] at h
    split at h
    · next hk => subst hk; cases h; exact List.mem_cons_self ..
    · exact List.mem_cons_of_mem _ (ih h)

/-! ## Order of keys -/

/-- Every key of a table lies above a bound. -/
theorem Tab.sorted_cons (k : Nat) (w : α) (t : Tab α) :
    Tab.sorted ((k, w) :: t) = true ↔ (∀ e ∈ t, k < e.1) ∧ Tab.sorted t = true := by
  induction t generalizing k w with
  | nil => simp [Tab.sorted]
  | cons e t ih =>
    obtain ⟨j, v⟩ := e
    simp only [Tab.sorted, Bool.and_eq_true, decide_eq_true_eq, List.mem_cons, forall_eq_or_imp]
    constructor
    · rintro ⟨h, hs⟩
      exact ⟨⟨h, fun e he => Nat.lt_trans h ((ih j v).1 hs |>.1 e he)⟩, hs⟩
    · rintro ⟨⟨h, -⟩, hs⟩
      exact ⟨h, hs⟩

theorem Tab.mem_put {t : Tab α} {a : Nat} {v : α} {e : Nat × α} (h : e ∈ Tab.put t a v) : e = (a, v) ∨ e ∈ t := by
  induction t with
  | nil => simpa [Tab.put] using h
  | cons x t ih =>
    obtain ⟨k, w⟩ := x
    unfold Tab.put at h
    split at h
    · rcases List.mem_cons.1 h with h | h
      · exact .inl h
      · exact .inr (List.mem_cons_of_mem _ h)
    · split at h
      · rcases List.mem_cons.1 h with h | h
        · exact .inl h
        · exact .inr h
      · rcases List.mem_cons.1 h with h | h
        · exact .inr (h ▸ List.mem_cons_self ..)
        · exact (ih h).imp id (List.mem_cons_of_mem _)

theorem Tab.sorted_put (t : Tab α) (a : Nat) (v : α) (h : Tab.sorted t = true) : Tab.sorted (Tab.put t a v) = true := by
  induction t with
  | nil => rfl
  | cons x t ih =>
    obtain ⟨k, w⟩ := x
    have hk := (Tab.sorted_cons k w t).1 h
    unfold Tab.put
    split
    · next e => subst e; exact (Tab.sorted_cons _ _ _).2 hk
    · split
      · next hlt =>
        exact (Tab.sorted_cons _ _ _).2 ⟨fun e he => by
          rcases List.mem_cons.1 he with rfl | he
          · exact hlt
          · exact Nat.lt_trans hlt (hk.1 e he), h⟩
      · next hne hlt =>
        refine (Tab.sorted_cons _ _ _).2 ⟨fun e he => ?_, ih hk.2⟩
        rcases Tab.mem_put he with rfl | he
        · simp only; omega
        · exact hk.1 e he

theorem Tab.sorted_filter (t : Tab α) (p : Nat × α → Bool) (h : Tab.sorted t = true) :
    Tab.sorted (List.filter p t) = true := by
  induction t with
  | nil => rfl
  | cons x t ih =>
    obtain ⟨k, w⟩ := x
    have hk := (Tab.sorted_cons k w t).1 h
    simp only [List.filter]
    split
    · exact (Tab.sorted_cons _ _ _).2 ⟨fun e he => hk.1 e ((List.mem_filter.1 he).1), ih hk.2⟩
    · exact ih hk.2

theorem Tab.sorted_set [BEq α] (t : Tab α) (d : α) (a : Nat) (v : α) (h : Tab.sorted t = true) :
    Tab.sorted (Tab.set t d a v) = true := by
  unfold Tab.set
  split
  · exact Tab.sorted_filter _ _ h
  · exact Tab.sorted_put _ _ _ h

namespace Machine

/-! ## Parties -/

theorem seq_setSeq (s : State) (q p : Nat) (x : Seq) : (s.setSeq q x).seq p = if q = p then x else s.seq p :=
  Tab.getD_put ..

theorem seq_updSeq (s : State) (q p : Nat) (f : Seq → Seq) :
    (s.updSeq q f).seq p = if q = p then f (s.seq q) else s.seq p := Tab.getD_put ..

theorem region_setRegion (s : State) (q p : Nat) (x : Region) :
    (s.setRegion q x).region p = if q = p then x else s.region p := Tab.getD_put ..

theorem region_updRegion (s : State) (q p : Nat) (f : Region → Region) :
    (s.updRegion q f).region p = if q = p then f (s.region q) else s.region p := Tab.getD_put ..

theorem chan_setChan (s : State) (q p : Nat) (x : Chan) : (s.setChan q x).chan p = if q = p then x else s.chan p :=
  Tab.getD_put ..

theorem chan_updChan (s : State) (q p : Nat) (f : Chan → Chan) :
    (s.updChan q f).chan p = if q = p then f (s.chan q) else s.chan p := Tab.getD_put ..

theorem task_setTask (s : State) (q p : Nat) (x : Task) : (s.setTask q x).task p = if q = p then x else s.task p :=
  Tab.getD_put ..

theorem task_updTask (s : State) (q p : Nat) (f : Task → Task) :
    (s.updTask q f).task p = if q = p then f (s.task q) else s.task p := Tab.getD_put ..

theorem race_setRace (s : State) (q p : Nat) (x : Headrace) : (s.setRace q x).race p = if q = p then x else s.race p :=
  Tab.getD_put ..

theorem group_setGroup (s : State) (q p : Nat) (x : GroupState) :
    (s.setGroup q x).group p = if q = p then x else s.group p := Tab.getD_put ..

theorem part_setPart (s : State) (q p : Nat) (x : Part) : (s.setPart q x).part p = if q = p then x else s.part p :=
  Tab.getD_put ..

theorem peer_setPeer (s : State) (q p : Nat) (x : Peer) : (s.setPeer q x).peer p = if q = p then x else s.peer p :=
  Tab.getD_put ..

theorem flag_setFlag (s : State) (f g : Nat) (v : Bool) : (s.setFlag f v).flag g = if f = g then v else s.flag g :=
  Tab.getD_set ..

/-! ## Memory -/

theorem Memory.byte_putByte (m : List Host.Cell) (a b : Nat) (v : Byte) :
    Memory.byte (Memory.putByte m a v) b = if a = b then v else Memory.byte m b := Tab.getD_set ..

/-- A write leaves every byte outside it alone. -/
theorem Memory.byte_putBytes_ne (m : List Host.Cell) (a b : Nat) (bs : List Byte) (h : b < a ∨ a + bs.length ≤ b) :
    Memory.byte (Memory.putBytes m a bs) b = Memory.byte m b := by
  induction bs generalizing m a with
  | nil => rfl
  | cons x t ih =>
    simp only [List.length_cons] at h
    rw [Memory.putBytes, ih _ _ (by omega), Memory.byte_putByte, if_neg (by omega)]

/-- A read after a write to the same bytes gives what was written. -/
theorem Memory.bytes_putBytes (m : List Host.Cell) (a : Nat) (bs : List Byte) :
    Memory.bytes (Memory.putBytes m a bs) a bs.length = bs := by
  induction bs generalizing m a with
  | nil => rfl
  | cons x t ih =>
    simp only [List.length_cons, Memory.bytes, Memory.putBytes, ih]
    rw [Memory.byte_putBytes_ne _ _ _ _ (by omega), Memory.byte_putByte, if_pos rfl]

theorem Memory.wf_iff (m : List Host.Cell) :
    Memory.wf m = true ↔ Tab.sorted m = true ∧ ∀ e ∈ m, e.2 ≠ blankByte := by
  simp [Memory.wf]

theorem Memory.wf_nil : Memory.wf [] = true := rfl

theorem Memory.wf_filter (m : List Host.Cell) (p : Host.Cell → Bool) (h : Memory.wf m = true) :
    Memory.wf (m.filter p) = true := by
  rw [Memory.wf_iff] at *
  exact ⟨Tab.sorted_filter _ _ h.1, fun e he => h.2 e ((List.mem_filter.1 he).1)⟩

theorem Memory.wf_putByte (m : List Host.Cell) (a : Nat) (v : Byte) (h : Memory.wf m = true) :
    Memory.wf (Memory.putByte m a v) = true := by
  unfold Memory.putByte Tab.set
  split
  · exact Memory.wf_filter _ _ h
  · next hv =>
    rw [Memory.wf_iff] at *
    refine ⟨Tab.sorted_put _ _ _ h.1, fun e he => ?_⟩
    rcases Tab.mem_put he with rfl | he
    · simpa using hv
    · exact h.2 e he

theorem Memory.wf_putBytes (m : List Host.Cell) (a : Nat) (bs : List Byte) (h : Memory.wf m = true) :
    Memory.wf (Memory.putBytes m a bs) = true := by
  induction bs generalizing m a with
  | nil => exact h
  | cons x t ih => exact ih _ _ (Memory.wf_putByte _ _ _ h)

theorem Memory.wf_wipe (m : List Host.Cell) (a n : Nat) (h : Memory.wf m = true) :
    Memory.wf (Memory.wipe m a n) = true := Memory.wf_filter _ _ h

theorem Memory.wf_move (m : List Host.Cell) (src dst n : Nat) (h : Memory.wf m = true) :
    Memory.wf (Memory.move m src dst n) = true := by
  unfold Memory.move
  generalize Memory.cells m src n = l
  have h' := Memory.wf_wipe m dst n h
  generalize Memory.wipe m dst n = m' at h'
  induction l generalizing m' with
  | nil => exact h'
  | cons e l ih => exact ih _ (Memory.wf_putByte _ _ _ h')

end Machine

end Sys2Proof
end

