-- ==== Sys2Proof/Laws/Keeps.lean ====
section
/-! SUPPORT. Every operation over a state keeps memory in canonical form; most leave memory as it is. -/

set_option linter.unusedSimpArgs false

namespace Sys2Proof.Machine

theorem wf_ite (c : Prop) [Decidable c] (a b : State) (ha : Memory.wf a.mem = true) (hb : Memory.wf b.mem = true) :
    Memory.wf (if c then a else b).mem = true := by
  split <;> assumption

theorem mem_ite (c : Prop) [Decidable c] (a b s : State) (ha : a.mem = s.mem) (hb : b.mem = s.mem) :
    (if c then a else b).mem = s.mem := by
  split <;> assumption

/-- A step of a fold leaves memory as it is, or in canonical form. -/
def keepsMem {α : Type} (f : State → α → State) : Prop := ∀ (t : State) (a : α), (f t a).mem = t.mem
def keepsWf {α : Type} (f : State → α → State) : Prop :=
  ∀ (t : State) (a : α), Memory.wf t.mem = true → Memory.wf (f t a).mem = true

@[simp] theorem keepsMem_iff {α : Type} (f : State → α → State) :
    keepsMem f ↔ ∀ (t : State) (a : α), (f t a).mem = t.mem := .rfl
@[simp] theorem keepsWf_iff {α : Type} (f : State → α → State) :
    keepsWf f ↔ ∀ (t : State) (a : α), Memory.wf t.mem = true → Memory.wf (f t a).mem = true := .rfl

theorem foldl_wf {α : Type} (f : State → α → State) (l : List α) (s : State) (hf : keepsWf f)
    (h : Memory.wf s.mem = true) : Memory.wf (l.foldl f s).mem = true := by
  induction l generalizing s with
  | nil => exact h
  | cons a l ih => exact ih _ (hf s a h)

theorem foldl_mem {α : Type} (f : State → α → State) (l : List α) (s : State) (hf : keepsMem f) :
    (l.foldl f s).mem = s.mem := by
  induction l generalizing s with
  | nil => rfl
  | cons a l ih => exact (ih _).trans (hf s a)

@[simp] theorem updCtx_mem (s : State) (c : Nat) (f : Ctx → Ctx) : (s.updCtx c f).mem = s.mem := by
  unfold State.updCtx
  split <;> simp

@[simp] theorem addEnergy_mem (s : State) (kind ix amount : Nat) : (s.addEnergy kind ix amount).mem = s.mem := rfl

@[simp] theorem rouse_mem (s : State) (r : Nat) : (s.rouse r).mem = s.mem := by
  unfold State.rouse
  split <;> rfl

@[simp] theorem countLink_mem (s : State) (link bits : Nat) : (s.countLink link bits).mem = s.mem := by
  simp [State.countLink]

@[simp] theorem countBehind_mem (s : State) (l : List Nat) (a : Nat) : (s.countBehind l a).mem = s.mem := rfl
@[simp] theorem countWalk_mem (s : State) (a : Nat) : (s.countWalk a).mem = s.mem := rfl

@[simp] theorem countHbm_mem (s : State) (a n : Nat) : (s.countHbm a n).mem = s.mem := by
  unfold State.countHbm
  (repeat' split) <;> simp

@[simp] theorem store_wf (s : State) (a : Nat) (bs : List Byte) (wf : Memory.wf s.mem = true) : Memory.wf (s.store a bs).mem = true := by
  exact Memory.wf_putBytes _ _ _ wf

@[simp] theorem countSeqWalk_mem (s : State) (q a : Nat) : (s.countSeqWalk q a).mem = s.mem := by
  unfold State.countSeqWalk
  split <;> rfl

@[simp] theorem countCached_mem (s : State) (q va pa : Nat) : (s.countCached q va pa).mem = s.mem := by
  unfold State.countCached
  dsimp only
  split <;> simp

@[simp] theorem walked_mem (s : State) (vas : List Nat) : (s.walked vas).mem = s.mem := by
  simp [State.walked, foldl_mem]

@[simp] theorem markPoison_mem (s : State) (g : Nat) : (s.markPoison g).mem = s.mem := by
  simp [State.markPoison]

@[simp] theorem logAs_wf (s : State) (q region : Nat) (site : Option Nat) (code : Nat) (hdr addr aux : Word) (wf : Memory.wf s.mem = true) : Memory.wf (s.logAs q region site code hdr addr aux).mem = true := by
  unfold State.logAs
  (try dsimp only)
  (repeat' split) <;> first | exact wf | (simp +contextual [foldl_wf, wf_ite, wf]; done) | (simp_all +contextual [foldl_wf, wf_ite]; done)

@[simp] theorem log_wf (s : State) (q : Nat) (site : Option Nat) (code : Nat) (hdr addr aux : Word) (wf : Memory.wf s.mem = true) : Memory.wf (s.log q site code hdr addr aux).mem = true := by
  simp [State.log, wf]

@[simp] theorem setFlag_mem (s : State) (f : Nat) (v : Bool) : (s.setFlag f v).mem = s.mem := by
  rfl

@[simp] theorem latch_mem (s : State) (r : Nat) (bits : BitVec 12) : (s.latch r bits).mem = s.mem := by
  simp [State.latch]

@[simp] theorem setTag_mem (s : State) (r tag : Nat) : (s.setTag r tag).mem = s.mem := by
  unfold State.setTag
  dsimp only
  (repeat' split) <;> simp

@[simp] theorem refreshHeld_mem (s : State) (r : Nat) : (s.refreshHeld r).mem = s.mem := by
  unfold State.refreshHeld
  first
    | (dsimp only; done)
    | ((try dsimp only)
       (repeat' split) <;> first | rfl | (simp [foldl_mem, mem_ite]; done) | (simp_all [foldl_mem, mem_ite]; done))

@[simp] theorem refreshHalts_mem (s : State) (c : Nat) : (s.refreshHalts c).mem = s.mem := by
  unfold State.refreshHalts
  (repeat' split) <;> simp [foldl_mem]


@[simp] theorem countFiring_mem (s : State) (r tenths : Nat) : (s.countFiring r tenths).mem = s.mem := by
  simp [State.countFiring, foldl_mem]

@[simp] theorem moved_mem (s : State) (r : Nat) : (s.moved r).mem = s.mem := by
  rfl

@[simp] theorem logAll_wf (s : State) (r site : Nat) (ls : List LogRec) (wf : Memory.wf s.mem = true) : Memory.wf (s.logAll r site ls).mem = true := by
  simp +contextual [State.logAll, foldl_wf, wf]

@[simp] theorem emptyEntry_mem (s : State) (pa n : Nat) : (s.emptyEntry pa n).mem = s.mem := by
  unfold State.emptyEntry
  split <;> simp

@[simp] theorem readDone_mem (s : State) (ps : List (Nat × Nat)) : (s.readDone ps).mem = s.mem := by
  simp [State.readDone, foldl_mem]

@[simp] theorem storeRuns_wf (s : State) (ps : List (Nat × Nat)) (bs : List Byte) (wf : Memory.wf s.mem = true) :
    Memory.wf (s.storeRuns ps bs).mem = true := by
  induction ps generalizing s bs with
  | nil => exact wf
  | cons p ps ih => exact ih _ _ (by simp [wf])

theorem writeAt_wf {s u : State} {tr : Perm → Nat → Except AccErr Nat} {va : Nat} {bs : List Byte}
    (e : s.writeAt tr va bs = .ok u) (wf : Memory.wf s.mem = true) : Memory.wf u.mem = true := by
  unfold State.writeAt at e
  split at e
  · cases e
  · cases e; simp [wf]

theorem readAt_mem {s u : State} {tr : Perm → Nat → Except AccErr Nat} {va n : Nat} {bs : List Byte}
    (e : s.readAt tr va n = .ok (bs, u)) : u.mem = s.mem := by
  unfold State.readAt at e
  split at e
  · cases e
  · cases e; simp

theorem writeVia_wf {s u : State} {tr : Perm → Nat → Except AccErr Nat} {va : Nat} {bs : List Byte}
    (e : s.writeVia tr va bs = .ok u) (wf : Memory.wf s.mem = true) : Memory.wf u.mem = true := by
  unfold State.writeVia at e
  split at e
  · cases e
  · next h => cases e; simpa using writeAt_wf h wf

theorem readVia_mem {s u : State} {tr : Perm → Nat → Except AccErr Nat} {va n : Nat} {bs : List Byte}
    (e : s.readVia tr va n = .ok (bs, u)) : u.mem = s.mem := by
  unfold State.readVia at e
  split at e
  · cases e
  · next h => cases e; simpa using readAt_mem h

@[simp] theorem imageRead_mem (s : State) (tr : Perm → Nat → Except AccErr Nat) (a : Nat) : (s.imageRead tr a).mem = s.mem := by
  unfold State.imageRead
  split <;> simp

@[simp] theorem writeRing_wf (s : State) (h : Nat) (b : SBuf) (off : Nat) (bs : List Byte) (wf : Memory.wf s.mem = true) : Memory.wf (s.writeRing h b off bs).mem = true := by
  unfold State.writeRing
  (try dsimp only)
  (repeat' split) <;> first | exact wf | (simp +contextual [foldl_wf, wf_ite, wf]; done) | (simp_all +contextual [foldl_wf, wf_ite]; done)

@[simp] theorem pushed_wf (s : State) (h : Nat) (b : SBuf) (t : Token) (off : Option Nat) (wf : Memory.wf s.mem = true) : Memory.wf (s.pushed h b t off).mem = true := by
  unfold State.pushed
  (repeat' split) <;> simp [wf]

@[simp] theorem sendRemote_mem (s : State) (h : Nat) (t : Token) : (s.sendRemote h t).mem = s.mem := by
  simp [State.sendRemote, State.countFrame]

@[simp] theorem setGen_mem (s : State) (cid : Nat) (c : Ctx) (el : Elem) : (s.setGen cid c el).mem = s.mem := by
  rfl

@[simp] theorem declare_wf (s : State) (task : Option Nat) (r site : Nat) (c : SiteCfg) (wf : Memory.wf s.mem = true) : Memory.wf (s.declare task r site c).mem = true := by
  unfold State.declare
  (try dsimp only)
  (repeat' split) <;> first | exact wf | (simp +contextual [foldl_wf, wf_ite, wf]; done) | (simp_all +contextual [foldl_wf, wf_ite]; done)

@[simp] theorem noteExpiry_mem (s : State) (r : Nat) : (s.noteExpiry r).mem = s.mem := by
  rfl

theorem applyFiring_wf (s : State) (r site cid : Nat) (c : Ctx) (el : Elem) (f : Firing)
    (hp : ∀ u : State, Memory.wf u.mem = true → Memory.wf (f.post u).mem = true) (wf : Memory.wf s.mem = true) :
    Memory.wf (s.applyFiring r site cid c el f).mem = true := by
  unfold State.applyFiring
  dsimp only
  split <;> simp only [noteExpiry_mem, refreshHalts_mem] <;> exact logAll_wf _ _ _ _ (hp _ (by simp [wf]))

@[simp] theorem assignRoles_mem (s : State) : (s.assignRoles).mem = s.mem := by
  rfl

@[simp] theorem armNow_wf (s : State) (regions : List Nat) (slot : Nat) (task : Option Nat) (wf : Memory.wf s.mem = true) : Memory.wf (s.armNow regions slot task).mem = true := by
  unfold State.armNow
  dsimp only
  split
  · exact wf
  · rw [assignRoles_mem]
    refine foldl_wf _ _ _ (fun t a h => ?_) ?_
    · split <;> simp [h]
    · rw [foldl_mem _ _ _ (fun t a => by simp)]
      exact wf

@[simp] theorem close_mem (s : State) (cid : Nat) (mode : CtxMode) : (s.close cid mode).mem = s.mem := by
  unfold State.close
  (repeat' split) <;> simp [foldl_mem]

@[simp] theorem disarm_mem (s : State) (cid : Nat) : (s.disarm cid).mem = s.mem := by
  unfold State.disarm
  (repeat' split) <;> simp [foldl_mem]

@[simp] theorem drainEnds_mem (s : State) (regions : List Nat) : (s.drainEnds regions).mem = s.mem := by
  simp [State.drainEnds, foldl_mem]

@[simp] theorem performMem_wf (s : State) (q : Nat) (b : Blk) (m : MemOp) (wf : Memory.wf s.mem = true) : Memory.wf (s.performMem q b m).mem = true := by
  unfold State.performMem
  (try dsimp only)
  (repeat' split) <;> first | exact wf | (simp +contextual [foldl_wf, wf_ite, wf]; done) | (simp_all +contextual [foldl_wf, wf_ite]; done)

@[simp] theorem putSlots_mem (s : State) (ps : List Placed) : (s.putSlots ps).mem = s.mem := by
  simp [State.putSlots, foldl_mem]

@[simp] theorem emptySlots_mem (s : State) (rs : List (Nat × Nat)) : (s.emptySlots rs).mem = s.mem := by
  simp [State.emptySlots, foldl_mem]

@[simp] theorem commitCfga_mem (s : State) (r slot : Nat) : (s.commitCfga r slot).mem = s.mem := by
  unfold State.commitCfga
  first
    | (dsimp only; done)
    | ((try dsimp only)
       (repeat' split) <;> first | rfl | (simp [foldl_mem, mem_ite]; done) | (simp_all [foldl_mem, mem_ite]; done))

@[simp] theorem commitDrain_mem (s : State) (r : Nat) : (s.commitDrain r).mem = s.mem := by
  unfold State.commitDrain
  split <;> simp

@[simp] theorem commitTcnt_mem (s : State) (r site n : Nat) : (s.commitTcnt r site n).mem = s.mem := by
  unfold State.commitTcnt
  (repeat' split) <;> simp

@[simp] theorem commitCfgw_mem (s : State) (r slot site p : Nat) (v : BitVec 32) : (s.commitCfgw r slot site p v).mem = s.mem := by
  rfl

@[simp] theorem lowerCount_mem (s : State) (t n : Nat) : (s.lowerCount t n).1.mem = s.mem := rfl

@[simp] theorem lowerLogged_wf (s : State) (q t n : Nat) (wf : Memory.wf s.mem = true) : Memory.wf (s.lowerLogged q t n).mem = true := by
  unfold State.lowerLogged
  (try dsimp only)
  (repeat' split) <;> first | exact wf | (simp +contextual [foldl_wf, wf_ite, wf]; done) | (simp_all +contextual [foldl_wf, wf_ite]; done)

@[simp] theorem lowerFor_wf (s : State) (q t n : Nat) (wf : Memory.wf s.mem = true) : Memory.wf (s.lowerFor q t n).mem = true := by
  unfold State.lowerFor
  dsimp only
  split <;> simp [wf]

@[simp] theorem setCount_wf (s : State) (q t n : Nat) (wf : Memory.wf s.mem = true) : Memory.wf (s.setCount q t n).mem = true := by
  unfold State.setCount
  (repeat' split) <;> simp [wf]

@[simp] theorem interrupt_mem (s : State) (code part what : Nat) (v : Word) : (s.interrupt code part what v).mem = s.mem := by
  simp [State.interrupt]

@[simp] theorem dropMarked_mem (s : State) (q : Nat) : (s.dropMarked q).mem = s.mem := by
  unfold State.dropMarked
  split <;> simp

@[simp] theorem takeAsync_mem (s : State) (q : Nat) : (s.takeAsync q).mem = s.mem := by
  unfold State.takeAsync
  first
    | (dsimp only; done)
    | ((try dsimp only)
       (repeat' split) <;> first | rfl | (simp [foldl_mem, mem_ite]; done) | (simp_all [foldl_mem, mem_ite]; done))

@[simp] theorem writeFault_wf (s : State) (t : Nat) (v : Word) (wf : Memory.wf s.mem = true) : Memory.wf (s.writeFault t v).mem = true := by
  unfold State.writeFault
  split
  · next e => exact writeAt_wf e wf
  · simp [wf]

@[simp] theorem flagFault_wf (s : State) (t : Nat) (cause : BitVec 8) (src freg : Nat) (wf : Memory.wf s.mem = true) : Memory.wf (s.flagFault t cause src freg).mem = true := by
  unfold State.flagFault
  (try dsimp only)
  (repeat' split) <;> first | exact wf | (simp +contextual [foldl_wf, wf_ite, wf]; done) | (simp_all +contextual [foldl_wf, wf_ite]; done)

@[simp] theorem dropBuffers_mem (s : State) (t : Nat) : (s.dropBuffers t).mem = s.mem := by
  rfl

@[simp] theorem freeRegions_mem (s : State) (t : Nat) : (s.freeRegions t).mem = s.mem := by
  rfl

@[simp] theorem enterFaulted_mem (s : State) (t : Nat) : (s.enterFaulted t).mem = s.mem := by
  unfold State.enterFaulted
  dsimp only
  split <;> simp

@[simp] theorem faultNow_wf (s : State) (t : Nat) (cause : BitVec 8) (src freg : Nat) (wf : Memory.wf s.mem = true) : Memory.wf (s.faultNow t cause src freg).mem = true := by
  unfold State.faultNow
  simp [wf]

@[simp] theorem flushElem_wf (s : State) (r site : Nat) (el : Elem) (wf : Memory.wf s.mem = true) : Memory.wf (s.flushElem r site el).mem = true := by
  refine foldl_wf _ _ _ (fun t a h => ?_) wf
  split <;> simp [h]

@[simp] theorem discard_wf (s : State) (cid : Nat) (wf : Memory.wf s.mem = true) : Memory.wf (s.discard cid).mem = true := by
  unfold State.discard
  split
  · exact wf
  · dsimp only
    have e : ∀ (rs : List Nat) (t : State), (rs.foldl (fun (s : State) r =>
        s.updSeq r fun x => { x with frozen := false, drainw := false }) t).mem = t.mem :=
      fun rs t => foldl_mem _ _ _ fun t a => by simp
    split
    all_goals
      simp only [drainEnds_mem, e, disarm_mem]
      exact foldl_wf _ _ _ (fun t a h => by simp [h]) wf

@[simp] theorem discardHung_wf (s : State) (t : Nat) (wf : Memory.wf s.mem = true) : Memory.wf (s.discardHung t).mem = true :=
  foldl_wf _ _ _ (fun t a h => by simp [h]) wf

@[simp] theorem finishTask_wf (s : State) (t : Nat) (wf : Memory.wf s.mem = true) : Memory.wf (s.finishTask t).mem = true := by
  unfold State.finishTask
  dsimp only
  have e : ∀ (cs : List Nat) (t : State), (cs.foldl (fun s c => s.close c CtxMode.drain) t).mem = t.mem :=
    fun cs t => foldl_mem _ _ _ fun t a => by simp
  (repeat' split) <;> simp [wf, e]

@[simp] theorem endTask_wf (s : State) (t : Nat) (wf : Memory.wf s.mem = true) : Memory.wf (s.endTask t).mem = true := by
  simp [State.endTask, foldl_mem, wf]

@[simp] theorem finishIn_wf (s : State) (regions : List Nat) (wf : Memory.wf s.mem = true) : Memory.wf (s.finishIn regions).mem = true :=
  foldl_wf _ _ _ (fun t a h => by simp [h]) wf

@[simp] theorem saveChain_mem (s : State) (t : Nat) : (s.saveChain t).mem = s.mem := by
  unfold State.saveChain
  first
    | (dsimp only; done)
    | ((try dsimp only)
       (repeat' split) <;> first | rfl | (simp [foldl_mem, mem_ite]; done) | (simp_all [foldl_mem, mem_ite]; done))

@[simp] theorem sluice_mem (s : State) (t : Nat) : (s.sluice t).mem = s.mem := by
  unfold State.sluice
  split <;> simp [foldl_mem]

@[simp] theorem startSave_mem (s : State) (t : Nat) : (s.startSave t).mem = s.mem := by
  simp [State.startSave, foldl_mem]

@[simp] theorem decidePreempt_mem (s : State) (t reason : Nat) : (s.decidePreempt t reason).mem = s.mem := by
  unfold State.decidePreempt
  first
    | (dsimp only; done)
    | ((try dsimp only)
       (repeat' split) <;> first | rfl | (simp [foldl_mem, mem_ite]; done) | (simp_all [foldl_mem, mem_ite]; done))

@[simp] theorem stageEnds_mem (s : State) (c : Ctx) : (s.stageEnds c).mem = s.mem := by
  unfold State.stageEnds
  split <;> simp

@[simp] theorem roomy_mem (s : State) (cid key : Nat) : (s.roomy cid key).mem = s.mem := by
  simp [State.roomy, foldl_mem]


@[simp] theorem onFreeze_wf (s : State) (r : Nat) (reported : Bool) (wf : Memory.wf s.mem = true) : Memory.wf (s.onFreeze r reported).mem = true := by
  have e : ∀ (cs : List Nat) (t : State), Memory.wf t.mem = true →
      Memory.wf (cs.foldl (fun s c => s.discard c) t).mem = true :=
    fun cs t h => foldl_wf _ _ _ (fun t a h => by simp [h]) h
  have f (t : Nat) : Memory.wf (s.flagFault t causeHANG 4 r).mem = true := by simp [wf]
  unfold State.onFreeze
  split
  · exact wf
  · dsimp only
    split
    · exact faultNow_wf _ _ _ _ _ (e _ _ wf)
    · split
      · exact finishTask_wf _ _ wf
      · split
        · exact finishTask_wf _ _ (f _)
        · exact wf
    · split
      · exact f _
      · exact wf

@[simp] theorem moveBytes_wf (s : State) (src dst n : Nat) (wf : Memory.wf s.mem = true) : Memory.wf (s.moveBytes src dst n).mem = true := by
  simp [State.moveBytes, Memory.wf_move, wf]

@[simp] theorem zeroBytes_wf (s : State) (a n : Nat) (wf : Memory.wf s.mem = true) : Memory.wf (s.zeroBytes a n).mem = true := by
  exact Memory.wf_putBytes _ _ _ (Memory.wf_wipe _ _ _ wf)

@[simp] theorem nodesIn_wf (s : State) (a : Nat) (ps : List (Nat × Nat)) (wf : Memory.wf s.mem = true) :
    Memory.wf (s.nodesIn a ps).mem = true := by
  induction ps generalizing s a with
  | nil => exact wf
  | cons p ps ih => exact ih _ _ (moveBytes_wf _ _ _ _ wf)

@[simp] theorem nodesOut_wf (s : State) (a : Nat) (ps : List (Nat × Nat)) (wf : Memory.wf s.mem = true) :
    Memory.wf (s.nodesOut a ps).mem = true := by
  induction ps generalizing s a with
  | nil => exact wf
  | cons p ps ih => exact ih _ _ (moveBytes_wf _ _ _ _ wf)

@[simp] theorem writeRetention_wf (s : State) (r a : Nat) (mn : Bool) (wf : Memory.wf s.mem = true) : Memory.wf (s.writeRetention r a mn).mem = true := by
  unfold State.writeRetention
  dsimp only
  split
  · exact moveBytes_wf _ _ _ _ (storeRuns_wf _ _ _ wf)
  · exact storeRuns_wf _ _ _ wf


@[simp] theorem coldRegion_wf (s : State) (r : Nat) (wf : Memory.wf s.mem = true) : Memory.wf (s.coldRegion r).mem = true := by
  simp [State.coldRegion, wf]

@[simp] theorem refuse_mem (s : State) (src code : Nat) (v : Word) : (s.refuse src code v).mem = s.mem := by
  simp only [State.refuse, interrupt_mem]

@[simp] theorem namesDie_mem (s : State) (v : Word) : (s.namesDie v).mem = s.mem := by
  rfl

@[simp] theorem ack_mem (s : State) (busy : Bool) (seq op code : Nat) : (s.ack busy seq op code).mem = s.mem := by
  rfl

@[simp] theorem endAck_mem (s : State) (code : Nat) : (s.endAck code).mem = s.mem := by
  rfl

theorem of_getD {o : Option State} {s : State} (h : ∀ u, o = some u → Memory.wf u.mem = true)
    (wf : Memory.wf s.mem = true) : Memory.wf (o.getD s).mem = true := by
  cases o with
  | none => exact wf
  | some u => exact h u rfl

theorem request_wf (s : State) (v : Word) (states : List GroupState) (more : State → Nat) (go : State → State)
    (hg : ∀ u : State, Memory.wf u.mem = true → Memory.wf (go u).mem = true) (wf : Memory.wf s.mem = true) :
    Memory.wf (s.request v states more go).mem = true := by
  unfold State.request
  dsimp only
  refine wf_ite _ _ _ (by simp [wf]) (wf_ite _ _ _ (hg _ ?_) ?_)
  · simp only [ack_mem, namesDie_mem]
    exact wf
  · simp only [refuse_mem, ack_mem, namesDie_mem]
    exact wf

@[simp] theorem toPool_mem (s : State) (g : Nat) : (s.toPool g).mem = s.mem := by
  rfl

@[simp] theorem resetForPart_wf (s : State) (r : Nat) (wf : Memory.wf s.mem = true) : Memory.wf (s.resetForPart r).mem = true := by
  simp [State.resetForPart, wf]

@[simp] theorem haltsChanged_mem (s : State) (r : Nat) : (s.haltsChanged r).mem = s.mem := by
  unfold State.haltsChanged
  split <;> simp

theorem after_wf (s t : State) (wf : Memory.wf t.mem = true) : Memory.wf (afterOf s (.next t)).mem = true := wf

theorem after_ite_wf (s : State) (c : Prop) [Decidable c] (a b : State) (ha : Memory.wf a.mem = true)
    (hb : Memory.wf b.mem = true) : Memory.wf (afterOf s (if c then .next a else .next b)).mem = true := by
  split <;> assumption

@[simp] theorem execGroupSelectDie_after_wf (s : State) (v : Word) (wf : Memory.wf s.mem = true) :
    Memory.wf (afterOf s (execGroupSelectDie v s)).mem = true := by
  unfold execGroupSelectDie
  (try dsimp only)
  (repeat' split) <;> exact after_wf _ _ (by simpa using wf)

@[simp] theorem execQuiesce_after_wf (s : State) (v : Word) (wf : Memory.wf s.mem = true) :
    Memory.wf (afterOf s (execQuiesce v s)).mem = true := by
  unfold execQuiesce
  split
  · exact wf
  · exact after_wf s _ (request_wf _ _ _ _ _ (fun u h => foldl_wf _ _ _ (fun t a h => by simp [h]) h) wf)

@[simp] theorem execRetain_after_wf (s : State) (v : Word) (wf : Memory.wf s.mem = true) :
    Memory.wf (afterOf s (execRetain v s)).mem = true := by
  unfold execRetain
  split
  · exact wf
  · refine after_wf s _ ?_
    generalize (0x6000000000 : Nat) = n
    exact request_wf _ _ _ _ _ (fun u h => h) wf

@[simp] theorem execGate_after_wf (s : State) (v : Word) (wf : Memory.wf s.mem = true) :
    Memory.wf (afterOf s (execGate v s)).mem = true := by
  unfold execGate
  split
  · exact wf
  · exact after_wf s _ (request_wf _ _ _ _ _ (fun u h => h) wf)

@[simp] theorem execRelease_after_wf (s : State) (v : Word) (wf : Memory.wf s.mem = true) :
    Memory.wf (afterOf s (execRelease v s)).mem = true := by
  unfold execRelease
  split
  · exact wf
  · exact after_wf s _ (request_wf _ _ _ _ _ (fun u h => by simpa using h) wf)

@[simp] theorem execWake_after_wf (s : State) (v : Word) (wf : Memory.wf s.mem = true) :
    Memory.wf (afterOf s (execWake v s)).mem = true := by
  unfold execWake
  (try dsimp only)
  (repeat' split) <;> exact after_wf _ _ (by simp [wf])

@[simp] theorem execPwrCapWrite_after_wf (s : State) (v : Word) (wf : Memory.wf s.mem = true) :
    Memory.wf (afterOf s (execPwrCapWrite v s)).mem = true := by
  unfold execPwrCapWrite
  (try dsimp only)
  (repeat' split) <;> exact after_wf _ _ (by simp [wf])

@[simp] theorem execPartitionLoad_after_wf (s : State) (v : Word) (wf : Memory.wf s.mem = true) :
    Memory.wf (afterOf s (execPartitionLoad v s)).mem = true := by
  unfold execPartitionLoad
  dsimp only
  split
  · exact after_wf _ _ (by simp [wf])
  · split
    · exact wf
    · split
      · exact after_wf _ _ (by simp [wf])
      · next e =>
        have e := readAt_mem e
        exact after_ite_wf _ _ _ _ (by simp [wf, e])
          (foldl_wf _ _ _ (fun t a h => resetForPart_wf t a h) (by simp [wf, e]))

@[simp] theorem execPwrVsetWrite_after_wf (s : State) (v : Word) (wf : Memory.wf s.mem = true) :
    Memory.wf (afterOf s (execPwrVsetWrite v s)).mem = true := by
  unfold execPwrVsetWrite
  (try dsimp only)
  (repeat' split) <;> exact after_wf _ _ (by simp [wf])

@[simp] theorem execPwrEvalWrite_after_wf (s : State) (v : Word) (wf : Memory.wf s.mem = true) :
    Memory.wf (afterOf s (execPwrEvalWrite v s)).mem = true := by
  unfold execPwrEvalWrite
  (try dsimp only)
  (repeat' split) <;> exact after_wf _ _ (by simp [wf])

@[simp] theorem execDbgCtlWrite_after_wf (s : State) (q : Nat) (v : Word) (wf : Memory.wf s.mem = true) :
    Memory.wf (afterOf s (execDbgCtlWrite q v s)).mem = true := by
  unfold execDbgCtlWrite
  (try dsimp only)
  (repeat' split) <;> exact after_wf _ _ (by simp [wf])

@[simp] theorem execDbgHaltWrite_after_wf (s : State) (q k : Nat) (v : Word) (wf : Memory.wf s.mem = true) :
    Memory.wf (afterOf s (execDbgHaltWrite q k v s)).mem = true := by
  unfold execDbgHaltWrite
  (try dsimp only)
  (repeat' split) <;> exact after_wf _ _ (by simp [wf])

@[simp] theorem execDbgStep_after_wf (s : State) (q : Nat) (v : Word) (wf : Memory.wf s.mem = true) :
    Memory.wf (afterOf s (execDbgStep q v s)).mem = true := by
  unfold execDbgStep
  (try dsimp only)
  (repeat' split) <;> exact after_wf _ _ (by simp [wf])

@[simp] theorem execHangThaw_after_wf (s : State) (q : Nat) (v : Word) (wf : Memory.wf s.mem = true) :
    Memory.wf (afterOf s (execHangThaw q v s)).mem = true := by
  unfold execHangThaw
  (try dsimp only)
  (repeat' split) <;> exact after_wf _ _ (by simp [wf])

@[simp] theorem execHangDiscard_after_wf (s : State) (q : Nat) (v : Word) (wf : Memory.wf s.mem = true) :
    Memory.wf (afterOf s (execHangDiscard q v s)).mem = true := by
  unfold execHangDiscard
  (try dsimp only)
  (repeat' split) <;> exact after_wf _ _ (by simp [wf])

@[simp] theorem execSqStatusWrite_after_wf (s : State) (q : Nat) (v : Word) (wf : Memory.wf s.mem = true) :
    Memory.wf (afterOf s (execSqStatusWrite q v s)).mem = true := by
  unfold execSqStatusWrite
  (try dsimp only)
  (repeat' split) <;> exact after_wf _ _ (by simp [wf])

@[simp] theorem execRasdWrite_after_wf (s : State) (q : Nat) (v : Word) (wf : Memory.wf s.mem = true) :
    Memory.wf (afterOf s (execRasdWrite q v s)).mem = true := by
  unfold execRasdWrite
  (try dsimp only)
  (repeat' split) <;> exact after_wf _ _ (by simp [wf])

@[simp] theorem execFlogCtlWrite_after_wf (s : State) (q : Nat) (v : Word) (wf : Memory.wf s.mem = true) :
    Memory.wf (afterOf s (execFlogCtlWrite q v s)).mem = true := by
  unfold execFlogCtlWrite
  (try dsimp only)
  (repeat' split) <;> exact after_wf _ _ (by simp [wf])

@[simp] theorem execFlogRdWrite_after_wf (s : State) (q : Nat) (v : Word) (wf : Memory.wf s.mem = true) :
    Memory.wf (afterOf s (execFlogRdWrite q v s)).mem = true := by
  unfold execFlogRdWrite
  (try dsimp only)
  (repeat' split) <;> exact after_wf _ _ (by simp [wf])

@[simp] theorem execPwrErrlogClear_after_wf (s : State) (v : Word) (wf : Memory.wf s.mem = true) :
    Memory.wf (afterOf s (execPwrErrlogClear v s)).mem = true := by
  unfold execPwrErrlogClear
  (try dsimp only)
  (repeat' split) <;> exact after_wf _ _ (by simp [wf])

@[simp] theorem writeRequest_wf (s : State) (v : Word) (wf : Memory.wf s.mem = true) :
    Memory.wf (s.writeRequest v).mem = true := by
  unfold State.writeRequest
  split <;> first | (simp [wf]; done) | exact after_wf _ _ (request_wf _ _ _ _ _ (fun u h => by simpa using h) wf)

theorem writePlain_mem {s u : State} {q id : Nat} {v : Word} (e : s.writePlain q id v = some u) : u.mem = s.mem := by
  unfold State.writePlain at e
  dsimp only at e
  (repeat' split at e) <;> first | (cases e; rfl) | cases e

@[simp] theorem writeReg_wf (s : State) (q id : Nat) (v : Word) (wf : Memory.wf s.mem = true) : Memory.wf (s.writeReg q id v).mem = true := by
  have p : Memory.wf ((s.writePlain q id v).getD s).mem = true :=
    of_getD (fun u e => by rw [writePlain_mem e]; exact wf) wf
  unfold State.writeReg
  dsimp only
  (repeat' split) <;> first | exact p | (simp [wf]; done)

@[simp] theorem retryEntry_mem (s : State) (p e : Nat) : (s.retryEntry p e).mem = s.mem := by
  rfl

@[simp] theorem noteEntry_mem (s : State) (who : Stalled) (p e : Nat) : (s.noteEntry who p e).mem = s.mem := by
  unfold State.noteEntry
  (repeat' split) <;> simp

theorem putPhys_wf {s u : State} {a : Nat} {ws : List Word} (e : s.putPhys a ws = some u) (wf : Memory.wf s.mem = true) :
    Memory.wf u.mem = true := by
  unfold State.putPhys at e
  split at e
  · next e' => cases e; exact writeAt_wf e' wf
  · cases e

theorem newEntry_wf {s : State} {f : FaultRec} {r : State × Nat} (e : s.newEntry f = some r)
    (wf : Memory.wf s.mem = true) : Memory.wf r.1.mem = true := by
  unfold State.newEntry at e
  dsimp only at e
  split at e
  · cases e
  · split at e
    · cases e
    · split at e
      · cases e
      · next e' =>
        have w := putPhys_wf e' wf
        cases e
        (repeat' split) <;> simp [w]

theorem joinEntry_wf {s u : State} {p e : Nat} (h : s.joinEntry p e = some u) (wf : Memory.wf s.mem = true) :
    Memory.wf u.mem = true := by
  unfold State.joinEntry at h
  dsimp only at h
  split at h
  · exact putPhys_wf h wf
  · cases h

theorem enterFault_wf {s u : State} {first : Bool} {f : FaultRec} (h : s.enterFault first f = some u) (wf : Memory.wf s.mem = true) :
    Memory.wf u.mem = true := by
  unfold State.enterFault at h
  split at h
  · obtain ⟨v, hv, rfl⟩ := Option.map_eq_some_iff.mp h
    simpa using joinEntry_wf hv wf
  · split at h
    · obtain ⟨v, hv, rfl⟩ := Option.map_eq_some_iff.mp h
      simpa using newEntry_wf hv wf
    · cases h

@[simp] theorem flushFaults_wf (s : State) (wf : Memory.wf s.mem = true) : Memory.wf (s.flushFaults).mem = true := by
  refine foldl_wf _ _ _ (fun t a h => ?_) wf
  split
  · next e => exact enterFault_wf e h
  · exact h

@[simp] theorem queueFault_wf (s : State) (p t ty va r : Nat) (who : Stalled) (wf : Memory.wf s.mem = true) :
    Memory.wf (s.queueFault p t ty va r who).mem = true :=
  flushFaults_wf _ wf

@[simp] theorem resolveEntry_wf (s : State) (p e : Nat) (wf : Memory.wf s.mem = true) : Memory.wf (s.resolveEntry p e).mem = true := by
  unfold State.resolveEntry
  dsimp only
  split
  · split
    · exact wf
    · refine of_getD (fun u e => putPhys_wf e ?_) ?_ <;> (repeat' split) <;> simp [wf]
  · exact wf

@[simp] theorem recordOver_mem (s : State) (ch : Nat) : (s.recordOver ch).mem = s.mem := by
  rfl

@[simp] theorem scratch_wf (s : State) (dests : List (List (Nat × Nat))) (off : Nat) (bs : List Byte) (wf : Memory.wf s.mem = true) : Memory.wf (s.scratch dests off bs).mem = true := by
  refine foldl_wf _ _ _ (fun t a h => foldl_wf _ _ _ (fun t b h => ?_) h) wf
  split
  · exact Memory.wf_putByte _ _ _ h
  · exact h

@[simp] theorem unitRead_mem (s : State) (ps : List (Nat × Nat)) : (s.unitRead ps).mem = s.mem := by
  simp [State.unitRead, foldl_mem]

@[simp] theorem countEngine_mem (s : State) (ch rd wr taps : Nat) : (s.countEngine ch rd wr taps).mem = s.mem := by
  simp [State.countEngine, foldl_mem]

@[simp] theorem complete_wf (s : State) (k n : Nat) (wf : Memory.wf s.mem = true) : Memory.wf (s.complete k n).mem = true := by
  unfold State.complete
  (try dsimp only)
  (repeat' split) <;> first | exact wf | (simp +contextual [foldl_wf, wf_ite, wf]; done) | (simp_all +contextual [foldl_wf, wf_ite]; done)

@[simp] theorem commitCpch_mem (s : State) (q ch : Nat) (a : Word) : (s.commitCpch q ch a).mem = s.mem := by
  rfl

@[simp] theorem commitCpst_mem (s : State) (ch : Nat) : (s.commitCpst ch).mem = s.mem := by
  rfl

@[simp] theorem commitCpab_mem (s : State) (ch : Nat) : (s.commitCpab ch).mem = s.mem := by
  rfl

@[simp] theorem trapBlock_mem (s : State) (q : Nat) (cause : BitVec 8) (a tval : Word) : (s.trapBlock q cause a tval).mem = s.mem := by
  simp [State.trapBlock, foldl_mem]

@[simp] theorem commitMem_wf (s : State) (q : Nat) (b : Blk) (began : List Issued) (ms : List MemOp)
    (wf : Memory.wf s.mem = true) : Memory.wf (s.commitMem q b began ms).1.mem = true := by
  induction ms generalizing s with
  | nil => exact wf
  | cons m ms ih =>
    unfold State.commitMem
    split
    · split
      · exact wf
      · exact ih s wf
    · exact ih _ (performMem_wf _ _ _ _ wf)

@[simp] theorem commitQueues_mem (s : State) (q : Nat) (b : Blk) (effs : List Eff) : (s.commitQueues q b effs).mem = s.mem := by
  unfold State.commitQueues
  rw [foldl_mem _ _ _ (fun t a => by split <;> simp), updRegion_mem]
  exact mem_ite _ _ _ _ (moved_mem _ _) rfl

@[simp] theorem commitFabric_wf (s : State) (q : Nat) (b : Blk) (effs : List Eff) (wf : Memory.wf s.mem = true) : Memory.wf (s.commitFabric q b effs).mem = true := by
  unfold State.commitFabric
  refine foldl_wf _ _ _ (fun t a h => by split <;> simp [h]) ?_
  refine foldl_wf _ _ _ (fun t a h => by split <;> simp [h]) ?_
  refine foldl_wf _ _ _ (fun t a h => by split <;> simp [h]) ?_
  exact foldl_wf _ _ _ (fun t a h => by simp [h]) wf

@[simp] theorem commitSync_wf (s : State) (q : Nat) (b : Blk) (e : Nat × Eff) (wf : Memory.wf s.mem = true) : Memory.wf (s.commitSync q b e).mem = true := by
  unfold State.commitSync
  (repeat' split) <;> simp [wf]

@[simp] theorem commitRegs_wf (s : State) (q : Nat) (effs : List Eff) (e : Exit) (wf : Memory.wf s.mem = true) : Memory.wf (s.commitRegs q effs e).mem = true := by
  unfold State.commitRegs
  dsimp only
  split
  · rw [updSeq_mem]
    exact foldl_wf _ _ _ (fun t a h => by split <;> simp [h]) wf
  · exact foldl_wf _ _ _ (fun t a h => by split <;> simp [h]) wf

@[simp] theorem loopAfter_mem (s : State) (q : Nat) (b : Blk) (e : Exit) (next : Word) : (s.loopAfter q b e next).mem = s.mem := by
  rfl

@[simp] theorem stageHalts_mem (s : State) (q : Nat) : (s.stageHalts q).mem = s.mem := by
  unfold State.stageHalts
  split <;> simp

@[simp] theorem haltAt_mem (s : State) (q : Nat) (next : Word) (eret : Bool) : (s.haltAt q next eret).mem = s.mem := by
  unfold State.haltAt
  first
    | (dsimp only; done)
    | ((try dsimp only)
       (repeat' split) <;> first | rfl | (simp [foldl_mem, mem_ite]; done) | (simp_all [foldl_mem, mem_ite]; done))

@[simp] theorem goOn_mem (s : State) (q : Nat) (drained : Bool) (next : Word) : (s.goOn q drained next).mem = s.mem := by
  unfold State.goOn
  first
    | (dsimp only; done)
    | ((try dsimp only)
       (repeat' split) <;> first | rfl | (simp [foldl_mem, mem_ite]; done) | (simp_all [foldl_mem, mem_ite]; done))

@[simp] theorem trapAfter_mem (s : State) (q : Nat) (b : Blk) (drained : Bool) (cause : BitVec 8) (n : Nat) : (s.trapAfter q b drained cause n).mem = s.mem := by
  rfl

@[simp] theorem commitExit_mem (s : State) (q : Nat) (b : Blk) (halts drained : Bool) (e : Exit) : (s.commitExit q b halts drained e).mem = s.mem := by
  unfold State.commitExit
  (repeat' split) <;> simp [foldl_mem]

@[simp] theorem afterCommit_mem (s : State) (q : Nat) : (s.afterCommit q).mem = s.mem := by
  unfold State.afterCommit
  (repeat' split) <;> simp

@[simp] theorem commitRest_wf (s : State) (q : Nat) (b : Blk) (e : Exit) (wf : Memory.wf s.mem = true) : Memory.wf (s.commitRest q b e).mem = true := by
  unfold State.commitRest
  dsimp only
  simp only [afterCommit_mem, commitExit_mem, updSeq_mem]
  refine commitRegs_wf _ _ _ _ ?_
  simp only [updSeq_mem]
  refine foldl_wf _ _ _ (fun t a h => by simp [h]) ?_
  split <;> simp [wf]

@[simp] theorem commitOn_wf (s : State) (q : Nat) (b : Blk) (e : Exit) (began : List Issued) (ms : List MemOp)
    (wf : Memory.wf s.mem = true) : Memory.wf (s.commitOn q b e began ms).mem = true := by
  have h := commitMem_wf s q b began ms wf
  unfold State.commitOn
  split
  · next he => rw [he] at h; exact commitRest_wf _ _ _ _ h
  · next he => rw [he] at h; simpa using h

@[simp] theorem commitBlock_wf (s : State) (q : Nat) (b : Blk) (e : Exit) (wf : Memory.wf s.mem = true) : Memory.wf (s.commitBlock q b e).mem = true := by
  unfold State.commitBlock
  refine commitOn_wf _ _ _ _ _ _ ?_
  rw [foldl_mem _ _ _ (fun t a => by simp)]
  simpa using wf

@[simp] theorem endWalk_mem (s : State) (d t : Nat) : (s.endWalk d t).mem = s.mem := by
  rfl

@[simp] theorem failWalk_wf (s : State) (d t code : Nat) (info : Word) (wf : Memory.wf s.mem = true) : Memory.wf (s.failWalk d t code info).mem = true := by
  unfold State.failWalk
  dsimp only
  split
  · next e => simp [writeVia_wf e wf]
  · simp [wf]

@[simp] theorem fillSlots_mem (s : State) (ps : List Placed) : (s.fillSlots ps).mem = s.mem := by
  simp [State.fillSlots, foldl_mem]

@[simp] theorem armPlaced_mem (s : State) (issuer : Nat) (task : Option Nat) (ps : List Placed) : (s.armPlaced issuer task ps).mem = s.mem := by
  simp [State.armPlaced, foldl_mem]

@[simp] theorem addCounts_mem (s : State) (rs : List Nat) (n : Nat) : (s.addCounts rs n).mem = s.mem := by
  rfl

@[simp] theorem takeChain_mem (s : State) (d : Nat) : (s.takeChain d).mem = s.mem := by
  unfold State.takeChain
  first
    | (dsimp only; done)
    | ((try dsimp only)
       (repeat' split) <;> first | rfl | (simp [foldl_mem, mem_ite]; done) | (simp_all [foldl_mem, mem_ite]; done))

@[simp] theorem readSection_wf (s : State) (d t : Nat) (wf : Memory.wf s.mem = true) : Memory.wf (s.readSection d t).mem = true := by
  unfold State.readSection
  dsimp only
  split
  · exact wf
  · simp [wf]
  · next e =>
    have e := readVia_mem e
    (repeat' split) <;> simp [wf, e]

@[simp] theorem holdSection_mem (s : State) (t : Nat) (rs : List Nat) : (s.holdSection t rs).mem = s.mem := by
  simp [State.holdSection, foldl_mem]

@[simp] theorem loadSection_wf (s : State) (d t : Nat) (rs : List Nat) (wf : Memory.wf s.mem = true) : Memory.wf (s.loadSection d t rs).mem = true := by
  unfold State.loadSection
  dsimp only
  split
  · simpa using wf
  · split
    · exact wf
    · simp [wf]
    · split
      · simp [wf]
      · simp only [setRace_mem]
        exact foldl_wf _ _ _ (fun t a h => by simp [h]) (by simpa using wf)

@[simp] theorem sectionActions_wf (s : State) (d t : Nat) (w : Word) (wf : Memory.wf s.mem = true) : Memory.wf (s.sectionActions d t w).mem = true := by
  unfold State.sectionActions
  (repeat' split) <;> simp [wf]

@[simp] theorem closeSection_wf (s : State) (t a : Nat) (wf : Memory.wf s.mem = true) : Memory.wf (s.closeSection t a).mem = true := by
  unfold State.closeSection
  (repeat' split) <;> simp [wf]

@[simp] theorem answer_mem (s : State) (r : Reply) : (s.answer r).mem = s.mem := by
  simp [State.answer]

@[simp] theorem windowFails_wf (s : State) (part : Nat) (va : Word) (owner : Option Nat) (wf : Memory.wf s.mem = true) : Memory.wf (s.windowFails part va owner).mem = true := by
  simp [State.windowFails, wf]

@[simp] theorem postRefused_wf (s : State) (v : Word) (wf : Memory.wf s.mem = true) : Memory.wf (s.postRefused v).mem = true := by
  simp [State.postRefused, wf]

@[simp] theorem runStage_wf (s : State) (h p d : List Byte) (wf : Memory.wf s.mem = true) : Memory.wf (s.runStage h p d).mem = true := by
  simp [State.runStage, wf]

@[simp] theorem moduleReset_wf (s : State) : Memory.wf (s.moduleReset).mem = true := by
  rfl

@[simp] theorem armAtOnce_wf (s : State) (t : Nat) (ps : List Placed) (wf : Memory.wf s.mem = true) : Memory.wf (s.armAtOnce t ps).mem = true := by
  simp +contextual [State.armAtOnce, foldl_wf, wf]

@[simp] theorem writeCur_wf (s : State) (t i u : Nat) (wf : Memory.wf s.mem = true) : Memory.wf (s.writeCur t i u).mem = true := by
  unfold State.writeCur
  dsimp only
  split
  · next e =>
    split
    · next e' => exact writeVia_wf e' (by simpa [readVia_mem e] using wf)
    · simpa [readVia_mem e] using wf
  · exact wf

@[simp] theorem launchReject_wf (s : State) (t : Nat) (w : Word) (wf : Memory.wf s.mem = true) : Memory.wf (s.launchReject t w).mem = true := by
  unfold State.launchReject
  simp [wf]

@[simp] theorem startStage_wf (s : State) (t i : Nat) (rs : List Nat) (p : Placing) (wf : Memory.wf s.mem = true) : Memory.wf (s.startStage t i rs p).mem = true := by
  have e : ∀ (rs : List Nat) (t : State),
      (rs.foldl (fun (s : State) r => (s.updRegion r Region.emptied).updSeq r Seq.quietly) t).mem = t.mem :=
    fun rs t => foldl_mem _ _ _ fun t a => by simp
  unfold State.startStage
  dsimp only
  (repeat' split) <;> simp [wf, e]

@[simp] theorem launch_wf (s : State) (t : Nat) (ps : List Placed) (stages : List StageRec) (wf : Memory.wf s.mem = true) : Memory.wf (s.launch t ps stages).mem = true := by
  unfold State.launch
  dsimp only
  have e : ∀ (rs : List Nat) (t : State), (rs.foldl (fun (s : State) r => s.updSeq r Seq.quietly) t).mem = t.mem :=
    fun rs t => foldl_mem _ _ _ fun t a => by simp
  have e' : ∀ (rs : List Nat) (t : State), (rs.foldl (fun (s : State) r => s.updRegion r Region.emptied) t).mem = t.mem :=
    fun rs t => foldl_mem _ _ _ fun t a => by simp
  simp only [updTask_mem]
  (repeat' split) <;> simp [wf, e, e']

@[simp] theorem putAway_mem (s : State) (t : Nat) (v : Saved) : (s.putAway t v).mem = s.mem := by
  simp [State.putAway, foldl_mem]

@[simp] theorem fillBufs_wf (s : State) (l : List (Nat × SBuf)) (bs : List Byte) (wf : Memory.wf s.mem = true) :
    Memory.wf (s.fillBufs l bs).mem = true := by
  induction l generalizing s bs with
  | nil => exact wf
  | cons p ps ih => exact ih _ _ (by split <;> simp [wf])

@[simp] theorem restoreRegion_wf (s : State) (v : Saved) (b : ImageBack) (wf : Memory.wf s.mem = true) : Memory.wf (s.restoreRegion v b).mem = true := by
  unfold State.restoreRegion
  dsimp only
  (repeat' split) <;> simp [wf]

@[simp] theorem rearm_mem (s : State) (c : Ctx) : (s.rearm c).mem = s.mem := by
  simp [State.rearm, foldl_mem]

@[simp] theorem beginStage_mem (s : State) (t i u : Nat) (extra : List Nat) (gift : Option (Nat × Nat)) : (s.beginStage t i u extra gift).mem = s.mem := by
  simp [State.beginStage, foldl_mem]

@[simp] theorem decideWiden_mem (s : State) (t i : Nat) (g : Stage) : (s.decideWiden t i g).mem = s.mem := by
  unfold State.decideWiden
  first
    | (dsimp only; done)
    | ((try dsimp only)
       (repeat' split) <;> first | rfl | (simp [foldl_mem, mem_ite]; done) | (simp_all [foldl_mem, mem_ite]; done))

@[simp] theorem regroup_mem (s : State) (t i : Nat) (g : Stage) (u : Nat) (rs : List Nat) : (s.regroup t i g u rs).mem = s.mem := by
  unfold State.regroup
  dsimp only
  (repeat' split) <;> simp

@[simp] theorem widenBack_mem (s : State) (t i : Nat) : (s.widenBack t i).1.mem = s.mem := by
  unfold State.widenBack
  (repeat' split) <;> simp

@[simp] theorem finishStage_wf (s : State) (t i : Nat) (g : Stage) (wf : Memory.wf s.mem = true) : Memory.wf (s.finishStage t i g).mem = true := by
  unfold State.finishStage
  (try dsimp only)
  (repeat' split) <;> first | exact wf | (simp +contextual [foldl_wf, wf_ite, wf]; done) | (simp_all +contextual [foldl_wf, wf_ite]; done)

@[simp] theorem makeLasting_wf (s : State) (kind index : Nat) (wf : Memory.wf s.mem = true) : Memory.wf (s.makeLasting kind index).mem = true := by
  unfold State.makeLasting
  (repeat' split) <;> simp [wf]

@[simp] theorem stepCodes_mem (s : State) (rs : List Nat) (down : Bool) : (s.stepCodes rs down).mem = s.mem := by
  unfold State.stepCodes
  first
    | (dsimp only; done)
    | ((try dsimp only)
       (repeat' split) <;> first | rfl | (simp [foldl_mem, mem_ite]; done) | (simp_all [foldl_mem, mem_ite]; done))

@[simp] theorem throttle_mem (s : State) : (s.throttle).mem = s.mem := by
  unfold State.throttle
  first
    | (dsimp only; done)
    | ((try dsimp only)
       (repeat' split) <;> first | rfl | (simp [foldl_mem, mem_ite]; done) | (simp_all [foldl_mem, mem_ite]; done))

@[simp] theorem unthrottle_mem (s : State) : (s.unthrottle).mem = s.mem := by
  unfold State.unthrottle
  split
  · rfl
  · next t l rest _ =>
    have h := widenBack_mem s (l.getD 0 0) (l.getD 1 0)
    generalize s.widenBack (l.getD 0 0) (l.getD 1 0) = r at h
    obtain ⟨u, b⟩ := r
    cases b <;> exact h
  · simp
  · rfl

@[simp] theorem raiseLate_mem (s : State) : (s.raiseLate).mem = s.mem := by
  unfold State.raiseLate
  dsimp only
  split <;> simp

end Sys2Proof.Machine
end

