-- ==== Sys2Proof/Laws/Fabric.lean ====
section
/-! SUPPORT. When the firing of an element takes place, and what it sees of its inputs (R75, R90). -/

namespace Sys2Proof

open Machine

/-- The heads an element's firing sees: the head of each input, as received. -/
abbrev headsOf (s : State) (c : Ctx) (el : Elem) : Nat → Option Token :=
  fun i => (s.headOf c (siteKey s.site.r s.site.s) i).map (received el.cfg i)

/-- An element that is ready fires the first firing of its rule that finds room. -/
theorem fireElem_of {s : State} {kind op cid : Nat} {c : Ctx} {el : Elem} (h : elemReady s kind op cid c el)
    (g : Elem → (Nat → Option Token) → List Firing) {f : Firing} {rest : List Firing}
    (hg : g el (headsOf s c el) = f :: rest)
    (hr : f.emits.all (fun ot => c.room (siteKey s.site.r s.site.s) ot.1 (!ot.2.closed)) = true) :
    s.fireElem kind op g = .next (s.applyFiring s.site.r s.site.s cid c el f) := by
  obtain ⟨h1, h2, h3, h4, h5, h7, h6⟩ := h
  unfold State.fireElem
  simp only [h1, h2, h3, h4, h5, h7, hg]
  have : (el.cfg.ingress && ((s.region s.site.r).millpond.isSome || el.closing c.mode)) = false := by
    cases hi : el.cfg.ingress
    · rfl
    · obtain ⟨a, b⟩ := h6 hi
      simp [a, b]
  simp [this, List.find?, hr]

/-- Room for a data token is room for any token. -/
theorem room_mono {c : Ctx} {key o : Nat} (b : Bool) (h : c.room key o true = true) : c.room key o b = true := by
  unfold Ctx.room at *
  simp only [List.all_eq_true] at *
  intro a ha
  have := h a ha
  cases b
  · simp only [Bool.or_eq_true, Bool.and_eq_true] at *
    exact this.imp id fun h => ⟨h.1, .inl (.inr rfl)⟩
  · exact this

theorem headsOf_arrives {s : State} {c : Ctx} {el : Elem} {i : Nat} {t : Token} (h : arrives s c el i t) :
    headsOf s c el i = some t := by
  obtain ⟨a, b⟩ := h
  simp [headsOf, a, received, b]

/-- A token of the input's own format is read as it stands. -/
theorem fit_plain {el : Elem} {i d : Nat} {t : Token} (h : plainTok el i t) : Token.fit (el.cfg.ifmt.getD i 0) d t = t := by
  obtain ⟨h1, h2⟩ := h
  unfold Token.fit
  rcases h2 with h | ⟨h, h3, h4⟩
  · simp [h]
  · rcases h with h | h
    · simp only [h]
      by_cases hm : isMx t.fmt <;> simp_all
      split <;> simp_all
    · simp only [h]
      by_cases hm : isMx t.fmt <;> simp_all

theorem dataHead_arrives {s : State} {c : Ctx} {el : Elem} {i : Nat} {t : Token} (h : arrives s c el i t)
    (hp : t.isData = true) : dataHead (headsOf s c el) i = some t := by
  simp [dataHead, headsOf_arrives h, hp]

theorem fitHead_arrives {s : State} {c : Ctx} {el : Elem} {i : Nat} {t : Token} (h : arrives s c el i t)
    (hp : plainTok el i t) : fitHead s el (headsOf s c el) i = some t := by
  simp only [fitHead, dataHead_arrives h hp.1, Option.map_some, fit_plain hp]

theorem fitHeads_one {s : State} {c : Ctx} {el : Elem} {i : Nat} {t : Token} (h : arrives s c el i t)
    (hp : plainTok el i t) : fitHeads s el (headsOf s c el) [i] = some [t] := by
  simp only [fitHeads, fitHead_arrives h hp]

theorem fitHeads_two {s : State} {c : Ctx} {el : Elem} {i j : Nat} {t u : Token} (h : arrives s c el i t)
    (hp : plainTok el i t) (h' : arrives s c el j u) (hp' : plainTok el j u) :
    fitHeads s el (headsOf s c el) [i, j] = some [t, u] := by
  simp only [fitHeads, fitHead_arrives h hp, fitHead_arrives h' hp']

/-- A firing whose effect beyond its element draws free values only. -/
theorem moves_of {i : Instr} {s : State} {kind op cid : Nat} {c : Ctx} {el : Elem} {g} (h : elemReady s kind op cid c el)
    (he : exec i s = s.fireElem kind op g) {ins out el' logs}
    (hg : ∃ f rest, g el (headsOf s c el) = f :: rest ∧ f.consume = ins ∧ f.emits = out ∧ f.el = el' ∧ f.logs = logs ∧
      ∀ u : State, ∃ n, f.post u = { u with free := n })
    (hr : ∀ ot ∈ out, roomOn s c ot.1) : moves i s cid c el ins out el' logs := by
  obtain ⟨f, rest, hf, rfl, rfl, rfl, rfl, hp⟩ := hg
  refine ⟨f.tenths, f.post, ?_, hp⟩
  unfold fires
  rw [he]
  refine fireElem_of h g hf ?_
  simp only [List.all_eq_true]
  exact fun ot ho => room_mono _ (hr ot ho)

/-- A firing with an effect beyond its element. -/
theorem movesWith_of {i : Instr} {s : State} {kind op cid : Nat} {c : Ctx} {el : Elem} {g}
    (h : elemReady s kind op cid c el) (he : exec i s = s.fireElem kind op g) {ins out el' logs post}
    (hg : ∃ f rest, g el (headsOf s c el) = f :: rest ∧ f.consume = ins ∧ f.emits = out ∧ f.el = el' ∧ f.logs = logs ∧
      f.post = post)
    (hr : ∀ ot ∈ out, roomOn s c ot.1) : movesWith i s cid c el ins out el' logs post := by
  obtain ⟨f, rest, hf, rfl, rfl, rfl, rfl, rfl⟩ := hg
  refine ⟨f.tenths, ?_⟩
  unfold fires
  rw [he]
  refine fireElem_of h g hf ?_
  simp only [List.all_eq_true]
  exact fun ot ho => room_mono _ (hr ot ho)

/-- A firing answers a next state, whatever its rule. -/
theorem fireElem_next (s : State) (kind op : Nat) (g : Elem → (Nat → Option Token) → List Firing) :
    ∃ t, s.fireElem kind op g = .next t := by
  unfold State.fireElem
  dsimp only
  (repeat' split) <;> exact ⟨_, rfl⟩

end Sys2Proof
end

