-- ==== Sys2Proof/Laws/Thread.lean ====
section
/-! SUPPORT. What the firing of an instruction of a block can do, and what a block keeps through it (R45). -/

namespace Sys2Proof.Machine

/-- A firing leaves everything, or takes the oldest or a run-ahead block from b to what the instruction makes of it. -/
theorem fireBlk_cases {s t : State} {pr : Pr} {a : Bool} {g : Blk → Option Blk} (h : s.fireBlk pr a g = .next t) :
    t = s ∨ ∃ b b', s.blk s.cur s.curBlk = some b ∧ s.curIx ∉ b.fired ∧ b.predOk s.curIx pr = true ∧
      (s.curBlk = 0 ∨ a = true) ∧ g b = some b' ∧ t = s.setBlk s.cur s.curBlk b' := by
  unfold State.fireBlk at h
  split at h
  · exact .inl (by cases h; rfl)
  · next b hb =>
    split at h
    · exact .inl (by cases h; rfl)
    · next hc =>
      split at h
      · exact .inl (by cases h; rfl)
      · next b' hg =>
        cases h
        simp only [Bool.or_eq_true, Bool.not_eq_true', not_or, Bool.not_eq_false, List.contains_iff_mem,
          Bool.or_eq_false_iff, not_and] at hc
        refine .inr ⟨b, b', hb, by simpa using hc.1.1, by simpa using hc.1.2, ?_, hg, rfl⟩
        by_cases h0 : s.curBlk = 0
        · exact .inl h0
        · exact .inr (by simpa [h0] using hc.2)

/-- Every firing answers a next state. -/
theorem fireBlk_next (s : State) (pr : Pr) (a : Bool) (g : Blk → Option Blk) : ∃ t, s.fireBlk pr a g = .next t := by
  unfold State.fireBlk
  (repeat' split) <;> exact ⟨_, rfl⟩

/-- A firing that may take place, and whose operands are there, takes place. -/
theorem fireBlk_fires {s : State} {pr : Pr} {a : Bool} {g : Blk → Option Blk} {b b' : Blk} (h : mayFire s b pr a)
    (hg : g b = some b') : s.fireBlk pr a g = becomes s b' := by
  obtain ⟨hb, hf, hp, ha⟩ := h
  unfold State.fireBlk becomes
  have : (b.fired.contains s.curIx || !b.predOk s.curIx pr || !(s.curBlk == 0 || a)) = false := by
    rcases ha with ha | ha <;> simp [hf, hp, ha]
  simp only [hb, this, hg, Bool.false_eq_true, if_false]

/-- A firing of one, two or three operands that are there. -/
theorem fire1_fires {s : State} {pr : Pr} {a : Bool} {cls : Nat} {ts : List Target} {f : Word → Word} {b : Blk} {l : Word}
    (h : mayFire s b pr a) (hl : operandAt s b slotL l) : s.fire1 pr a cls ts f = becomes s (gave s b cls ts (f l)) :=
  fireBlk_fires h (by
    have hl : b.operand s.curIx slotL = some l := hl
    simp only [hl]; rfl)

theorem fire2_fires {s : State} {pr : Pr} {a : Bool} {cls : Nat} {ts : List Target} {f : Word → Word → Word} {b : Blk}
    {l r : Word} (h : mayFire s b pr a) (hl : operandAt s b slotL l) (hr : operandAt s b slotR r) :
    s.fire2 pr a cls ts f = becomes s (gave s b cls ts (f l r)) :=
  fireBlk_fires h (by
    have hl : b.operand s.curIx slotL = some l := hl
    have hr : b.operand s.curIx slotR = some r := hr
    simp only [hl, hr]; rfl)

theorem fire3_fires {s : State} {pr : Pr} {a : Bool} {cls : Nat} {ts : List Target} {f : Word → Word → Word → Word}
    {b : Blk} {l r x : Word} (h : mayFire s b pr a) (hl : operandAt s b slotL l) (hr : operandAt s b slotR r)
    (hx : operandAt s b slotX x) : s.fire3 pr a cls ts f = becomes s (gave s b cls ts (f l r x)) :=
  fireBlk_fires h (by
    have hl : b.operand s.curIx slotL = some l := hl
    have hr : b.operand s.curIx slotR = some r := hr
    have hx : b.operand s.curIx slotX = some x := hx
    simp only [hl, hr, hx]; rfl)

/-- A firing with an effect outside its block leaves everything, or is one of the oldest block or a run-ahead one. -/
theorem fireWith_cases {s t : State} {pr : Pr} {a : Bool} {g : Blk → Option (Blk × (State → State))}
    (h : s.fireWith pr a g = .next t) :
    t = s ∨ ∃ b b' post, s.blk s.cur s.curBlk = some b ∧ s.curIx ∉ b.fired ∧ b.predOk s.curIx pr = true ∧
      (s.curBlk = 0 ∨ a = true) ∧ g b = some (b', post) ∧ t = post (s.setBlk s.cur s.curBlk b') := by
  unfold State.fireWith at h
  split at h
  · exact .inl (by cases h; rfl)
  · next b hb =>
    split at h
    · exact .inl (by cases h; rfl)
    · next hc =>
      split at h
      · exact .inl (by cases h; rfl)
      · next b' post hg =>
        cases h
        simp only [Bool.or_eq_true, Bool.not_eq_true', not_or, Bool.not_eq_false, List.contains_iff_mem,
          Bool.or_eq_false_iff, not_and] at hc
        refine .inr ⟨b, b', post, hb, by simpa using hc.1.1, by simpa using hc.1.2, ?_, hg, rfl⟩
        by_cases h0 : s.curBlk = 0
        · exact .inl h0
        · exact .inr (by simpa [h0] using hc.2)

/-- Such a firing, where it may take place and its operands are there, takes place. -/
theorem fireWith_fires {s : State} {pr : Pr} {a : Bool} {g : Blk → Option (Blk × (State → State))} {b b' : Blk}
    {post : State → State} (h : mayFire s b pr a) (hg : g b = some (b', post)) :
    s.fireWith pr a g = .next (post (s.setBlk s.cur s.curBlk b')) := by
  obtain ⟨hb, hf, hp, ha⟩ := h
  unfold State.fireWith
  have : (b.fired.contains s.curIx || !b.predOk s.curIx pr || !(s.curBlk == 0 || a)) = false := by
    rcases ha with ha | ha <;> simp [hf, hp, ha]
  simp only [hb, this, hg, Bool.false_eq_true, if_false]

/-- Such a firing answers a next state. -/
theorem fireWith_next (s : State) (pr : Pr) (a : Bool) (g : Blk → Option (Blk × (State → State))) :
    ∃ t, s.fireWith pr a g = .next t := by
  unfold State.fireWith
  (repeat' split) <;> exact ⟨_, rfl⟩

/-- An instruction that has fired, and waits, ends its wait or leaves everything; one that has not fires. -/
theorem fireOrEnd_cases {s t : State} {pr : Pr} {start : Blk → Option Blk} {fin : Blk → Waiter → Option Blk}
    (h : s.fireOrEnd pr start fin = .next t) :
    t = s ∨ (∃ b w b', s.blk s.cur s.curBlk = some b ∧ b.waiting s.curIx = some w ∧ fin b w = some b' ∧
      t = s.setBlk s.cur s.curBlk b') ∨ s.fireBlk pr false start = .next t := by
  unfold State.fireOrEnd at h
  split at h
  · next b w hb =>
    split at h
    · next b' hf =>
      cases h
      cases hs : s.blk s.cur s.curBlk with
      | none => simp [hs] at hb
      | some b0 =>
        simp only [hs, Option.bind_some, Option.map_eq_some_iff] at hb
        obtain ⟨w', hw, e⟩ := hb
        cases e
        exact .inr (.inl ⟨b, w, b', rfl, hw, hf, rfl⟩)
    · cases h; exact .inl rfl
  · exact .inr (.inr h)

/-! ## Deliveries -/

theorem deliver1_fired (b : Blk) (v : Val) (t : Target) : (b.deliver1 v t).fired = b.fired := by
  unfold Blk.deliver1
  (repeat' split) <;> rfl

theorem deliver1_words (b : Blk) (v : Val) (t : Target) : (b.deliver1 v t).words = b.words := by
  unfold Blk.deliver1
  (repeat' split) <;> rfl

/-- A delivery never replaces what a slot holds (R45). -/
theorem deliver1_keeps (b : Blk) (v w : Val) (t : Target) (k : Nat) (h : b.slots.find? k = some w) :
    (b.deliver1 v t).slots.find? k = some w := by
  unfold Blk.deliver1
  split
  · exact h
  · split
    · exact h
    · next hn =>
      rw [Tab.find_put]
      split
      · next e =>
        subst e
        simp [Tab.has, h] at hn
      · exact h

@[simp] theorem deliver_fired (b : Blk) (ts : List Target) (v : Val) : (b.deliver ts v).fired = b.fired := by
  induction ts generalizing b with
  | nil => rfl
  | cons t ts ih => exact (ih _).trans (deliver1_fired ..)

@[simp] theorem deliver_words (b : Blk) (ts : List Target) (v : Val) : (b.deliver ts v).words = b.words := by
  induction ts generalizing b with
  | nil => rfl
  | cons t ts ih => exact (ih _).trans (deliver1_words ..)

theorem deliver_keeps (b : Blk) (ts : List Target) (v w : Val) (k : Nat) (h : b.slots.find? k = some w) :
    (b.deliver ts v).slots.find? k = some w := by
  induction ts generalizing b with
  | nil => exact h
  | cons t ts ih => exact ih _ (deliver1_keeps _ _ _ _ _ h)

/-- The block at a place after it has been set there, where there was one. -/
theorem blk_setBlk (s : State) (q n : Nat) (b b' : Blk) (h : s.blk q n = some b) : (s.setBlk q n b').blk q n = some b' := by
  unfold State.blk State.setBlk at *
  rw [seq_updSeq, if_pos rfl]
  have := (List.getElem?_eq_some_iff.1 h).1
  simp [this]

end Sys2Proof.Machine
end

