-- ==== Sys2Proof/Laws/PerInstr.lean ====
section
/-! SUPPORT. The opcode of an encoded word is in the opcode map (R16): one lemma per format, then one per instruction. -/

namespace Sys2Proof

/-- The opcode stands in bits [31:24] of every format (R13). -/
theorem encRD_opcode (op : BitVec 8) (f : RD) : (encRD op f).extractLsb' 24 8 = op := by
  unfold encRD
  ext i hi
  simp only [BitVec.getElem_extractLsb', BitVec.getLsbD_append]
  have : i < 8 := hi
  (repeat' split) <;> first | omega | (rw [← BitVec.getLsbD_eq_getElem]; congr 1; omega)
theorem encWR_opcode (op : BitVec 8) (f : WR) : (encWR op f).extractLsb' 24 8 = op := by
  unfold encWR
  ext i hi
  simp only [BitVec.getElem_extractLsb', BitVec.getLsbD_append]
  have : i < 8 := hi
  (repeat' split) <;> first | omega | (rw [← BitVec.getLsbD_eq_getElem]; congr 1; omega)
theorem encT2_opcode (op : BitVec 8) (f : T2) : (encT2 op f).extractLsb' 24 8 = op := by
  unfold encT2
  ext i hi
  simp only [BitVec.getElem_extractLsb', BitVec.getLsbD_append]
  have : i < 8 := hi
  (repeat' split) <;> first | omega | (rw [← BitVec.getLsbD_eq_getElem]; congr 1; omega)
theorem encTB_opcode (op : BitVec 8) (f : TB) : (encTB op f).extractLsb' 24 8 = op := by
  unfold encTB
  ext i hi
  simp only [BitVec.getElem_extractLsb', BitVec.getLsbD_append]
  have : i < 8 := hi
  (repeat' split) <;> first | omega | (rw [← BitVec.getLsbD_eq_getElem]; congr 1; omega)
theorem encTI_opcode (op : BitVec 8) (f : TI) : (encTI op f).extractLsb' 24 8 = op := by
  unfold encTI
  ext i hi
  simp only [BitVec.getElem_extractLsb', BitVec.getLsbD_append]
  have : i < 8 := hi
  (repeat' split) <;> first | omega | (rw [← BitVec.getLsbD_eq_getElem]; congr 1; omega)
theorem encTC_opcode (op : BitVec 8) (f : TC) : (encTC op f).extractLsb' 24 8 = op := by
  unfold encTC
  ext i hi
  simp only [BitVec.getElem_extractLsb', BitVec.getLsbD_append]
  have : i < 8 := hi
  (repeat' split) <;> first | omega | (rw [← BitVec.getLsbD_eq_getElem]; congr 1; omega)
theorem encLS_opcode (op : BitVec 8) (f : LS) : (encLS op f).extractLsb' 24 8 = op := by
  unfold encLS
  ext i hi
  simp only [BitVec.getElem_extractLsb', BitVec.getLsbD_append]
  have : i < 8 := hi
  (repeat' split) <;> first | omega | (rw [← BitVec.getLsbD_eq_getElem]; congr 1; omega)
theorem encST_opcode (op : BitVec 8) (f : ST) : (encST op f).extractLsb' 24 8 = op := by
  unfold encST
  ext i hi
  simp only [BitVec.getElem_extractLsb', BitVec.getLsbD_append]
  have : i < 8 := hi
  (repeat' split) <;> first | omega | (rw [← BitVec.getLsbD_eq_getElem]; congr 1; omega)
theorem encAM_opcode (op : BitVec 8) (f : AM) : (encAM op f).extractLsb' 24 8 = op := by
  unfold encAM
  ext i hi
  simp only [BitVec.getElem_extractLsb', BitVec.getLsbD_append]
  have : i < 8 := hi
  (repeat' split) <;> first | omega | (rw [← BitVec.getLsbD_eq_getElem]; congr 1; omega)
theorem encFN_opcode (op : BitVec 8) (f : FN) : (encFN op f).extractLsb' 24 8 = op := by
  unfold encFN
  ext i hi
  simp only [BitVec.getElem_extractLsb', BitVec.getLsbD_append]
  have : i < 8 := hi
  (repeat' split) <;> first | omega | (rw [← BitVec.getLsbD_eq_getElem]; congr 1; omega)
theorem encBX_opcode (op : BitVec 8) (f : BX) : (encBX op f).extractLsb' 24 8 = op := by
  unfold encBX
  ext i hi
  simp only [BitVec.getElem_extractLsb', BitVec.getLsbD_append]
  have : i < 8 := hi
  (repeat' split) <;> first | omega | (rw [← BitVec.getLsbD_eq_getElem]; congr 1; omega)

namespace Laws.OpcodeMapped

/-- Where an instruction has a word, the opcode map lists the word's opcode. -/
def Statement (i : Instr) : Prop := ∀ w, encode i = some w → (formOf (w.extractLsb' 24 8).toNat).isSome = true

theorem rdg (f : RD) : Statement (.rdg f) := by
  rintro w ⟨⟩; rw [encRD_opcode]; rfl
theorem wrg (f : WR) : Statement (.wrg f) := by
  rintro w ⟨⟩; rw [encWR_opcode]; rfl
theorem mov (f : T2) : Statement (.mov f) := by
  rintro w ⟨⟩; rw [encT2_opcode]; rfl
theorem movi (f : TI) : Statement (.movi f) := by
  rintro w ⟨⟩; rw [encTI_opcode]; rfl
theorem movhi (f : TI) : Statement (.movhi f) := by
  rintro w ⟨⟩; rw [encTI_opcode]; rfl
theorem null (f : TB) : Statement (.null f) := by
  rintro w ⟨⟩; rw [encTB_opcode]; rfl
theorem snul (f : ST) : Statement (.snul f) := by
  rintro w ⟨⟩; rw [encST_opcode]; rfl
theorem add (f : T2) : Statement (.add f) := by
  rintro w ⟨⟩; rw [encT2_opcode]; rfl
theorem sub (f : T2) : Statement (.sub f) := by
  rintro w ⟨⟩; rw [encT2_opcode]; rfl
theorem mul (f : T2) : Statement (.mul f) := by
  rintro w ⟨⟩; rw [encT2_opcode]; rfl
theorem mulh (f : T2) : Statement (.mulh f) := by
  rintro w ⟨⟩; rw [encT2_opcode]; rfl
theorem mulhu (f : T2) : Statement (.mulhu f) := by
  rintro w ⟨⟩; rw [encT2_opcode]; rfl
theorem div (f : T2) : Statement (.div f) := by
  rintro w ⟨⟩; rw [encT2_opcode]; rfl
theorem divu (f : T2) : Statement (.divu f) := by
  rintro w ⟨⟩; rw [encT2_opcode]; rfl
theorem rem (f : T2) : Statement (.rem f) := by
  rintro w ⟨⟩; rw [encT2_opcode]; rfl
theorem remu (f : T2) : Statement (.remu f) := by
  rintro w ⟨⟩; rw [encT2_opcode]; rfl
theorem and (f : T2) : Statement (.and f) := by
  rintro w ⟨⟩; rw [encT2_opcode]; rfl
theorem or (f : T2) : Statement (.or f) := by
  rintro w ⟨⟩; rw [encT2_opcode]; rfl
theorem xor (f : T2) : Statement (.xor f) := by
  rintro w ⟨⟩; rw [encT2_opcode]; rfl
theorem shl (f : T2) : Statement (.shl f) := by
  rintro w ⟨⟩; rw [encT2_opcode]; rfl
theorem shr (f : T2) : Statement (.shr f) := by
  rintro w ⟨⟩; rw [encT2_opcode]; rfl
theorem sra (f : T2) : Statement (.sra f) := by
  rintro w ⟨⟩; rw [encT2_opcode]; rfl
theorem rol (f : T2) : Statement (.rol f) := by
  rintro w ⟨⟩; rw [encT2_opcode]; rfl
theorem min (f : T2) : Statement (.min f) := by
  rintro w ⟨⟩; rw [encT2_opcode]; rfl
theorem max (f : T2) : Statement (.max f) := by
  rintro w ⟨⟩; rw [encT2_opcode]; rfl
theorem minu (f : T2) : Statement (.minu f) := by
  rintro w ⟨⟩; rw [encT2_opcode]; rfl
theorem maxu (f : T2) : Statement (.maxu f) := by
  rintro w ⟨⟩; rw [encT2_opcode]; rfl
theorem clz (f : T2) : Statement (.clz f) := by
  rintro w ⟨⟩; rw [encT2_opcode]; rfl
theorem popc (f : T2) : Statement (.popc f) := by
  rintro w ⟨⟩; rw [encT2_opcode]; rfl
theorem ext (f : T2) : Statement (.ext f) := by
  rintro w ⟨⟩; rw [encT2_opcode]; rfl
theorem addi (f : TI) : Statement (.addi f) := by
  rintro w ⟨⟩; rw [encTI_opcode]; rfl
theorem andi (f : TI) : Statement (.andi f) := by
  rintro w ⟨⟩; rw [encTI_opcode]; rfl
theorem ori (f : TI) : Statement (.ori f) := by
  rintro w ⟨⟩; rw [encTI_opcode]; rfl
theorem xori (f : TI) : Statement (.xori f) := by
  rintro w ⟨⟩; rw [encTI_opcode]; rfl
theorem shli (f : TI) : Statement (.shli f) := by
  rintro w ⟨⟩; rw [encTI_opcode]; rfl
theorem shri (f : TI) : Statement (.shri f) := by
  rintro w ⟨⟩; rw [encTI_opcode]; rfl
theorem srai (f : TI) : Statement (.srai f) := by
  rintro w ⟨⟩; rw [encTI_opcode]; rfl
theorem muli (f : TI) : Statement (.muli f) := by
  rintro w ⟨⟩; rw [encTI_opcode]; rfl
theorem teq (f : T2) : Statement (.teq f) := by
  rintro w ⟨⟩; rw [encT2_opcode]; rfl
theorem tne (f : T2) : Statement (.tne f) := by
  rintro w ⟨⟩; rw [encT2_opcode]; rfl
theorem tlt (f : T2) : Statement (.tlt f) := by
  rintro w ⟨⟩; rw [encT2_opcode]; rfl
theorem tltu (f : T2) : Statement (.tltu f) := by
  rintro w ⟨⟩; rw [encT2_opcode]; rfl
theorem tle (f : T2) : Statement (.tle f) := by
  rintro w ⟨⟩; rw [encT2_opcode]; rfl
theorem tleu (f : T2) : Statement (.tleu f) := by
  rintro w ⟨⟩; rw [encT2_opcode]; rfl
theorem tgt (f : T2) : Statement (.tgt f) := by
  rintro w ⟨⟩; rw [encT2_opcode]; rfl
theorem tgtu (f : T2) : Statement (.tgtu f) := by
  rintro w ⟨⟩; rw [encT2_opcode]; rfl
theorem tge (f : T2) : Statement (.tge f) := by
  rintro w ⟨⟩; rw [encT2_opcode]; rfl
theorem tgeu (f : T2) : Statement (.tgeu f) := by
  rintro w ⟨⟩; rw [encT2_opcode]; rfl
theorem teqi (f : TI) : Statement (.teqi f) := by
  rintro w ⟨⟩; rw [encTI_opcode]; rfl
theorem tnei (f : TI) : Statement (.tnei f) := by
  rintro w ⟨⟩; rw [encTI_opcode]; rfl
theorem tlti (f : TI) : Statement (.tlti f) := by
  rintro w ⟨⟩; rw [encTI_opcode]; rfl
theorem tgei (f : TI) : Statement (.tgei f) := by
  rintro w ⟨⟩; rw [encTI_opcode]; rfl
theorem fadd (f : T2) : Statement (.fadd f) := by
  rintro w ⟨⟩; rw [encT2_opcode]; rfl
theorem fsub (f : T2) : Statement (.fsub f) := by
  rintro w ⟨⟩; rw [encT2_opcode]; rfl
theorem fmul (f : T2) : Statement (.fmul f) := by
  rintro w ⟨⟩; rw [encT2_opcode]; rfl
theorem fdiv (f : T2) : Statement (.fdiv f) := by
  rintro w ⟨⟩; rw [encT2_opcode]; rfl
theorem fma (f : T2) : Statement (.fma f) := by
  rintro w ⟨⟩; rw [encT2_opcode]; rfl
theorem fmin (f : T2) : Statement (.fmin f) := by
  rintro w ⟨⟩; rw [encT2_opcode]; rfl
theorem fmax (f : T2) : Statement (.fmax f) := by
  rintro w ⟨⟩; rw [encT2_opcode]; rfl
theorem fcvt (f : T2) : Statement (.fcvt f) := by
  rintro w ⟨⟩; rw [encT2_opcode]; rfl
theorem fteq (f : T2) : Statement (.fteq f) := by
  rintro w ⟨⟩; rw [encT2_opcode]; rfl
theorem ftlt (f : T2) : Statement (.ftlt f) := by
  rintro w ⟨⟩; rw [encT2_opcode]; rfl
theorem ftle (f : T2) : Statement (.ftle f) := by
  rintro w ⟨⟩; rw [encT2_opcode]; rfl
theorem fsqrt (f : T2) : Statement (.fsqrt f) := by
  rintro w ⟨⟩; rw [encT2_opcode]; rfl
theorem ld (f : LS) : Statement (.ld f) := by
  rintro w ⟨⟩; rw [encLS_opcode]; rfl
theorem lds (f : LS) : Statement (.lds f) := by
  rintro w ⟨⟩; rw [encLS_opcode]; rfl
theorem st (f : ST) : Statement (.st f) := by
  rintro w ⟨⟩; rw [encST_opcode]; rfl
theorem amoadd (f : AM) : Statement (.amoadd f) := by
  rintro w ⟨⟩; rw [encAM_opcode]; rfl
theorem amoswp (f : AM) : Statement (.amoswp f) := by
  rintro w ⟨⟩; rw [encAM_opcode]; rfl
theorem amocas (f : AM) : Statement (.amocas f) := by
  rintro w ⟨⟩; rw [encAM_opcode]; rfl
theorem amomin (f : AM) : Statement (.amomin f) := by
  rintro w ⟨⟩; rw [encAM_opcode]; rfl
theorem amomax (f : AM) : Statement (.amomax f) := by
  rintro w ⟨⟩; rw [encAM_opcode]; rfl
theorem amoand (f : AM) : Statement (.amoand f) := by
  rintro w ⟨⟩; rw [encAM_opcode]; rfl
theorem amoor (f : AM) : Statement (.amoor f) := by
  rintro w ⟨⟩; rw [encAM_opcode]; rfl
theorem fence (f : FN) : Statement (.fence f) := by
  rintro w ⟨⟩; rw [encFN_opcode]; rfl
theorem br (f : BX) : Statement (.br f) := by
  rintro w ⟨⟩; rw [encBX_opcode]; rfl
theorem bri (f : BX) : Statement (.bri f) := by
  rintro w ⟨⟩; rw [encBX_opcode]; rfl
theorem call (f : BX) : Statement (.call f) := by
  rintro w ⟨⟩; rw [encBX_opcode]; rfl
theorem calli (f : BX) : Statement (.calli f) := by
  rintro w ⟨⟩; rw [encBX_opcode]; rfl
theorem ret (f : BX) : Statement (.ret f) := by
  rintro w ⟨⟩; rw [encBX_opcode]; rfl
theorem jtab (f : BX) : Statement (.jtab f) := by
  rintro w ⟨⟩; rw [encBX_opcode]; rfl
theorem loop (f : BX) : Statement (.loop f) := by
  rintro w ⟨⟩; rw [encBX_opcode]; rfl
theorem scall (f : BX) : Statement (.scall f) := by
  rintro w ⟨⟩; rw [encBX_opcode]; rfl
theorem trap (f : BX) : Statement (.trap f) := by
  rintro w ⟨⟩; rw [encBX_opcode]; rfl
theorem eret (f : BX) : Statement (.eret f) := by
  rintro w ⟨⟩; rw [encBX_opcode]; rfl
theorem cfgl (f : TC) : Statement (.cfgl f) := by
  rintro w ⟨⟩; rw [encTC_opcode]; rfl
theorem cfga (f : TC) : Statement (.cfga f) := by
  rintro w ⟨⟩; rw [encTC_opcode]; rfl
theorem drain (f : TC) : Statement (.drain f) := by
  rintro w ⟨⟩; rw [encTC_opcode]; rfl
theorem tcnt (f : TC) : Statement (.tcnt f) := by
  rintro w ⟨⟩; rw [encTC_opcode]; rfl
theorem spush (f : TC) : Statement (.spush f) := by
  rintro w ⟨⟩; rw [encTC_opcode]; rfl
theorem spop (f : TC) : Statement (.spop f) := by
  rintro w ⟨⟩; rw [encTC_opcode]; rfl
theorem space (f : TC) : Statement (.space f) := by
  rintro w ⟨⟩; rw [encTC_opcode]; rfl
theorem inj (f : TC) : Statement (.inj f) := by
  rintro w ⟨⟩; rw [encTC_opcode]; rfl
theorem cfgw (f : TC) : Statement (.cfgw f) := by
  rintro w ⟨⟩; rw [encTC_opcode]; rfl
theorem bar (f : TC) : Statement (.bar f) := by
  rintro w ⟨⟩; rw [encTC_opcode]; rfl
theorem bwait (f : TB) : Statement (.bwait f) := by
  rintro w ⟨⟩; rw [encTB_opcode]; rfl
theorem bph (f : TC) : Statement (.bph f) := by
  rintro w ⟨⟩; rw [encTC_opcode]; rfl
theorem flgs (f : TC) : Statement (.flgs f) := by
  rintro w ⟨⟩; rw [encTC_opcode]; rfl
theorem flgc (f : TC) : Statement (.flgc f) := by
  rintro w ⟨⟩; rw [encTC_opcode]; rfl
theorem flgt (f : TC) : Statement (.flgt f) := by
  rintro w ⟨⟩; rw [encTC_opcode]; rfl
theorem flgw (f : TC) : Statement (.flgw f) := by
  rintro w ⟨⟩; rw [encTC_opcode]; rfl
theorem tagw (f : TC) : Statement (.tagw f) := by
  rintro w ⟨⟩; rw [encTC_opcode]; rfl
theorem tagf (f : TC) : Statement (.tagf f) := by
  rintro w ⟨⟩; rw [encTC_opcode]; rfl
theorem tagc (f : TC) : Statement (.tagc f) := by
  rintro w ⟨⟩; rw [encTC_opcode]; rfl
theorem depd (f : TC) : Statement (.depd f) := by
  rintro w ⟨⟩; rw [encTC_opcode]; rfl
theorem depr (f : TC) : Statement (.depr f) := by
  rintro w ⟨⟩; rw [encTC_opcode]; rfl
theorem cpch (f : TC) : Statement (.cpch f) := by
  rintro w ⟨⟩; rw [encTC_opcode]; rfl
theorem cpst (f : TC) : Statement (.cpst f) := by
  rintro w ⟨⟩; rw [encTC_opcode]; rfl
theorem cpab (f : TC) : Statement (.cpab f) := by
  rintro w ⟨⟩; rw [encTC_opcode]; rfl
theorem sysr (f : TI) : Statement (.sysr f) := by
  rintro w ⟨⟩; rw [encTI_opcode]; rfl
theorem sysw (f : TC) : Statement (.sysw f) := by
  rintro w ⟨⟩; rw [encTC_opcode]; rfl
theorem halt (f : TC) : Statement (.halt f) := by
  rintro w ⟨⟩; rw [encTC_opcode]; rfl
theorem waiti (f : TC) : Statement (.waiti f) := by
  rintro w ⟨⟩; rw [encTC_opcode]; rfl
theorem blockFetch (q : Nat) : Statement (.blockFetch q) := nofun
theorem blockDecode (q : Nat) : Statement (.blockDecode q) := nofun
theorem blockResolve (q : Nat) : Statement (.blockResolve q) := nofun
theorem blockCommit (q : Nat) : Statement (.blockCommit q) := nofun
theorem blkhang (q : Nat) : Statement (.blkhang q) := nofun
theorem runaheadBlockStart (q : Nat) : Statement (.runaheadBlockStart q) := nofun
theorem dbghalt (q : Nat) : Statement (.dbghalt q) := nofun
theorem preempt (die task reason : Nat) : Statement (.preempt die task reason) := nofun
theorem preemptGraceExpire (die task : Nat) : Statement (.preemptGraceExpire die task) := nofun
theorem registerWrite (q : Nat) (id : BitVec 12) (v : Word) : Statement (.registerWrite q id v) := nofun
theorem sqStatusWrite (q : Nat) (v : Word) : Statement (.sqStatusWrite q v) := nofun
theorem rasdWrite (q : Nat) (v : Word) : Statement (.rasdWrite q v) := nofun
theorem dbgCtlWrite (q : Nat) (v : Word) : Statement (.dbgCtlWrite q v) := nofun
theorem dbgHaltWrite (q k : Nat) (v : Word) : Statement (.dbgHaltWrite q k v) := nofun
theorem dbgStep (q : Nat) (v : Word) : Statement (.dbgStep q v) := nofun
theorem hangThaw (q : Nat) (v : Word) : Statement (.hangThaw q v) := nofun
theorem hangDiscard (q : Nat) (v : Word) : Statement (.hangDiscard q v) := nofun
theorem flogCtlWrite (q : Nat) (v : Word) : Statement (.flogCtlWrite q v) := nofun
theorem flogRdWrite (q : Nat) (v : Word) : Statement (.flogRdWrite q v) := nofun
theorem hangDeclaration (r : Nat) : Statement (.hangDeclaration r) := nofun
theorem tokenVisible (p : Port) : Statement (.tokenVisible p) := nofun
theorem requestArrival (p : Port) : Statement (.requestArrival p) := nofun
theorem strayControlDiscard (p : Port) : Statement (.strayControlDiscard p) := nofun
theorem sluicePark (p : Port) : Statement (.sluicePark p) := nofun
theorem remoteFrameReceive (peer seq handle : Nat) (words : List (List Word)) : Statement (.remoteFrameReceive peer seq handle words) := nofun
theorem remoteRetransmit (peer k : Nat) : Statement (.remoteRetransmit peer k) := nofun
theorem remotePeerTimeout (peer : Nat) : Statement (.remotePeerTimeout peer) := nofun
theorem contextArm (c : Nat) : Statement (.contextArm c) := nofun
theorem drainComplete (c : Nat) : Statement (.drainComplete c) := nofun
theorem phaseEnd (c : Nat) : Statement (.phaseEnd c) := nofun
theorem barrierArrival (k : Nat) : Statement (.barrierArrival k) := nofun
theorem copyChainStart (die ch : Nat) : Statement (.copyChainStart die ch) := nofun
theorem copyRecordRead (die ch : Nat) : Statement (.copyRecordRead die ch) := nofun
theorem copyWriteUnit (die ch : Nat) : Statement (.copyWriteUnit die ch) := nofun
theorem copyRecordComplete (die ch : Nat) : Statement (.copyRecordComplete die ch) := nofun
theorem headraceRecordRead (die : Nat) : Statement (.headraceRecordRead die) := nofun
theorem headraceSectionComplete (die : Nat) : Statement (.headraceSectionComplete die) := nofun
theorem taskAllocate (die task : Nat) : Statement (.taskAllocate die task) := nofun
theorem taskSelect (die : Nat) : Statement (.taskSelect die) := nofun
theorem taskLaunch (die task : Nat) : Statement (.taskLaunch die task) := nofun
theorem taskEnd (die task : Nat) : Statement (.taskEnd die task) := nofun
theorem preemptDecision (die : Nat) : Statement (.preemptDecision die) := nofun
theorem saveComplete (die task : Nat) : Statement (.saveComplete die task) := nofun
theorem taskResume (die task : Nat) : Statement (.taskResume die task) := nofun
theorem restoreComplete (die task : Nat) : Statement (.restoreComplete die task) := nofun
theorem taskFault (die task : Nat) : Statement (.taskFault die task) := nofun
theorem taskResetByHost (die task : Nat) : Statement (.taskResetByHost die task) := nofun
theorem taskReleaseByHost (die task : Nat) : Statement (.taskReleaseByHost die task) := nofun
theorem stageWiden (die task stage : Nat) : Statement (.stageWiden die task stage) := nofun
theorem pagerResolve (part : Nat) : Statement (.pagerResolve part) := nofun
theorem correctedError (kind index : Nat) : Statement (.correctedError kind index) := nofun
theorem quiesce (v : Word) : Statement (.quiesce v) := nofun
theorem quiesceComplete (die col : Nat) : Statement (.quiesceComplete die col) := nofun
theorem retain (v : Word) : Statement (.retain v) := nofun
theorem retainComplete (die col : Nat) : Statement (.retainComplete die col) := nofun
theorem gate (v : Word) : Statement (.gate v) := nofun
theorem gateComplete (die col : Nat) : Statement (.gateComplete die col) := nofun
theorem release (v : Word) : Statement (.release v) := nofun
theorem groupSelectDie (v : Word) : Statement (.groupSelectDie v) := nofun
theorem wake (v : Word) : Statement (.wake v) := nofun
theorem wakeComplete (die col : Nat) : Statement (.wakeComplete die col) := nofun
theorem pwrCapWrite (v : Word) : Statement (.pwrCapWrite v) := nofun
theorem pwrErrlogClear (v : Word) : Statement (.pwrErrlogClear v) := nofun
theorem pwrVsetWrite (v : Word) : Statement (.pwrVsetWrite v) := nofun
theorem voltageSlew (r : Nat) : Statement (.voltageSlew r) := nofun
theorem pwrEvalWrite (v : Word) : Statement (.pwrEvalWrite v) := nofun
theorem partitionLoad (v : Word) : Statement (.partitionLoad v) := nofun
theorem powerMeasure (mw : Nat) : Statement (.powerMeasure mw) := nofun
theorem millpondHold (r pct : Nat) : Statement (.millpondHold r pct) := nofun
theorem millpondRelease (r pct : Nat) : Statement (.millpondRelease r pct) := nofun
theorem regionIdleGate (r : Nat) : Statement (.regionIdleGate r) := nofun
theorem regionIdleWake (r : Nat) : Statement (.regionIdleWake r) := nofun
theorem hostMemoryWindow (part : Nat) (va : Word) (write : Bool) (data : List Byte) : Statement (.hostMemoryWindow part va write data) := nofun
theorem hostTaskPost (v : Word) : Statement (.hostTaskPost v) := nofun
theorem hostArmPost (v : Word) : Statement (.hostArmPost v) := nofun
theorem attestationRequest (nonce : List Byte) : Statement (.attestationRequest nonce) := nofun
theorem moduleReset (stages : List (List Byte)) : Statement (.moduleReset stages) := nofun
theorem regaccRead (target : BitVec 8) (id : BitVec 12) : Statement (.regaccRead target id) := nofun
theorem regaccWrite (target : BitVec 8) (id : BitVec 12) (v : Word) : Statement (.regaccWrite target id v) := nofun
theorem accessPerformed (q blk ix : Nat) : Statement (.accessPerformed q blk ix) := nofun
theorem tilePortWrite : Statement .tilePortWrite := nofun
theorem tileExchange : Statement .tileExchange := nofun
theorem controlTokenPassage : Statement .controlTokenPassage := nofun
theorem vadd : Statement .vadd := nofun
theorem vsub : Statement .vsub := nofun
theorem vmul : Statement .vmul := nofun
theorem vmin : Statement .vmin := nofun
theorem vmax : Statement .vmax := nofun
theorem vabs : Statement .vabs := nofun
theorem vneg : Statement .vneg := nofun
theorem vadds : Statement .vadds := nofun
theorem vsubs : Statement .vsubs := nofun
theorem vand : Statement .vand := nofun
theorem vor : Statement .vor := nofun
theorem vxor : Statement .vxor := nofun
theorem vshl : Statement .vshl := nofun
theorem vshr : Statement .vshr := nofun
theorem vsra : Statement .vsra := nofun
theorem vcmp : Statement .vcmp := nofun
theorem vcmpi : Statement .vcmpi := nofun
theorem vsel : Statement .vsel := nofun
theorem vaddi : Statement .vaddi := nofun
theorem vcvt : Statement .vcvt := nofun
theorem vscl : Statement .vscl := nofun
theorem vfma : Statement .vfma := nofun
theorem vexp2 : Statement .vexp2 := nofun
theorem vlog2 : Statement .vlog2 := nofun
theorem vrcp : Statement .vrcp := nofun
theorem vrsq : Statement .vrsq := nofun
theorem vtanh : Statement .vtanh := nofun
theorem vsigm : Statement .vsigm := nofun
theorem vrsum : Statement .vrsum := nofun
theorem vrmax : Statement .vrmax := nofun
theorem vtrn : Statement .vtrn := nofun
theorem hmix : Statement .hmix := nofun
theorem vmask : Statement .vmask := nofun
theorem mma : Statement .mma := nofun
theorem sysm : Statement .sysm := nofun
theorem aclr : Statement .aclr := nofun
theorem res : Statement .res := nofun
theorem resn : Statement .resn := nofun
theorem acmp : Statement .acmp := nofun
theorem astr : Statement .astr := nofun
theorem ald : Statement .ald := nofun
theorem aadd : Statement .aadd := nofun
theorem tld : Statement .tld := nofun
theorem txch : Statement .txch := nofun
theorem temit : Statement .temit := nofun
theorem bufw : Statement .bufw := nofun
theorem bufr : Statement .bufr := nofun
theorem bufrp : Statement .bufrp := nofun
theorem bufrn : Statement .bufrn := nofun
theorem scrw : Statement .scrw := nofun
theorem scrr : Statement .scrr := nofun
theorem agseq : Statement .agseq := nofun
theorem agld : Statement .agld := nofun
theorem agst : Statement .agst := nofun
theorem aggat : Statement .aggat := nofun
theorem agsct : Statement .agsct := nofun
theorem agatm : Statement .agatm := nofun
theorem agDescriptorFetch : Statement .agDescriptorFetch := nofun
theorem agMemoryResponse : Statement .agMemoryResponse := nofun
theorem agPageFault : Statement .agPageFault := nofun
theorem steer : Statement .steer := nofun
theorem steern : Statement .steern := nofun
theorem sink : Statement .sink := nofun
theorem merge : Statement .merge := nofun
theorem mergea : Statement .mergea := nofun
theorem mergec : Statement .mergec := nofun
theorem carry : Statement .carry := nofun
theorem inv : Statement .inv := nofun
theorem repeatTok : Statement .repeatTok := nofun
theorem repeatp : Statement .repeatp := nofun
theorem const : Statement .const := nofun
theorem count : Statement .count := nofun
theorem ratem : Statement .ratem := nofun
theorem scsplit : Statement .scsplit := nofun
theorem scjoin : Statement .scjoin := nofun
theorem rdadd : Statement .rdadd := nofun
theorem rdmax : Statement .rdmax := nofun
theorem rdmin : Statement .rdmin := nofun
theorem fan : Statement .fan := nofun
theorem ingr : Statement .ingr := nofun
theorem egr : Statement .egr := nofun
theorem ingrq : Statement .ingrq := nofun
theorem egrq : Statement .egrq := nofun
theorem flset : Statement .flset := nofun
theorem flclr : Statement .flclr := nofun
theorem fltst : Statement .fltst := nofun
theorem flwait : Statement .flwait := nofun
theorem flgate : Statement .flgate := nofun
theorem errorWindowExpire : Statement .errorWindowExpire := nofun
theorem staticEnergyTick : Statement .staticEnergyTick := nofun
theorem extest : Statement .extest := nofun
theorem idcode : Statement .idcode := nofun
theorem samplePreload : Statement .samplePreload := nofun
theorem sqhaltStop : Statement .sqhaltStop := nofun
theorem sqhaltRelease : Statement .sqhaltRelease := nofun
theorem bypass : Statement .bypass := nofun

end Laws.OpcodeMapped

end Sys2Proof
end

