-- ==== Sys2Proof/Tests/Slice0.lean ====
section
/-! SUPPORT. Tests of the model: well-formedness, decoding of words written out from the tables of R13 to R17, single
steps whose results are worked in the specification, and, for every statement with hypotheses, states and operands that
meet them. -/

namespace Sys2Proof

set_option Elab.async false
set_option synthInstance.maxSize 2000

open Machine

/-! ## Ill-formed instructions are refused (R13-R18, R2, R3) -/

theorem test_wf_refuses_t2 : ([
    .mov ⟨false, .always, 0, 0, 1⟩, .add ⟨false, .always, 0, 0, 2⟩, .sub ⟨false, .always, 0, 0, 2⟩,
    .mul ⟨false, .always, 0, 0, 2⟩, .mulh ⟨false, .always, 0, 0, 2⟩, .mulhu ⟨false, .always, 0, 0, 2⟩,
    .div ⟨false, .always, 0, 0, 2⟩, .divu ⟨false, .always, 0, 0, 2⟩, .rem ⟨false, .always, 0, 0, 2⟩,
    .remu ⟨false, .always, 0, 0, 2⟩, .and ⟨false, .always, 0, 0, 2⟩, .or ⟨false, .always, 0, 0, 2⟩,
    .xor ⟨false, .always, 0, 0, 2⟩, .shl ⟨false, .always, 0, 0, 2⟩, .shr ⟨false, .always, 0, 0, 2⟩,
    .sra ⟨false, .always, 0, 0, 2⟩, .rol ⟨false, .always, 0, 0, 2⟩, .min ⟨false, .always, 0, 0, 2⟩,
    .max ⟨false, .always, 0, 0, 2⟩, .minu ⟨false, .always, 0, 0, 2⟩, .maxu ⟨false, .always, 0, 0, 2⟩,
    .clz ⟨false, .always, 0, 0, 2⟩, .popc ⟨false, .always, 0, 0, 2⟩, .ext ⟨false, .always, 0, 0, 6⟩,
    .teq ⟨false, .always, 0, 0, 2⟩, .tne ⟨false, .always, 0, 0, 2⟩, .tlt ⟨false, .always, 0, 0, 2⟩,
    .tltu ⟨false, .always, 0, 0, 2⟩, .tle ⟨false, .always, 0, 0, 2⟩, .tleu ⟨false, .always, 0, 0, 2⟩,
    .tgt ⟨false, .always, 0, 0, 2⟩, .tgtu ⟨false, .always, 0, 0, 2⟩, .tge ⟨false, .always, 0, 0, 2⟩,
    .tgeu ⟨false, .always, 0, 0, 2⟩, .fadd ⟨false, .always, 0, 0, 2⟩, .fsub ⟨false, .always, 0, 0, 2⟩,
    .fmul ⟨false, .always, 0, 0, 2⟩, .fdiv ⟨false, .always, 0, 0, 2⟩, .fma ⟨false, .always, 0, 0, 2⟩,
    .fmin ⟨false, .always, 0, 0, 2⟩, .fmax ⟨false, .always, 0, 0, 2⟩, .fteq ⟨false, .always, 0, 0, 2⟩,
    .ftlt ⟨false, .always, 0, 0, 2⟩, .ftle ⟨false, .always, 0, 0, 2⟩, .fsqrt ⟨false, .always, 0, 0, 2⟩
  ] : List Instr).all (fun i => !i.wf) = true := by decide +kernel

theorem test_wf_refuses_memory : ([
    .snul ⟨.always, 0, 1, 0⟩, .snul ⟨.always, 0, 0, 1⟩, .amoadd ⟨.always, 0, noTarget, false, 5, 0⟩,
    .amoswp ⟨.always, 0, noTarget, false, 5, 0⟩, .amocas ⟨.always, 0, noTarget, false, 5, 0⟩,
    .amomin ⟨.always, 0, noTarget, false, 5, 0⟩, .amomax ⟨.always, 0, noTarget, false, 5, 0⟩,
    .amoand ⟨.always, 0, noTarget, false, 5, 0⟩, .amoor ⟨.always, 0, noTarget, false, 5, 0⟩, .fence ⟨0, 5, 1, 1⟩
  ] : List Instr).all (fun i => !i.wf) = true := by decide +kernel

theorem test_wf_refuses_shift : ([
    .shli ⟨false, .always, 0, 64⟩, .shri ⟨false, .always, 0, 64⟩, .srai ⟨false, .always, 0, 64⟩
  ] : List Instr).all (fun i => !i.wf) = true := by decide +kernel

theorem test_wf_refuses_exit : ([
    .bri ⟨.always, 0, 1⟩, .calli ⟨.always, 0, 1⟩, .ret ⟨.always, 0, 1⟩, .scall ⟨.always, 0, 4096⟩,
    .trap ⟨.always, 0, 4096⟩, .eret ⟨.always, 0, 1⟩
  ] : List Instr).all (fun i => !i.wf) = true := by decide +kernel

theorem test_wf_refuses_command : ([
    .cfgl ⟨.always, 0, 4⟩, .cfga ⟨.always, 0, 0⟩, .cfga ⟨.always, noTarget, 4⟩, .drain ⟨.always, 0, 1⟩,
    .tcnt ⟨.always, 0, 0⟩, .tcnt ⟨.always, noTarget, 128⟩, .tcnt ⟨.always, noTarget, 12⟩,
    .spush ⟨.always, 0, 0⟩, .spush ⟨.always, noTarget, 4⟩, .spop ⟨.always, 0, 4⟩, .space ⟨.always, 0, 4⟩,
    .inj ⟨.always, 0, 0⟩, .inj ⟨.always, noTarget, 4⟩, .cfgw ⟨.always, 0, 0⟩, .cfgw ⟨.always, noTarget, 12⟩,
    .cfgw ⟨.always, noTarget, 640⟩, .bar ⟨.always, 0, 1⟩, .bph ⟨.always, 0, 1⟩, .tagw ⟨.always, 0, 1⟩,
    .tagf ⟨.always, 0, 1⟩, .tagc ⟨.always, 0, 0⟩, .tagc ⟨.always, noTarget, 1⟩, .depd ⟨.always, 0, 0⟩,
    .depr ⟨.always, 0, 0⟩, .cpch ⟨.always, 0, 0⟩, .cpch ⟨.always, noTarget, 256⟩, .cpst ⟨.always, 0, 0⟩,
    .cpst ⟨.always, noTarget, 256⟩, .cpab ⟨.always, 0, 0⟩, .cpab ⟨.always, noTarget, 256⟩,
    .sysw ⟨.always, 0, 0⟩, .halt ⟨.always, 0, 0⟩, .halt ⟨.always, noTarget, 1⟩, .waiti ⟨.always, 0, 1⟩
  ] : List Instr).all (fun i => !i.wf) = true := by decide +kernel

theorem test_wf_refuses_party : ([
    .blockFetch 97, .blockDecode 97, .blockResolve 97, .blockCommit 97, .blkhang 97, .runaheadBlockStart 97,
    .dbghalt 97, .preempt 4 0 0, .preempt 0 4096 0, .preempt 0 0 16, .preemptGraceExpire 4 0,
    .preemptGraceExpire 0 4096, .registerWrite 97 0 0, .sqStatusWrite 97 0, .rasdWrite 97 0, .dbgCtlWrite 96 0,
    .dbgHaltWrite 96 0 0, .dbgHaltWrite 0 16 0, .dbgStep 96 0, .hangThaw 96 0, .hangDiscard 96 0,
    .flogCtlWrite 97 0, .flogRdWrite 97 0, .hangDeclaration 96, .tokenVisible ⟨96, 0⟩, .tokenVisible ⟨0, 384⟩,
    .requestArrival ⟨96, 0⟩, .requestArrival ⟨0, 384⟩, .strayControlDiscard ⟨96, 0⟩,
    .strayControlDiscard ⟨0, 384⟩, .sluicePark ⟨96, 0⟩, .sluicePark ⟨0, 384⟩, .remoteFrameReceive 64 0 0 [],
    .remoteRetransmit 64 0, .remotePeerTimeout 64, .copyChainStart 4 0, .copyChainStart 0 64,
    .copyRecordRead 4 0, .copyRecordRead 0 64, .copyWriteUnit 4 0, .copyWriteUnit 0 64, .copyRecordComplete 4 0,
    .copyRecordComplete 0 64, .headraceRecordRead 4, .headraceSectionComplete 4, .taskAllocate 4 0
  ] : List Instr).all (fun i => !i.wf) = true := by decide +kernel

theorem test_wf_refuses_party_1 : ([
    .taskAllocate 0 4096, .taskSelect 4, .taskLaunch 4 0, .taskLaunch 0 4096, .taskEnd 4 0, .taskEnd 0 4096,
    .preemptDecision 4, .saveComplete 4 0, .saveComplete 0 4096, .taskResume 4 0, .taskResume 0 4096,
    .restoreComplete 4 0, .restoreComplete 0 4096, .taskFault 4 0, .taskFault 0 4096, .taskResetByHost 4 0,
    .taskResetByHost 0 4096, .taskReleaseByHost 4 0, .taskReleaseByHost 0 4096, .stageWiden 4 0 0,
    .stageWiden 0 4096 0, .pagerResolve 8, .quiesceComplete 4 0, .quiesceComplete 0 6, .retainComplete 4 0,
    .retainComplete 0 6, .gateComplete 4 0, .gateComplete 0 6, .wakeComplete 4 0, .wakeComplete 0 6,
    .voltageSlew 96, .millpondHold 96 0, .millpondRelease 96 0, .regionIdleGate 96, .regionIdleWake 96,
    .hostMemoryWindow 8 0 false [], .hostTaskPost 0x4000, .hostArmPost 0, .attestationRequest [],
    .accessPerformed 97 0 0
  ] : List Instr).all (fun i => !i.wf) = true := by decide +kernel

/-! ## Words written out field by field (R13, R14): target 0x05A is i22.p, 0x0C5 is i49.r -/

theorem test_decode_registers : ([
    (0b00000001_100101_001011010_011000101, .rdg ⟨37, 0x05A, 0x0C5⟩),
    (0b00000010_11_101010_0000000000000000, .wrg ⟨.onFalse, 42⟩),
    (0b00000011_1_10_001011010_011000101_000, .mov ⟨true, .onTrue, 0x05A, 0x0C5, 0⟩),
    (0b00000100_0_00_001011010_100000000000, .movi ⟨false, .always, 0x05A, 0x800⟩),
    (0b00000101_1_11_001011010_101010111100, .movhi ⟨true, .onFalse, 0x05A, 0xABC⟩),
    (0b00000110_0_10_001011010_011000101_000, .null ⟨.onTrue, 0x05A, 0x0C5⟩)
  ] : List (Nat × Instr)).all (fun p => decodeTableWord 32 p.1 = some p.2 ∧ p.2.wf = true) = true := by decide +kernel

theorem test_decode_memory : ([
    (0b00000111_0_11_10011_00_00000000000000, .snul ⟨.onFalse, 19, 0, 0⟩),
    (0b01100000_1_00_10101_001011010_10_10011, .ld ⟨true, .always, 21, 0x05A, 2, 0x13⟩),
    (0b01100001_0_10_10101_001011010_11_10011, .lds ⟨false, .onTrue, 21, 0x05A, 3, 0x13⟩),
    (0b01100010_0_10_10101_01_10000000000001, .st ⟨.onTrue, 21, 1, 0x2001⟩),
    (0b01100011_0_00_11000_001011010_0_000_00_0, .amoadd ⟨.always, 24, 0x05A, false, 0, 0⟩),
    (0b01100100_0_10_11001_001011010_1_001_01_0, .amoswp ⟨.onTrue, 25, 0x05A, true, 1, 1⟩),
    (0b01100101_0_11_11010_001011010_0_010_10_0, .amocas ⟨.onFalse, 26, 0x05A, false, 2, 2⟩),
    (0b01100110_0_00_11011_001011010_1_011_11_0, .amomin ⟨.always, 27, 0x05A, true, 3, 3⟩),
    (0b01100111_0_10_11100_001011010_0_100_00_0, .amomax ⟨.onTrue, 28, 0x05A, false, 4, 0⟩),
    (0b01101000_0_11_11101_001011010_1_000_01_0, .amoand ⟨.onFalse, 29, 0x05A, true, 0, 1⟩),
    (0b01101001_0_00_11110_001011010_0_001_10_0, .amoor ⟨.always, 30, 0x05A, false, 1, 2⟩),
    (0b01101010_00100_010_00000011_00001100, .fence ⟨4, 2, 0x03, 0x0C⟩)
  ] : List (Nat × Instr)).all (fun p => decodeTableWord 32 p.1 = some p.2 ∧ p.2.wf = true) = true := by decide +kernel

theorem test_decode_integer : ([
    (0b00010000_0_00_001011010_011000101_001, .add ⟨false, .always, 0x05A, 0x0C5, 1⟩),
    (0b00010001_1_10_001011010_011000101_000, .sub ⟨true, .onTrue, 0x05A, 0x0C5, 0⟩),
    (0b00010010_0_11_001011010_011000101_001, .mul ⟨false, .onFalse, 0x05A, 0x0C5, 1⟩),
    (0b00010011_1_00_001011010_011000101_000, .mulh ⟨true, .always, 0x05A, 0x0C5, 0⟩),
    (0b00010100_0_10_001011010_011000101_001, .mulhu ⟨false, .onTrue, 0x05A, 0x0C5, 1⟩),
    (0b00010101_1_11_001011010_011000101_000, .div ⟨true, .onFalse, 0x05A, 0x0C5, 0⟩),
    (0b00010110_0_00_001011010_011000101_001, .divu ⟨false, .always, 0x05A, 0x0C5, 1⟩),
    (0b00010111_1_10_001011010_011000101_000, .rem ⟨true, .onTrue, 0x05A, 0x0C5, 0⟩),
    (0b00011000_0_11_001011010_011000101_001, .remu ⟨false, .onFalse, 0x05A, 0x0C5, 1⟩),
    (0b00011001_1_00_001011010_011000101_000, .and ⟨true, .always, 0x05A, 0x0C5, 0⟩),
    (0b00011010_0_10_001011010_011000101_001, .or ⟨false, .onTrue, 0x05A, 0x0C5, 1⟩),
    (0b00011011_1_11_001011010_011000101_000, .xor ⟨true, .onFalse, 0x05A, 0x0C5, 0⟩),
    (0b00011100_0_00_001011010_011000101_001, .shl ⟨false, .always, 0x05A, 0x0C5, 1⟩),
    (0b00011101_1_10_001011010_011000101_000, .shr ⟨true, .onTrue, 0x05A, 0x0C5, 0⟩),
    (0b00011110_0_11_001011010_011000101_001, .sra ⟨false, .onFalse, 0x05A, 0x0C5, 1⟩),
    (0b00011111_1_00_001011010_011000101_000, .rol ⟨true, .always, 0x05A, 0x0C5, 0⟩),
    (0b00100000_0_10_001011010_011000101_001, .min ⟨false, .onTrue, 0x05A, 0x0C5, 1⟩),
    (0b00100001_1_11_001011010_011000101_000, .max ⟨true, .onFalse, 0x05A, 0x0C5, 0⟩),
    (0b00100010_0_00_001011010_011000101_001, .minu ⟨false, .always, 0x05A, 0x0C5, 1⟩),
    (0b00100011_1_10_001011010_011000101_000, .maxu ⟨true, .onTrue, 0x05A, 0x0C5, 0⟩),
    (0b00100100_0_11_001011010_011000101_001, .clz ⟨false, .onFalse, 0x05A, 0x0C5, 1⟩),
    (0b00100101_1_00_001011010_011000101_000, .popc ⟨true, .always, 0x05A, 0x0C5, 0⟩),
    (0b00100110_0_00_001011010_011000101_101, .ext ⟨false, .always, 0x05A, 0x0C5, 5⟩)
  ] : List (Nat × Instr)).all (fun p => decodeTableWord 32 p.1 = some p.2 ∧ p.2.wf = true) = true := by decide +kernel

theorem test_decode_immediate : ([
    (0b00110000_0_00_001011010_111100000101, .addi ⟨false, .always, 0x05A, 0xF05⟩),
    (0b00110001_1_10_001011010_111100000110, .andi ⟨true, .onTrue, 0x05A, 0xF06⟩),
    (0b00110010_0_11_001011010_111100000111, .ori ⟨false, .onFalse, 0x05A, 0xF07⟩),
    (0b00110011_1_00_001011010_111100001000, .xori ⟨true, .always, 0x05A, 0xF08⟩),
    (0b00110100_0_10_001011010_000000111011, .shli ⟨false, .onTrue, 0x05A, 0x03B⟩),
    (0b00110101_1_11_001011010_000000111010, .shri ⟨true, .onFalse, 0x05A, 0x03A⟩),
    (0b00110110_0_00_001011010_000000111001, .srai ⟨false, .always, 0x05A, 0x039⟩),
    (0b00110111_1_10_001011010_111100001100, .muli ⟨true, .onTrue, 0x05A, 0xF0C⟩)
  ] : List (Nat × Instr)).all (fun p => decodeTableWord 32 p.1 = some p.2 ∧ p.2.wf = true) = true := by decide +kernel

theorem test_decode_compare : ([
    (0b01000000_1_00_001011010_011000101_000, .teq ⟨true, .always, 0x05A, 0x0C5, 0⟩),
    (0b01000001_0_10_001011010_011000101_001, .tne ⟨false, .onTrue, 0x05A, 0x0C5, 1⟩),
    (0b01000010_1_11_001011010_011000101_000, .tlt ⟨true, .onFalse, 0x05A, 0x0C5, 0⟩),
    (0b01000011_0_00_001011010_011000101_001, .tltu ⟨false, .always, 0x05A, 0x0C5, 1⟩),
    (0b01000100_1_10_001011010_011000101_000, .tle ⟨true, .onTrue, 0x05A, 0x0C5, 0⟩),
    (0b01000101_0_11_001011010_011000101_001, .tleu ⟨false, .onFalse, 0x05A, 0x0C5, 1⟩),
    (0b01000110_1_00_001011010_011000101_000, .tgt ⟨true, .always, 0x05A, 0x0C5, 0⟩),
    (0b01000111_0_10_001011010_011000101_001, .tgtu ⟨false, .onTrue, 0x05A, 0x0C5, 1⟩),
    (0b01001000_1_11_001011010_011000101_000, .tge ⟨true, .onFalse, 0x05A, 0x0C5, 0⟩),
    (0b01001001_0_00_001011010_011000101_001, .tgeu ⟨false, .always, 0x05A, 0x0C5, 1⟩),
    (0b01001010_0_00_001011010_011111111110, .teqi ⟨false, .always, 0x05A, 0x7FE⟩),
    (0b01001011_1_10_001011010_011111111111, .tnei ⟨true, .onTrue, 0x05A, 0x7FF⟩),
    (0b01001100_0_11_001011010_100000000000, .tlti ⟨false, .onFalse, 0x05A, 0x800⟩),
    (0b01001101_1_00_001011010_100000000001, .tgei ⟨true, .always, 0x05A, 0x801⟩)
  ] : List (Nat × Instr)).all (fun p => decodeTableWord 32 p.1 = some p.2 ∧ p.2.wf = true) = true := by decide +kernel

theorem test_decode_float : ([
    (0b01010000_0_00_001011010_011000101_001, .fadd ⟨false, .always, 0x05A, 0x0C5, 1⟩),
    (0b01010001_1_10_001011010_011000101_000, .fsub ⟨true, .onTrue, 0x05A, 0x0C5, 0⟩),
    (0b01010010_0_11_001011010_011000101_001, .fmul ⟨false, .onFalse, 0x05A, 0x0C5, 1⟩),
    (0b01010011_1_00_001011010_011000101_000, .fdiv ⟨true, .always, 0x05A, 0x0C5, 0⟩),
    (0b01010100_0_10_001011010_011000101_001, .fma ⟨false, .onTrue, 0x05A, 0x0C5, 1⟩),
    (0b01010101_1_11_001011010_011000101_000, .fmin ⟨true, .onFalse, 0x05A, 0x0C5, 0⟩),
    (0b01010110_0_00_001011010_011000101_001, .fmax ⟨false, .always, 0x05A, 0x0C5, 1⟩),
    (0b01010111_1_10_001011010_011000101_110, .fcvt ⟨true, .onTrue, 0x05A, 0x0C5, 6⟩),
    (0b01011000_0_11_001011010_011000101_001, .fteq ⟨false, .onFalse, 0x05A, 0x0C5, 1⟩),
    (0b01011001_1_00_001011010_011000101_000, .ftlt ⟨true, .always, 0x05A, 0x0C5, 0⟩),
    (0b01011010_0_10_001011010_011000101_001, .ftle ⟨false, .onTrue, 0x05A, 0x0C5, 1⟩),
    (0b01011011_1_11_001011010_011000101_000, .fsqrt ⟨true, .onFalse, 0x05A, 0x0C5, 0⟩)
  ] : List (Nat × Instr)).all (fun p => decodeTableWord 32 p.1 = some p.2 ∧ p.2.wf = true) = true := by decide +kernel

theorem test_decode_exit : ([
    (0b01110000_0_00_000_111111111111111101, .br ⟨.always, 0, 0x3FFFD⟩),
    (0b01110001_0_10_001_000000000000000000, .bri ⟨.onTrue, 1, 0x00000⟩),
    (0b01110010_0_11_010_000000000101010101, .call ⟨.onFalse, 2, 0x00155⟩),
    (0b01110011_0_00_011_000000000000000000, .calli ⟨.always, 3, 0x00000⟩),
    (0b01110100_0_10_100_000000000000000000, .ret ⟨.onTrue, 4, 0x00000⟩),
    (0b01110101_0_11_101_100000000000000001, .jtab ⟨.onFalse, 5, 0x20001⟩),
    (0b01110110_0_00_110_101010101010101010, .loop ⟨.always, 6, 0x2AAAA⟩),
    (0b01110111_0_10_111_000000111111111111, .scall ⟨.onTrue, 7, 0x00FFF⟩),
    (0b01111000_0_11_000_000000100000000001, .trap ⟨.onFalse, 0, 0x00801⟩),
    (0b01111001_0_00_001_000000000000000000, .eret ⟨.always, 1, 0x00000⟩)
  ] : List (Nat × Instr)).all (fun p => decodeTableWord 32 p.1 = some p.2 ∧ p.2.wf = true) = true := by decide +kernel

theorem test_decode_fabric : ([
    (0b10000000_0_00_001011010_000000000011, .cfgl ⟨.always, 0x05A, 0x003⟩),
    (0b10000001_0_10_111111111_000000000010, .cfga ⟨.onTrue, 0x1FF, 0x002⟩),
    (0b10000010_0_11_001011010_000000000000, .drain ⟨.onFalse, 0x05A, 0x000⟩),
    (0b10000011_0_00_111111111_000001111011, .tcnt ⟨.always, 0x1FF, 0x07B⟩),
    (0b10000100_0_10_111111111_000000000001, .spush ⟨.onTrue, 0x1FF, 0x001⟩),
    (0b10000101_0_11_001011010_000000000011, .spop ⟨.onFalse, 0x05A, 0x003⟩),
    (0b10000110_0_00_001011010_000000000010, .space ⟨.always, 0x05A, 0x002⟩),
    (0b10000111_0_10_111111111_000000000001, .inj ⟨.onTrue, 0x1FF, 0x001⟩),
    (0b10001000_0_11_111111111_111001001011, .cfgw ⟨.onFalse, 0x1FF, 0xE4B⟩)
  ] : List (Nat × Instr)).all (fun p => decodeTableWord 32 p.1 = some p.2 ∧ p.2.wf = true) = true := by decide +kernel

theorem test_decode_sync : ([
    (0b10010000_0_10_001011010_000000000000, .bar ⟨.onTrue, 0x05A, 0x000⟩),
    (0b10010001_0_11_001011010_011000101_000, .bwait ⟨.onFalse, 0x05A, 0x0C5⟩),
    (0b10010010_0_00_001011010_000000000000, .bph ⟨.always, 0x05A, 0x000⟩),
    (0b10010011_0_00_001011010_111111111111, .flgs ⟨.always, 0x05A, 0xFFF⟩),
    (0b10010100_0_10_001011010_111111111110, .flgc ⟨.onTrue, 0x05A, 0xFFE⟩),
    (0b10010101_0_11_001011010_111111111101, .flgt ⟨.onFalse, 0x05A, 0xFFD⟩),
    (0b10010110_0_00_001011010_111111111100, .flgw ⟨.always, 0x05A, 0xFFC⟩),
    (0b10010111_0_10_001011010_000000000000, .tagw ⟨.onTrue, 0x05A, 0x000⟩),
    (0b10011000_0_00_001011010_000000000000, .tagf ⟨.always, 0x05A, 0x000⟩),
    (0b10011001_0_11_111111111_000000000000, .tagc ⟨.onFalse, 0x1FF, 0x000⟩),
    (0b10011010_0_00_111111111_101010111100, .depd ⟨.always, 0x1FF, 0xABC⟩),
    (0b10011011_0_10_111111111_000100100011, .depr ⟨.onTrue, 0x1FF, 0x123⟩)
  ] : List (Nat × Instr)).all (fun p => decodeTableWord 32 p.1 = some p.2 ∧ p.2.wf = true) = true := by decide +kernel

theorem test_decode_engine : ([
    (0b10100000_0_00_111111111_000011000111, .cpch ⟨.always, 0x1FF, 0x0C7⟩),
    (0b10100001_0_10_111111111_000000111010, .cpst ⟨.onTrue, 0x1FF, 0x03A⟩),
    (0b10100010_0_11_111111111_000010000001, .cpab ⟨.onFalse, 0x1FF, 0x081⟩)
  ] : List (Nat × Instr)).all (fun p => decodeTableWord 32 p.1 = some p.2 ∧ p.2.wf = true) = true := by decide +kernel

theorem test_decode_system : ([
    (0b10110000_1_10_001011010_000011001101, .sysr ⟨true, .onTrue, 0x05A, 0x0CD⟩),
    (0b10110001_0_00_111111111_000001110000, .sysw ⟨.always, 0x1FF, 0x070⟩),
    (0b10110010_0_11_111111111_000000000000, .halt ⟨.onFalse, 0x1FF, 0x000⟩),
    (0b10110011_0_00_001011010_000000000000, .waiti ⟨.always, 0x05A, 0x000⟩)
  ] : List (Nat × Instr)).all (fun p => decodeTableWord 32 p.1 = some p.2 ∧ p.2.wf = true) = true := by decide +kernel

/-- An opcode outside the map, PR = 0b01, A = 1 on a store, reserved bits of AM, WRG, EXT and TCNT, and a target of
CFGA (R13-R18). -/
theorem test_decode_refuses : ([0, 0x08000000, 0xFF000000, 0x10218FF8, 0x62E00000, 0x63000001, 0x02050001,
    0x26018FFE, 0x831FF00C, 0x81000000] : List Nat).all (fun w => decodeTableWord 32 w = none) = true := by
  decide +kernel

/-- The TAP codes of chapter 19, by the instruction register alone and with a data register. -/
theorem test_decode_tap :
    decodeTableWord 8 0x00 = some .extest ∧ decodeTableWord 8 0x01 = some .idcode ∧
    decodeTableWord 8 0x02 = some .samplePreload ∧ decodeTableWord 8 0x20 = some (.regaccRead 0 0) ∧
    decodeTableWord 8 0x21 = some .sqhaltRelease ∧ decodeTableWord 8 0xFF = some .bypass := by decide +kernel
theorem test_decode_tap_data :
    decodeTap 0x800C8001000000000000000720 = .ok (.regaccWrite 0x80 0x0C8 7) ∧ decodeTap 0x121 = .ok .sqhaltStop := ⟨rfl, rfl⟩

/-! ## Small states -/

/-- What a result holds, and the two ways to say so. -/
def exOk {ε α : Type} : Except ε α → Option α
  | .ok a => some a
  | .error _ => none
def exErr {ε α : Type} : Except ε α → Option ε
  | .ok _ => none
  | .error e => some e
theorem exOk_iff {ε α : Type} (x : Except ε α) (a : α) : x = .ok a ↔ exOk x = some a := by
  cases x <;> simp [exOk]
theorem exErr_iff {ε α : Type} (x : Except ε α) (e : ε) : x = .error e ↔ exErr x = some e := by
  cases x <;> simp [exErr]

/-- A block at 0x1000 of given words and slots, of one exit. -/
def tstBlk (ws : List (BitVec 32)) (slots : Tab Val) : Blk := { Blk.fresh ⟨0x1000, 0, ws, []⟩ 100 with slots := slots }

/-- The state after reset but for sequencer q, which runs one block and has its instruction 0 in focus. -/
def tstAt (q : Nat) (b : Blk) : State :=
  { State.reset with cur := q, seqs := [(q, { Seq.initial with cond := .run, blocks := [b] })] }

/-- The first GiB maps to itself for partition 0, which holds regions 0 to 23, every channel and task 5 of die 0. -/
def tstMapped (s : State) : State :=
  { s with
    mem := [(0x4000, 0x03), (0x4001, 0x80), (0x8000, 0x39)]
    parts := [(0, { Part.initial with valid := true, root := 0x4000, rmask := 0xFFFFFF, chan := 0xFF })]
    tasks := [(5, { Task.initial with state := .run, regions := [0], record := [] })] }

/-- The values that the targets 4 and 0x18 hold after a next state. -/
def tstGot (o : Host.Outcome State Fault Refusal) (k : Nat) : Option Val :=
  match o with
  | .next t => match t.blk t.cur 0 with
    | some b => b.slots.find? k
    | none => none
  | _ => none

/-- What an instruction of operands l and r delivers to i1.l. -/
def tstGives (i : Instr) (l r : Word) : Option Val :=
  tstGot (exec i (tstAt 0 (tstBlk [] [(0, .word l), (1, .word r)]))) 4

/-- The trap conditions of the block in focus after a next state. -/
def tstTraps (o : Host.Outcome State Fault Refusal) : List TrapCond :=
  match o with
  | .next t => match t.blk t.cur 0 with
    | some b => b.traps
    | none => []
  | _ => []

/-! ## Computation: the table of R123, and worked values of R130 -/

theorem test_div_w : tstGives (.div ⟨false, .always, 4, noTarget, 1⟩) 0x80000000 0xFFFFFFFF =
    some (.word 0xFFFFFFFF80000000) := by decide +kernel
theorem test_div_by_zero : tstGives (.div ⟨false, .always, 4, noTarget, 0⟩) 7 0 =
    some (.word 0xFFFFFFFFFFFFFFFF) := by decide +kernel
theorem test_rem_w : tstGives (.rem ⟨false, .always, 4, noTarget, 1⟩) 0x80000000 0xFFFFFFFF = some (.word 0) := by
  decide +kernel
theorem test_rem_sign : tstGives (.rem ⟨false, .always, 4, noTarget, 0⟩) (-7) 2 = some (.word (-1)) := by decide +kernel
theorem test_mulh : tstGives (.mulh ⟨false, .always, 4, noTarget, 0⟩) 0x8000000000000000 2 =
    some (.word 0xFFFFFFFFFFFFFFFF) := by decide +kernel
theorem test_mulhu : tstGives (.mulhu ⟨false, .always, 4, noTarget, 0⟩) 0x8000000000000000 2 = some (.word 1) := by
  decide +kernel
theorem test_shl_w : tstGives (.shl ⟨false, .always, 4, noTarget, 1⟩) 1 31 = some (.word 0xFFFFFFFF80000000) := by
  decide +kernel
theorem test_shr_count : tstGives (.shr ⟨false, .always, 4, noTarget, 0⟩) 0x10 64 = some (.word 0x10) := by decide +kernel
theorem test_clz_w : tstGives (.clz ⟨false, .always, 4, noTarget, 1⟩) 0 0 = some (.word 32) := by decide +kernel
theorem test_popc_w : tstGives (.popc ⟨false, .always, 4, noTarget, 1⟩) 0xFFFFFFFF000000FF 0 = some (.word 8) := by
  decide +kernel
theorem test_ext_sb : tstGives (.ext ⟨false, .always, 4, noTarget, 0⟩) 0x12345680 0 =
    some (.word 0xFFFFFFFFFFFFFF80) := by decide +kernel
theorem test_movhi : tstGives (.movhi ⟨false, .always, 4, 0x678⟩) 0x12345 0 = some (.word 0x12345678) := by decide +kernel
theorem test_fcvt_tie_even : tstGives (.fcvt ⟨false, .always, 4, noTarget, 1⟩) 0x3FF0000010000000 0 =
    some (.word 0x3F800000) := by decide +kernel
theorem test_fcvt_saturates : tstGives (.fcvt ⟨false, .always, 4, noTarget, 2⟩) 0x43E0000000000000 0 =
    some (.word 0x7FFFFFFFFFFFFFFF) := by decide +kernel
theorem test_fma : tstGot (exec (.fma ⟨false, .always, 4, noTarget, 0⟩)
    (tstAt 0 (tstBlk [] [(0, .word 0x3F800001), (1, .word 0x3F7FFFFF), (3, .word 0xBF800000)]))) 4 =
    some (.word 0x337FFFFE) := by decide +kernel
theorem test_fmin_nan : tstGives (.fmin ⟨false, .always, 4, noTarget, 1⟩) 0x7FF8000000000001 0x4000000000000000 =
    some (.word 0x4000000000000000) := by decide +kernel

/-! ## States and operands that meet the hypotheses of the statements: computation -/

/-- IntegerAndCompareResults, ImmediateAndUnaryResults, FloatArithmetic, FloatOrderAndConversion: an instruction with
its operands, predicated and run ahead. -/
theorem witness_operands :
    (mayFire (tstAt 0 (tstBlk [] [(0, .word 7), (1, .word 0), (3, .word 1)]))
        (tstBlk [] [(0, .word 7), (1, .word 0), (3, .word 1)]) .always false ∧
      operandAt (tstAt 0 (tstBlk [] [(0, .word 7), (1, .word 0), (3, .word 1)]))
        (tstBlk [] [(0, .word 7), (1, .word 0), (3, .word 1)]) slotL 7 ∧
      operandAt (tstAt 0 (tstBlk [] [(0, .word 7), (1, .word 0), (3, .word 1)]))
        (tstBlk [] [(0, .word 7), (1, .word 0), (3, .word 1)]) slotR 0 ∧
      operandAt (tstAt 0 (tstBlk [] [(0, .word 7), (1, .word 0), (3, .word 1)]))
        (tstBlk [] [(0, .word 7), (1, .word 0), (3, .word 1)]) slotX 1) ∧
    mayFire (tstAt 0 (tstBlk [] [(0, .word 7), (2, .word 1)])) (tstBlk [] [(0, .word 7), (2, .word 1)]) .onTrue true ∧
    mayFire { tstAt 0 (tstBlk [] []) with
        curBlk := 1, seqs := [(0, { Seq.initial with cond := .run, blocks := [tstBlk [] [], tstBlk [] [(2, .word 0)]] })] }
      (tstBlk [] [(2, .word 0)]) .onFalse true := by
  unfold mayFire operandAt
  decide +kernel

/-- ImmediateAndUnaryResults: shift counts and modes at the ends of their ranges. -/
theorem witness_immediate_ranges :
    (0 : BitVec 12).toNat < 64 ∧ (63 : BitVec 12).toNat < 64 ∧ (0 : BitVec 3).toNat < 6 ∧ (5 : BitVec 3).toNat < 6 := by
  decide +kernel

/-- FloatArithmetic: infinities of opposite and of one sign, zero by infinity, zero by zero, a number by zero, a
negative number, a NaN, in F32. -/
theorem witness_float_specials :
    floatAt 0 0x7F800000 = .inf false ∧ floatAt 0 0xFF800000 = .inf true ∧ (∃ e : Int, floatAt 0 0x80000000 = .fin true 0 e) ∧
    (∃ (x : Nat) (e : Int), x ≠ 0 ∧ floatAt 0 0x3F800000 = .fin false x e) ∧ (∃ (x : Nat) (e : Int), x ≠ 0 ∧ floatAt 0 0xBF800000 = .fin true x e) ∧
    floatAt 0 0x7FC00001 = .nan ∧ floatAt 1 0x7FF8000000000000 = .nan := by
  refine ⟨by decide +kernel, by decide +kernel, ⟨-149, by decide +kernel⟩, ⟨0x800000, -23, by decide +kernel, by decide +kernel⟩,
    ⟨0x800000, -23, by decide +kernel, by decide +kernel⟩, by decide +kernel, by decide +kernel⟩

/-- FloatArithmetic: exact zeros and values that are not zero, and units below both exponents. -/
theorem test_exact_quotient :
    (match ExactVal.div (.fin false 1 0) (.fin false 3 0) with
     | .fin n x g => !n && x % 2 = 1 && decide (g ≤ 0)
     | _ => false) = true ∧
    (match (ExactVal.fin false 9 0).sqrt with
     | .fin n x g => !n && x % 2 = 0 && x * x == 9 * 2 ^ (-2 * g).toNat
     | _ => false) = true ∧
    ExactVal.add .rne (.fin false 3 0) (.fin true 3 0) = .fin false 0 0 ∧ (-2 : Int) ≤ -1 ∧ (3 : Nat) ≠ 0 := by
  decide +kernel

/-- MovesAndRegisterWrites: a WRG of a register that none has written, and of one that one has; RDG and NULL. -/
theorem witness_MovesAndRegisterWrites :
    (mayFire (tstAt 0 (tstBlk [] [(0, .null)])) (tstBlk [] [(0, .null)]) .always false ∧
      (tstBlk [] [(0, .null)]).slot 0 slotL = some .null ∧ (tstBlk [] [(0, .null)]).regs.find? 63 = none) ∧
    (mayFire (tstAt 0 { tstBlk [] [(0, .word 3)] with regs := [(63, .word 1)] })
        { tstBlk [] [(0, .word 3)] with regs := [(63, .word 1)] } .always false ∧
      ({ tstBlk [] [(0, .word 3)] with regs := [(63, .word 1)] } : Blk).slot 0 slotL = some (.word 3) ∧
      ({ tstBlk [] [(0, .word 3)] with regs := [(63, .word 1)] } : Blk).regs.find? 63 ≠ none) ∧
    mayFire (tstAt 0 (tstBlk [] [])) (tstBlk [] []) .always true ∧
    operandAt (tstAt 0 (tstBlk [] [(0, .word 3)])) (tstBlk [] [(0, .word 3)]) slotL 3 := by
  unfold mayFire operandAt
  decide +kernel

/-- DeliveryFillsEachSlotOnce: no target, an empty slot, a full one. -/
theorem witness_DeliveryFillsEachSlotOnce :
    noTarget = (0x1FF : Target) ∧ ((0x1FE : Target) ≠ noTarget ∧ (tstBlk [] []).slots.find? (0x1FE : Target).toNat = none) ∧
    ((4 : Target) ≠ noTarget ∧ (tstBlk [] [(4, .word 1)]).slots.find? (4 : Target).toNat ≠ none) := by decide +kernel

theorem test_second_delivery : ((tstBlk [] [(4, .word 1)]).deliver [4] (.word 2)).traps = [⟨1, causeILLINS, 1⟩] := by
  decide +kernel

/-- Rounding: units below the exponent of a value; a subnormal and the greatest code of F16. -/
theorem witness_Rounding :
    (-3 : Int) < 2 ∧ isIeee fmtF16 = true ∧ 0x7BFF < 2 ^ fmtBits fmtF16 ∧
    valueOf fmtF16 0x7BFF = .fin false 0x7FF 5 ∧ valueOf fmtF16 1 = .fin false 1 (-24) ∧
    isIeee fmtF32 = true ∧ isIeee fmtF64 = true := by decide +kernel

/-! ## Accesses -/

/-- AccessChecksInOrder: an address that is not aligned, one beyond 52 bits, one with no page, one in a window that no
other party may reach, a poisoned granule, and good ones, at the ends of the ranges. -/
theorem witness_AccessChecksInOrder :
    (0x1001 : Word).toNat % 2 ≠ 0 ∧ ((0x10000000000000 : Word).toNat % 8 = 0 ∧ 2 ^ 52 ≤ (0x10000000000000 : Word).toNat) ∧
    ((0xFFFFFFFFFFFF8 : Word).toNat % 8 = 0 ∧ (0xFFFFFFFFFFFF8 : Word).toNat < 2 ^ 52 ∧
      State.reset.seqTranslate 0 .read 0xFFFFFFFFFFFF8 = .error .violation) ∧
    (State.reset.seqTranslate 96 .read 0x8000000000 = .ok 0x8000000000 ∧
      ({ State.reset with groups := [(0, .gated)] } : State).windowAt 0x8000000000 8 false = .violation) ∧
    (State.reset.seqTranslate 96 .read 0x1000 = .ok 0x1000 ∧ State.reset.windowAt 0x1000 8 false = .plain ∧
      ({ State.reset with poison := [(0x40, true)] } : State).poisoned 0x1000 8 = true ∧
      State.reset.poisoned 0x1000 8 = false) ∧
    (let b := tstBlk [] []
     let c := { b with mem := [⟨0, 1, .store 0x1000 0x1000 [1, 2, 3, 4, 5, 6, 7, 8]⟩] }
     let l : LoadRec := ⟨1, 2, 0x1000, 0x1000, 8, false, 4, false, 0, false⟩
     let s := { State.reset with poison := [(0x40, true)] }
     s.loadReady b l = true ∧ s.poisoned l.pa.toNat l.n = true ∧ b.forwarded l.lsid (l.pa.toNat + 7) = none ∧
       ∀ i < l.n, c.forwarded l.lsid (l.pa.toNat + i) ≠ none) := by
  simp only [exOk_iff, exErr_iff]
  decide +kernel

theorem test_access_align : State.reset.checkAccess 96 .read 0x10000000000001 8 = .error causeALIGN := by rfl
theorem test_access_unmapped : (tstMapped State.reset).checkAccess 0 .read 0x40000000 8 = .error causePFAULT ∧
    (tstMapped State.reset).checkAccess 0 .write 0x3FFFFFF8 8 = .ok 0x3FFFFFF8 := by
  simp only [exOk_iff, exErr_iff]
  decide +kernel

/-- Sequencer q with a younger block behind another, and the younger one's instruction 0 in focus. -/
def tstAhead (q : Nat) (b c : Blk) : State :=
  { State.reset with cur := q, curBlk := 1, seqs := [(q, { Seq.initial with cond := .run, blocks := [b, c] })] }

/-- LoadsDeliver: a load with nothing below it, one that waits for position 0, one whose address fails its check, one
of a poisoned granule; loads that run ahead, freely and behind a store they overlap; an id that a FENCE holds. -/
theorem witness_LoadsDeliver :
    let b := tstBlk [] [(0, .word 0x1000)]
    let w := { b with smask := 1 }
    let f : LS := ⟨false, .always, 1, 4, 3, 8⟩
    (mayFire (tstAt 96 b) b .always false ∧ operandAt (tstAt 96 b) b slotL 0x1000 ∧
      accessAt (tstAt 96 b) .read (loadAddr 0x1000 f) (2 ^ f.wd.toNat) 0x1008 ∧
      (tstAt 96 b).loadReady (withLoad (b.fire 0 3) (loadRec (tstAt 96 b) f false 0x1008 0x1008))
        (loadRec (tstAt 96 b) f false 0x1008 0x1008) = true) ∧
    (mayFire (tstAt 96 w) w .always false ∧ accessAt (tstAt 96 w) .read (loadAddr 0x1000 f) (2 ^ f.wd.toNat) 0x1008 ∧
      (tstAt 96 w).loadReady (withLoad (w.fire 0 3) (loadRec (tstAt 96 w) f true 0x1008 0x1008))
        (loadRec (tstAt 96 w) f true 0x1008 0x1008) = false) ∧
    (tstAt 96 b).checkAccess 96 .read (loadAddr 0x1001 f) 8 = .error causeALIGN ∧ b.mem = [] ∧
    (let p := { tstAt 96 b with poison := [(0x40, true)] }
     let r := loadRec p f false 0x1008 0x1008
     accessAt p .read (loadAddr 0x1000 f) 8 0x1008 ∧ p.loadReady (withLoad (b.fire 0 3) r) r = true ∧
       p.loadFails (withLoad (b.fire 0 3) r) r = true ∧ (tstAt 96 b).loadFails (withLoad (b.fire 0 3) r) r = false) ∧
    (let a := { f with a := true }
     let s := tstAhead 96 (tstBlk [] []) b
     let h := tstAhead 96 { tstBlk [] [] with mem := [⟨0, 1, .store 0x1008 0x1008 [0xFF]⟩] } b
     mayFire s b a.pr a.a ∧ operandAt s b slotL 0x1000 ∧ s.curBlk ≠ 0 ∧ s.aheadWaits 96 1 1 0x1008 8 = false ∧
       mayFire h b a.pr a.a ∧ h.aheadWaits 96 1 1 0x1008 8 = true ∧
       s.checkAccess 96 .read (loadAddr 0x1001 f) 8 = .error causeALIGN) ∧
    (let l := { loadRec (tstAt 96 b) f false 0x1008 0x1008 with ix := 3 }
     let k := withLoad b l
     (tstAt 96 k).blk 96 0 = some k ∧ List.find? (fun (k : LoadRec) => k.ix == 3 && !k.done) k.loads = some l ∧
       (tstAt 96 k).loadReady k l = true) := by
  simp only [mayFire, operandAt, accessAt, exOk_iff, exErr_iff]
  decide +kernel

/-- A block whose instruction 1, a FENCE of id 1, has fired. -/
def tstFenced : Blk := { tstBlk [0, 0x6A0A0101] [(0, .word 0x1000)] with fired := [1] }

/-- LoadsDeliver: an id that a FENCE holds, and one of a block with none. -/
theorem witness_fenced :
    fencedId (tstAt 96 (tstBlk [] [])) tstFenced 1 ∧ ¬ fencedId (tstAt 96 (tstBlk [] [])) (tstBlk [] []) 1 :=
  ⟨⟨1, List.mem_singleton.mpr rfl, by decide, .fence ⟨1, 2, 1, 1⟩, by decide +kernel, _, rfl, rfl⟩,
    fun ⟨_, h, _⟩ => List.not_mem_nil h⟩

/-- LoadsDeliver: with no memory effect below it, no atomic meets a load; an atomic of its bytes does. -/
theorem witness_no_atomic : ¬ lowerAtomicMeets (tstBlk [] [(0, .word 0x1000)]) 1 0x1008 8 ∧
    lowerAtomicMeets { tstBlk [] [] with mem := [⟨0, 3, .amo .add 0x100C 0x100C 4 1 0 [] 0⟩] } 1 0x1008 8 := by
  constructor
  · rintro ⟨m, hm, -⟩
    exact List.not_mem_nil hm
  · exact ⟨_, List.mem_singleton.mpr rfl, by decide, ⟨_, _, _, _, _, _, _, _, rfl⟩, by decide +kernel⟩

/-- LoadsDeliver: a load that has fired and waits for a store below it. -/
theorem witness_load_waits :
    let l : LoadRec := ⟨1, 2, 0x1008, 0x1008, 8, false, 4, false, 0, false⟩
    let b := { tstBlk [] [] with smask := 1, loads := [l] }
    (tstAt 96 b).finishLoad 0 b l = none := by decide +kernel

/-- LoadsSeeLowerStores: a load of 8 bytes over a store of its first byte; the last byte comes from memory. -/
theorem test_load_over_store :
    let st : MemOp := ⟨0, 1, .store 0x1008 0x1008 [0xFF]⟩
    let b := { tstBlk [] [] with mem := [st], smask := 1 }
    let l : LoadRec := ⟨1, 2, 0x1008, 0x1008, 8, false, 4, false, 0, false⟩
    l.t1 ≠ noTarget ∧ b.slots.find? l.t1.toNat = none ∧ st.lsid < l.lsid ∧
    ((tstAt 96 b).deliverLoad b l).slots.find? 4 = some (.word 0xFF) ∧
    ((tstAt 96 b).deliverLoad b { l with n := 1, signed := true }).slots.find? 4 = some (.word (-1)) := by decide +kernel

/-- StoresAreHeld: a store to an id that none has taken, one to a bad address, one whose id is taken. -/
theorem witness_StoresAreHeld :
    let b := tstBlk [] [(0, .word 0x1000), (1, .word 5)]
    let f : ST := ⟨.always, 31, 3, 0x3FF8⟩
    (mayFire (tstAt 96 b) b .always false ∧ operandAt (tstAt 96 b) b slotL 0x1000 ∧ operandAt (tstAt 96 b) b slotR 5 ∧
      accessAt (tstAt 96 b) .write (storeAddr 0x1000 f) (2 ^ f.wd.toNat) 0xFF8) ∧
    (tstAt 96 b).checkAccess 96 .write (storeAddr 0x1001 f) 8 = .error causeALIGN := by
  simp only [mayFire, operandAt, accessAt, exOk_iff, exErr_iff]
  decide +kernel

theorem witness_id_free_and_taken :
    idFree (tstBlk [] []) 31 ∧ ¬ idFree { tstBlk [] [] with mem := [⟨31, 0, .none⟩] } 31 := by
  refine ⟨fun m hm => (List.not_mem_nil hm).elim, fun h => ?_⟩
  obtain ⟨sc, p, q, h⟩ := h ⟨31, 0, .none⟩ (List.mem_singleton.mpr rfl) rfl
  exact MemEff.noConfusion h

/-- StoresAreHeld: a FENCE of an id that nothing holds, and of one that a load holds; a table read holds none. -/
theorem witness_fence_ids :
    let l : LoadRec := ⟨3, 2, 0x1008, 0x1008, 8, false, 4, false, 0, false⟩
    mayFire (tstAt 0 (tstBlk [] [])) (tstBlk [] []) .always false ∧
    (∃ k ∈ ({ tstBlk [] [] with loads := [l] } : Blk).loads, k.table = false ∧ k.lsid = 3) ∧
    (∀ k ∈ ({ tstBlk [] [] with loads := [{ l with table := true }] } : Blk).loads, ¬ (k.table = false ∧ k.lsid = 3)) := by
  simp only [mayFire]
  decide +kernel

/-- StoresAreHeld: a load that has fired holds its id against a FENCE. -/
theorem witness_loadedId :
    let b := { tstBlk [0, 0x60010053] [] with fired := [1] }
    loadedId (tstAt 96 b) b 1 ∧ ¬ loadedId (tstAt 96 (tstBlk [] [])) (tstBlk [] []) 1 :=
  ⟨⟨1, List.mem_singleton.mpr rfl, by decide, .ld ⟨false, .always, 1, 0, 2, 0x13⟩, by decide +kernel, by decide⟩,
    fun ⟨_, h, _⟩ => List.not_mem_nil h⟩

/-- A load of an id that a FENCE of its block holds raises ILLINS (R19). -/
theorem test_load_of_fenced_id :
    tstTraps (exec (.ld ⟨false, .always, 1, 4, 3, 0⟩)
      (tstAt 96 tstFenced)) = [⟨0, causeILLINS, 0⟩] := by
  decide +kernel

/-- Atomics: an atomic of 4 bytes with its operands, and one of 8 bytes with a compare value; a bad address; old values
of both widths at their greatest. -/
theorem witness_Atomics :
    let b := tstBlk [] [(0, .word 0x1004), (1, .word 5), (3, .word 9)]
    (mayFire (tstAt 96 b) b .always false ∧ operandAt (tstAt 96 b) b slotL 0x1004 ∧ operandAt (tstAt 96 b) b slotR 5 ∧
      operandAt (tstAt 96 b) b slotX 9 ∧ accessAt (tstAt 96 b) .both 0x1004 4 0x1004 ∧ b.loads = []) ∧
    (overlaps 0x1004 4 0x1000 8 = true ∧ overlaps 0x1004 4 0x1008 8 = false ∧ overlaps 0x1004 4 0x1000 4 = false) ∧
    (tstAt 96 b).checkAccess 96 .both 0x1004 8 = .error causeALIGN ∧
    (2 : Nat) ^ 32 - 1 < 2 ^ (8 * 4) ∧ (2 : Nat) ^ 64 - 1 < 2 ^ (8 * 8) := by
  simp only [mayFire, operandAt, accessAt, exOk_iff, exErr_iff]
  decide +kernel

/-- Atomics: one load of three that an atomic overlaps. -/
theorem witness_one_overlap :
    let l (p a : Nat) : LoadRec := ⟨p, 2, BitVec.ofNat 64 a, BitVec.ofNat 64 a, 4, false, 4, true, 0, false⟩
    let hit (k : LoadRec) := 1 < k.lsid ∧ overlaps 0x1000 4 k.pa.toNat k.n = true
    [l 0 0x1000, l 2 0x1000, l 3 0x1008] = [l 0 0x1000] ++ l 2 0x1000 :: [l 3 0x1008] ∧ hit (l 2 0x1000) ∧
      ∀ j ∈ [l 0 0x1000] ++ [l 3 0x1008], ¬ hit j := by decide +kernel

theorem test_amo_min_signed : amoResult .min 4 0xFFFFFFFF 1 0 = some 0xFFFFFFFF ∧ amoResult .cas 4 1 2 3 = none := by
  decide +kernel

/-! ## Exits -/

/-- A BUFW of one entry at the first bytes of region 0's memory nodes, not yet written. -/
def tstBufw : State :=
  { State.reset with
    ctxs := [(0, ⟨0, [0], none, [], [(1, Elem.initial ⟨1, 1, 0, 5, [5], [0], [1], [0, 64, 1]⟩)], .run, false, []⟩)]
    nextCtx := 1
    regions := [(0, { Region.initial with armed := some 0 })] }

/-- BlockExits: every form that leaves, and every form that is kept from leaving. -/
theorem witness_BlockExits :
    let b := tstBlk [] [(0, .word 0x2000), (1, .word 0)]
    let s := tstAt 96 b
    (mayFire s b .always false ∧ b.exits = [] ∧ operandAt s b slotL 0x2000 ∧ operandAt s b slotR 0 ∧ goodTarget 0x2000 ∧
      goodTarget (0xFFFFFFFFFFFF0) ∧ (s.seq 96).ras.length < 32 ∧ goodTarget (s.seq 96).epc ∧ (s.seq 96).ras = [] ∧
      accessAt s .read 0x2000 8 0x2000 ∧ s.loadReady b (tableRec s 0x2000 0x2000 0) = true ∧
      s.loadFails b (tableRec s 0x2000 0x2000 0) = false ∧
      (BitVec.ofNat 64 (numOf (s.loadBytes b (tableRec s 0x2000 0x2000 0)))).toNat % 2 ^ 32 ≤ (0 : Word).toNat ∧
      s.checkAccess 96 .read 0x2001 8 = .error causeALIGN) ∧
    (let t := { s with mem := [(0x2000, 1)] }
     (0 : Word).toNat < (BitVec.ofNat 64 (numOf (t.loadBytes b (tableRec t 0x2000 0x2000 0)))).toNat % 2 ^ 32 ∧
       accessAt t .read (0x2000 + 8 + 8 * 0) 8 0x2008 ∧
       t.loadReady b (tableRec t (0x2000 + 8 + 8 * 0) 0x2008 0) = true ∧
       t.loadFails b (tableRec t (0x2000 + 8 + 8 * 0) 0x2008 0) = false ∧
       goodTarget (BitVec.ofNat 64 (numOf (t.loadBytes b (tableRec t (0x2000 + 8 + 8 * 0) 0x2008 0))))) ∧
    (let p := { s with poison := [(0x80, true)] }
     p.loadReady b (tableRec p 0x2000 0x2000 0) = true ∧ p.loadFails b (tableRec p 0x2000 0x2000 0) = true) ∧
    (tstBufw.loadReady b (tableRec tstBufw 0x8000000000 0x8000000000 0) = false ∧
      accessAt { tstBufw with cur := 96 } .read 0x8000000000 8 0x8000000000) ∧
    ((0x2008 : Word) &&& 0xF ≠ 0 ∧ (0x10000000000000 : Word) &&& 0xF = 0 ∧ 2 ^ 52 ≤ (0x10000000000000 : Word).toNat) ∧
    ({ b with exits := [⟨0, 0, .go, 0x2000, false⟩] } : Blk).exits ≠ [] ∧
    32 ≤ (List.replicate 32 (0x2000 : Word)).length := by
  simp only [mayFire, operandAt, accessAt, goodTarget, exOk_iff, exErr_iff]
  decide +kernel

/-- BlockExits: a block in which another exit has fired, and one in which none has. -/
def tstLeft : Blk := { tstBlk [0, 0x70000001] [(0, .word 0x2000), (1, .word 0)] with fired := [1] }
theorem witness_exitFired : exitFired (tstAt 96 tstLeft) tstLeft ∧ mayFire (tstAt 96 tstLeft) tstLeft .always false ∧
    operandAt (tstAt 96 tstLeft) tstLeft slotL 0x2000 ∧ ¬ exitFired (tstAt 96 (tstBlk [] [])) (tstBlk [] []) := by
  refine ⟨⟨1, List.mem_singleton.mpr rfl, by decide, .br ⟨.always, 0, 1⟩, by decide +kernel, by decide⟩, ?_, ?_,
    fun ⟨_, h, _⟩ => List.not_mem_nil h⟩
  · simp only [mayFire]
    decide +kernel
  · simp only [operandAt]
    decide +kernel

/-- BlockExits: return addresses and saved addresses that are good, not aligned and too great; an offset that leads
beyond 52 bits; a table whose entry is good, not aligned and too great. -/
theorem witness_exits_stopped :
    (∀ n ∈ [0x2000, 0x2008, 0x10000000000000],
      let a : Word := BitVec.ofNat 64 n
      let s := { State.reset with seqs := [(96, { Seq.initial with ras := [a], epc := a })] }
      (s.seq 96).ras = [a] ∧ (s.seq 96).epc = a) ∧
    (let off : Word := BitVec.ofInt 64 ((0x1000 : Word).toNat + 16 * (0x3FEFF : BitVec 18).toInt)
     off &&& 0xF = 0 ∧ 2 ^ 52 ≤ off.toNat) ∧
    (∀ e ∈ [(0x2008, 0x30, 0x30), (0x2008, 8, 8), (0x200E, 0x10, 2 ^ 52)],
      let s := { tstAt 96 tstLeft with mem := [(0x2000, 1), (e.1, BitVec.ofNat 8 e.2.1)] }
      accessAt s .read 0x2000 8 0x2000 ∧ accessAt s .read (0x2000 + 8 + 8 * 0) 8 0x2008 ∧
      (let t := tableRec s 0x2000 0x2000 0
       s.loadReady tstLeft t = true ∧ s.loadFails tstLeft t = false ∧ numOf (s.loadBytes tstLeft t) = 1) ∧
      (let t := tableRec s 0x2008 0x2008 0
       s.loadReady tstLeft t = true ∧ s.loadFails tstLeft t = false ∧ numOf (s.loadBytes tstLeft t) = e.2.2)) := by
  simp only [accessAt, exOk_iff]
  refine ⟨?_, ?_, ?_⟩ <;> decide +kernel

/-- BlockExits: a table read that answers what tableGives says. -/
theorem witness_tableGives : ∃ r, tableGives (tstAt 96 (tstBlk [] [])) (tstBlk [] []) 0x2000 r := by
  refine ⟨_, 0x2000, ?_, ?_, ?_, rfl⟩
  · simp only [accessAt, exOk_iff]
    decide +kernel
  · decide +kernel
  · decide +kernel

/-- BlockExits: an entry of a table that no load may read. -/
theorem test_jtab_entry_fails :
    tstTraps (exec (.jtab ⟨.always, 0, 1⟩) { tstAt 96 (tstBlk [] [(0, .word 0x5FFFFFFFF8), (1, .word 0)]) with
      mem := [(0x5FFFFFFFF8, 1)] }) = [⟨0, causeACCESS, 0x6000000000⟩] := by decide +kernel

theorem test_br : (match exec (.br ⟨.always, 2, 0x3FFFF⟩) (tstAt 0 (tstBlk [] [])) with
    | .next t => (t.blk 0 0).map (·.exits)
    | _ => none) = some [⟨2, 0, .go, 0xFF0, false⟩] := by decide +kernel
/-! ## Fabric commands and queues -/

/-- A site of MMA, as armed in context 0 of region 0 at site 0, and its element. -/
def tstCfg (kind op ofmt : Nat) (ifmt isel : List Nat) (p : List (BitVec 32)) : SiteCfg where
  kind := kind
  op := op
  mode := 0
  ofmt := ofmt
  ifmt := ifmt
  isel := isel
  oslot := [0, 0]
  p := p

/-- A context of region 0 with one element at site 0, and the state in which it is armed. -/
def tstCtx (arcs : List Arc) (el : Elem) : Ctx where
  slot := 0
  regions := [0]
  task := none
  arcs := arcs
  elems := [(0, el)]
  mode := .run
  ended := false
  copies := []
def tstArmed (s : State) (c : Ctx) : State :=
  { s with ctxs := [(0, c)], nextCtx := 1, regions := [(0, { Region.initial with armed := some 0 })] }

/-- ConfigurationLoads: an image that reads as zeros, an address outside the address space, and one that is not a multiple
of 64. -/
theorem witness_ConfigurationLoads_trap :
    let b := tstBlk [] [(0, .word 0x10000)]
    let s := tstMapped (tstAt 0 b)
    mayFire s b .always false ∧ operandAt s b slotL 0x10000 ∧ s.cur ≠ service ∧
    (match s.tryLoad b 0x10000 0 with | .trap c _ _ _ => c == causeCFGREJECT | _ => false) = true ∧
    (match s.readImage (s.regionTr 0) 0x10000 with | .bytes bs _ => !imageGood bs | _ => false) = true ∧
    (match s.readImage (s.regionTr 0) (2 ^ 52) with | .fail e _ => e == .violation | _ => false) = true ∧
    (0x10001 : Word).toNat % 64 ≠ 0 := by
  simp only [mayFire, operandAt]
  decide +kernel

/-- FabricCommands: a block that has fired no CFGA or DRAIN and one that has; a counted site and one that is not; a slot
that is empty, one that is armed, and one that takes a word. -/
theorem witness_FabricCommands :
    let b := tstBlk [] [(0, .word 7)]
    let d := { b with effs := [(1, .drain)] }
    let s := tstAt 0 b
    (mayFire s b .always false ∧ s.cur ≠ service ∧ b.switched = false ∧ operandAt s b slotL 7) ∧
    (mayFire (tstAt 0 d) d .always false ∧ d.switched = true) ∧
    s.counted 0 0 = false ∧
    (let t := tstArmed s (tstCtx [] (Elem.initial (tstCfg 0 0x40 0 [] [] [])))
     t.counted 0 0 = true ∧ t.slotArmed 0 0 = true) ∧
    (s.region 0).slots.find? 3 = none ∧ ({ b with effs := [(1, .landed [(0, 3)])] } : Blk).landsOn (0, 3) = true ∧
    b.landsOn (0, 3) = false ∧
    (let c : CtxSlot := ⟨[], [], 0, 0, 0, 0, 0, false⟩
     let t := { s with regions := [(0, { Region.initial with slots := [(3, c)] })] }
     (t.region 0).slots.find? 3 = some c ∧ c.marked = false ∧ t.slotArmed 0 3 = false ∧
       checkSite (withParam (c.site 95) 4 0) 95 (rectOf c.mxmode.toNat) = none ∧ b.fired = [] ∧
       checkSite (withParam (c.site 95) 4 1) 95 (rectOf c.mxmode.toNat) = some (0x03, 4))
      ∧ ((tstAt service b).cur = service ∧ mayFire (tstAt service b) b .always false ∧
        operandAt (tstAt service b) b slotL 7) := by
  simp only [mayFire, operandAt]
  decide +kernel

/-- FabricCommands: the second of two CFGWs of one parameter. -/
theorem witness_FabricCommands_second :
    let b := { tstBlk [] [(0, .word 7)] with words := [0x881FF003, 0x881FF003], fired := [1] }
    otherFired (tstAt 0 b) b fun i => ∃ g, i = .cfgw g ∧ g.imm = (3 : BitVec 12) :=
  ⟨1, by decide, by decide, _, rfl, ⟨.always, 0x1FF, 3⟩, rfl, rfl⟩

/-- PortQueues: no entry and eight entries pushed; a header that may be injected and one that may not; an egress queue
with an entry and one without; an SPOP that waits. -/
theorem witness_PortQueues :
    let b := tstBlk [] [(0, .word 0x20)]
    let d := { b with effs := List.replicate 8 (1, .spush 3 0) }
    let w := { b with waits := [⟨0, .spop 3 0, [4]⟩] }
    let s := tstAt 0 b
    (mayFire s b .always false ∧ operandAt s b slotL 0x20 ∧ s.cur ≠ service ∧ s.curBlk = 0 ∧ s.blk 0 0 = some b ∧
      (b.pushed 3).length < 8 ∧ b.waiting 0 = none ∧ b.popped 3 = 0 ∧ b.spopWaits 0 3 = false) ∧
    (let c := { b with words := [0x85004003, 0x85005003] }
     c.spopWaits 1 3 = true ∧ c.spopWaits 0 3 = false ∧ c.popped 3 = 0 ∧ ({ c with fired := [0] } : Blk).popped 3 = 1) ∧
    8 ≤ (d.pushed 3).length ∧ injectable 0x20000 = true ∧ injectable 0 = false ∧
    (s.region 0).egr.getD 3 [] = [] ∧
    (let t := { s with regions := [(0, { Region.initial with egr := [(3, [9])] })] }
     (t.region 0).egr.getD 3 [] = [9]) ∧
    ((tstAt 0 w).blk 0 0 = some w ∧ w.waiting 0 = some ⟨0, .spop 3 0, [4]⟩) := by
  simp only [mayFire, operandAt]
  decide +kernel
/-! ## Synchronisation and system registers -/

/-- BarrierInstructions: a barrier of region 0 in die scope; a handle of no region; generations at the ends of the
range in which BWAIT passes, and just outside it. -/
theorem witness_BarrierInstructions :
    let b := tstBlk [] [(0, .word 0x14001), (1, .word 5)]
    let g := fun n => { tstMapped (tstAt 0 b) with regions := [(0, { Region.initial with bars := [(1, ⟨n, 0, 0⟩)] })] }
    (mayFire (g 6) b .always false ∧ (g 6).curBlk = 0 ∧ operandAt (g 6) b slotL 0x14001 ∧ operandAt (g 6) b slotR 5 ∧
      b.waiting 0 = none ∧ (g 6).barGood 0 0x14001 = true) ∧
    (g 6).barGood 0 0x17FC1 = false ∧ (g 6).barAwake 0x14001 = true ∧
    ({ g 6 with groups := [(groupOf 0, .gated)] } : State).barAwake 0x14001 = false ∧
    (((g 6).barrier 0x14001).gen - (5 : Word).setWidth 16).toNat = 1 ∧
    (((g 0x8004).barrier 0x14001).gen - (5 : Word).setWidth 16).toNat = 2 ^ 15 - 1 ∧
    (((g 0x8005).barrier 0x14001).gen - (5 : Word).setWidth 16).toNat = 2 ^ 15 ∧
    (((g 5).barrier 0x14001).gen - (5 : Word).setWidth 16).toNat = 0 := by
  simp only [mayFire, operandAt]
  decide +kernel

/-- The two phases of R282: at generation 7 with r = 5, BWAIT delivers 2; BPH with PH = 1 delivers 0. -/
theorem test_bwait_bph :
    let s := { tstMapped (tstAt 8 (tstBlk [] [(0, .word 0x01014203), (1, .word 5)])) with
      regions := [(8, { Region.initial with bars := [(3, ⟨7, 0, 2⟩)] })] }
    tstGot (exec (.bwait ⟨.always, 4, noTarget⟩) { s with seqs := [(8, { Seq.initial with cond := .run, blocks := [tstBlk [] [(0, .word 0x00014203), (1, .word 5)]] })] }) 4 = some (.word 2) ∧
    tstGot (exec (.bph ⟨.always, 4, 0⟩) s) 4 = some (.word 0) := by decide +kernel

/-- FlagsAndTags: a flag that holds the awaited value and one that does not; tags that are all set and some that are not;
a lowest free tag at both ends, and none. -/
theorem witness_FlagsAndTags :
    let b := tstBlk [] [(0, .word 0x1FFF)]
    let s := { tstAt 0 b with regions := [(0, { Region.initial with tags := 0x1FFF })] }
    let full := { s with regions := [(0, { Region.initial with tags := BitVec.allOnes 64 })] }
    let one := { s with regions := [(0, { Region.initial with tags := 0x7FFFFFFFFFFFFFFF })] }
    (mayFire s b .always false ∧ s.curBlk = 0 ∧ s.cur ≠ service ∧ operandAt s b slotL 0x1FFF ∧ b.waiting 0 = none) ∧
    (s.flag (0 / 24 * 4096 + (0x1FFF % 2 ^ 12 + (5 : BitVec 12).toNat) % 4096) = !(0x1FFF : Word).getLsbD 12) ∧
    (({ s with flags := [(4, true)] } : State).flag 4 = (0x1FFF : Word).getLsbD 12) ∧
    ((s.region 0).tags &&& 0x1FFF = 0x1FFF ∧ (State.reset.region 0).tags &&& 0x1FFF ≠ 0x1FFF) ∧
    (b.tagfWaits 0 = false ∧ b.tagsTaken = 0 ∧ s.savedTags 0 = 0) ∧
    ((State.reset.region 0).tags ||| (State.reset.seq 0).tres).getLsbD 0 = false ∧
    (((one.region 0).tags ||| (one.seq 0).tres).getLsbD 63 = false ∧
      ∀ u < 63, ((one.region 0).tags ||| (one.seq 0).tres).getLsbD u = true) ∧
    (full.region 0).tags ||| (full.seq 0).tres = BitVec.allOnes 64 := by
  simp only [mayFire, operandAt]
  decide +kernel

/-- BarrierInstructions, FlagsAndTags: instructions that wait. -/
theorem witness_waiting :
    ∀ w ∈ [Wait.bwait 0x14001 5, .flgw 4 true false, .flgw 4 false true, .tagw 3],
      let b := { tstBlk [] [] with waits := [⟨0, w, [4]⟩] }
      let s := tstAt 0 b
      s.blk s.cur s.curBlk = some b ∧ b.waiting s.curIx = some ⟨0, w, [4]⟩ := by decide +kernel

/-- EngineCommandsAreHeld: a task of the partition and one of none; a channel that is granted and one that is not; heads
that are good, not a multiple of 128, and beyond 52 bits. -/
theorem witness_EngineCommandsAreHeld :
    let b := tstBlk [] [(0, .word 0x80)]
    let s := tstMapped (tstAt 0 b)
    (mayFire s b .always false ∧ operandAt s b slotL 0x80) ∧
    (s.taskGranted 0 (s.taskNamed 0x80 5) = true ∧ s.taskGranted 0 (s.taskNamed 0x80 6) = false) ∧
    (s.chanGranted 0 (s.chanNamed 0x1C) = true ∧ s.chanGranted 0 (s.chanNamed 0) = true ∧
      s.chanGranted 0 (s.chanNamed 0x20) = false) ∧
    ((0xFFFFFFFFFFF80 : Word).toNat % 128 = 0 ∧ (0xFFFFFFFFFFF80 : Word).toNat < 2 ^ 52) ∧
    (0x81 : Word).toNat % 128 ≠ 0 ∧
    ((0x10000000000000 : Word).toNat % 128 = 0 ∧ 2 ^ 52 ≤ (0x10000000000000 : Word).toNat) := by
  simp only [mayFire, operandAt]
  decide +kernel

/-- SystemInstructions: a register, an id that is not implemented, a read-only register, a latch with a bit and
without. -/
theorem witness_SystemInstructions :
    let b := tstBlk [] [(0, .word 7)]
    let s := tstAt 0 b
    let l := { s with seqs := [(0, { Seq.initial with cond := .run, blocks := [b], latch := 1 })] }
    (mayFire s b .always false ∧ s.curBlk = 0 ∧ operandAt s b slotL 7 ∧ b.waiting 0 = none) ∧
    s.readReg 0 0x000 = some 0x18 ∧ s.readReg 0 0xFFF = none ∧
    (s.readReg 0 0x004 ≠ none ∧ readOnly 0x004 = false) ∧ readOnly 0x006 = true ∧
    (s.seq 0).latch = 0 ∧ (l.seq 0).latch ≠ 0 := by
  simp only [mayFire, operandAt]
  decide +kernel

/-! ## The life of a block -/

/-- A header of one exit, and one for blocks that may run ahead. -/
def tstHdr : BitVec 128 := 0xB5
def tstHdrAs : BitVec 128 := 0x1000B5

/-- Memory that holds a block of one BR at 0x2000. -/
def tstBlockMem : List Host.Cell := [(0x2000, 0xB5), (0x2002, 0x10), (0x2010, 0x01), (0x2013, 0x70)]

/-- The header and words that a fetch reads, and the failing line. -/
def tstFetched (f : FetchedBlock) : Option (BitVec 128 × List (BitVec 32)) :=
  match f with
  | .ok k => some (k.hdr, k.words)
  | _ => none
def tstFetchFails (f : FetchedBlock) : Option (BitVec 8 × Word) :=
  match f with
  | .fail c l => some (c, l)
  | _ => none

/-- The copy of that block. -/
def tstCopyOf : Copy := ⟨0x2000, tstHdrAs, [0x70000001], []⟩

/-- BlocksAreReadAndStart: a block that is read, one whose fetch fails, one captured, one that starts and one that does
not. -/
theorem witness_BlocksAreReadAndStart :
    let f := fun (q : Nat) (c : Cond) => { State.reset with mem := tstBlockMem, seqs := [(q, { Seq.initial with cond := c })] }
    fetchable (f 96 (.fetch 0x2000)) 96 0x2000 0x2000 (16 + 4 * 1) ∧
    ((f 96 (.fetch 0x2000)).seq 96).cond = .fetch 0x2000 ∧ quiet (f 96 (.fetch 0x2000)) 96 ∧
    tstFetched ((f 96 (.fetch 0x2000)).fetchBlock 96 0x2000) = some (tstHdrAs, [0x70000001]) ∧
    tstFetchFails ((f 0 (.fetch 0x2000)).fetchBlock 0 0x2000) = some (causeACCESS, 0x2000) ∧ quiet (f 0 (.fetch 0x2000)) 0 ∧
    ((f 96 (.fetch 0x2000)).captured 96 = [] ∧
      (let s := { f 96 .run with seqs := [(96, { Seq.initial with cond := .fetch 0x2000, lbuf := [tstCopyOf] })] }
       List.find? (fun (k : Copy) => k.addr == 0x2000) (s.captured 96) = some tstCopyOf)) ∧
    ((f 96 (.decode tstCopyOf)).seq 96).cond = .decode tstCopyOf ∧ quiet (f 96 (.decode tstCopyOf)) 96 ∧
    decodeFault tstHdrAs [0x70000001] true = none ∧ decodeFault tstHdr [0x00000001] false = some 0 := by
  simp only [fetchable, quiet, exOk_iff]
  decide +kernel

/-- BlockChecksReportTheLowest: headers of a bad mark and of reserved bits; a bad word behind a good one. -/
theorem witness_BlockChecksReportTheLowest :
    (0x1000B4 : BitVec 128).extractLsb' 0 8 ≠ 0xB5 ∧ (0x80B5 : BitVec 128).getLsbD 15 = true ∧
    (0x800000B5 : BitVec 128).extractLsb' 21 11 ≠ 0 ∧
    (decodeFault 0x1B5 [0x70000001, 0] false = some 1 ∧ (1 : Nat) ≠ 0xFF ∧ 0 < 1) ∧
    ([0x70000001, 0] : List (BitVec 32))[1]? = some 0 ∧ decodeTableWord 32 0 = none := by decide +kernel

/-- BlockChecksReportTheLowest: a block of one BR, which passes, and of one whose header names a register that no WRG
writes; a word that is none; a MOV with A = 1 under AS = 0. -/
theorem tstBr_passes (h : BitVec 128) (svc : Bool) (k : Nat) : ¬ ownCheckFails h [0x70000001] svc k := by
  rintro ⟨w, hw, h⟩
  match k, hw with
  | 0, hw =>
    obtain rfl : (0x70000001 : BitVec 32) = w := by simpa using hw
    rcases h with h | ⟨i, r, hi, hr, h⟩
    · exact h _ rfl
    · obtain rfl := Except.ok.inj hi
      obtain rfl := Option.some.inj hr
      rcases h with ⟨t, ht, -⟩ | ⟨t, ht, -⟩ | ⟨f, hf, -⟩ | ⟨n, hn, -⟩ | ⟨n, hn, -⟩ | ⟨x, hx, hl⟩ | ⟨-, hd⟩
      · exact absurd (show t ∈ ([] : List Nat) from ht) List.not_mem_nil
      · exact absurd (show t ∈ ([] : List Nat) from ht) List.not_mem_nil
      · exact Instr.noConfusion hf
      · exact absurd hn (by simp [storeId])
      · exact absurd hn (by simp [loadId])
      · obtain rfl : 0 = x := Option.some.inj hx
        exact absurd hl (Nat.not_lt_zero _)
      · exact hd rfl
theorem witness_BlockChecks_block :
    blockCheckFails 0x100000000000001B5 [0x70000001] ∧ ¬ blockCheckFails 0x1B5 [0x70000001] ∧
      ownCheckFails 0x1B5 [0] false 0 ∧ (∃ r, rawAt [0x03800000] 0 r ∧ r.a = true) ∧
      (0x1B5 : BitVec 128).getLsbD 20 = false := by
  refine ⟨.inl ⟨0, by decide, by decide, ?_⟩, ?_, ⟨0, rfl, .inl ?_⟩, ⟨_, ⟨_, rfl, rfl⟩, rfl⟩, by decide⟩
  · rintro ⟨w, hw, i, hi, f, rfl, -⟩
    obtain rfl := List.mem_singleton.mp hw
    exact Instr.noConfusion (Except.ok.inj hi)
  · rintro (⟨g, hg, h, -⟩ | ⟨n, hn, h, -⟩ | ⟨x, hx, h⟩)
    · revert g; decide
    · revert n; decide
    · obtain rfl : x = 0 := Nat.le_zero.mp hx
      exact h ⟨_, List.mem_singleton.mpr rfl, _, rfl, rfl⟩
  · intro i hi
    cases (show Except.error DecodeError.opcode = Except.ok i from hi)

/-- An instruction whose required slots have no producer fails at its index (R16, R18). -/
theorem test_decode_fault_operand : decodeFault 0x1B5 [0x70000001, 0x1001FFF8] false = some 1 := by decide +kernel

/-- BlocksThatTrap: a settled block with two conditions, the lower one first by index; a block past its time that has no
exit. -/
theorem witness_BlocksThatTrap :
    let b := { tstBlk [] [] with traps := [⟨3, causeALIGN, 9⟩, ⟨1, causeACCESS, 8⟩] }
    let s := tstAt 0 b
    let h := tstAt 0 (tstBlk [] [])
    ((s.seq 0).cond = .run ∧ (s.seq 0).blocks = [b] ∧ b.settled = true ∧ b.cfglSlots = [] ∧
      ⟨1, causeACCESS, 8⟩ ∈ s.trapsOf 0 b ∧
      ∀ u ∈ s.trapsOf 0 b, u = ⟨1, causeACCESS, 8⟩ ∨ 1 < u.ix) ∧
    ((h.seq 0).blocks = [tstBlk [] []] ∧ (tstBlk [] []).deadline ≤ ({ h with now := 100 } : State).now ∧
      ¬ ((tstBlk [] []).settled = true ∧ ({ h with now := 100 } : State).trapsOf 0 (tstBlk [] []) ≠ [])) ∧
    (h.now < (tstBlk [] []).deadline ∧ (h.seq 0).cond = .run) := by decide +kernel

/-- BlocksThatTrap: a CFGA of a context one of whose words fails. -/
theorem witness_rejects :
    let c : CtxSlot := ⟨[(30, 0xFFF8005294A50033)], [], 0, 0, 0, 0x10000, 0, false⟩
    let b := { tstBlk [] [] with effs := [(0, .cfga 2)] }
    let s := { tstAt 0 b with regions := [(0, { Region.initial with slots := [(2, c)] })] }
    (b.rewritten 0 2 (s.planOf (s.armable b 0 2) 2)).slotReject s.sbufs ≠ none := by decide +kernel

/-- BlocksThatTrap: two CFGWs that make a word which is sound without them fail. -/
theorem witness_rejects_cfgw :
    let b := { tstBlk [] [] with effs := [(0, .cfgw 2 95 4 1), (1, .cfgw 2 94 4 0)] }
    let s := { tstAt 0 b with regions := [(0, { Region.initial with slots := [(2, ⟨[], [], 0, 0, 0, 0, 0, false⟩)] })] }
    let plan := s.planOf (s.contextAt 0 2) 2
    ((b.rewritten 0 2 plan).slotReject s.sbufs).isSome = true ∧ plan.slotReject s.sbufs = none := by decide +kernel

/-- Taking a trap with a handler at 0x3000, and a second one with TM set (R163). -/
theorem test_trap_entry :
    let x := ({ Seq.initial with tvec := 0x3000 }).enterTrap causeALIGN 0x1000 9
    (x.cause, x.epc, x.tval, x.tm, x.cond) = (causeALIGN, 0x1000, 9, true, .fetch 0x3000) ∧
    (let y := x.enterTrap causeACCESS 0x2000 8
     (y.cause, y.epc, y.dbl, y.dcause, y.cond) = (causeALIGN, 0x1000, true, causeACCESS, .stopped)) := by decide +kernel

/-- A block that leaves by an exit with registers and stores. -/
def tstLeaves (k : ExitKind) : Blk :=
  { tstBlk [] [] with
    exits := [⟨0, 0, k, 0x2000, false⟩]
    regs := [(5, .word 9), (6, .null)]
    mem := [⟨0, 0, .store 0x1000 0x1000 [1, 2]⟩, ⟨1, 1, .store 0x1001 0x1001 [3]⟩] }

/-- CommitWritesRegistersAndStores, CommitExitsAndCalls: blocks ready to commit by each kind of exit, with registers
and overlapping stores, or none. -/
theorem witness_commit :
    (∀ k ∈ [ExitKind.go, .loop, .call, .ret, .eret],
      let b := tstLeaves k
      committing (tstAt 0 b) 0 b ⟨0, 0, k, 0x2000, false⟩ ∧ b.effs = []) ∧
    (∀ k ∈ [ExitKind.scall 0, .scall 4095, .trap 7],
      let b := { tstBlk [] [] with exits := [⟨0, 0, k, 0, false⟩] }
      committing (tstAt 0 b) 0 b ⟨0, 0, k, 0, false⟩ ∧ b.effs = [] ∧ b.mem = [] ∧ b.loads = [] ∧ b.regs = [] ∧
        b.events = []) := by
  simp only [committing, quiet]
  decide +kernel

/-- CommitExitsAndCalls: a sequencer without a task, and one whose task runs. -/
theorem witness_goesOn : goesOn State.reset 0 ∧ goesOn (tstMapped State.reset) 0 := by
  constructor <;> intro t h
  · have h0 : State.reset.taskOf 0 = none := by decide +kernel
    rw [h0] at h
    cases h
  · have h5 : (tstMapped State.reset).taskOf 0 = some 5 := by decide +kernel
    obtain rfl : t = 5 := by rw [h5] at h; exact (Option.some.inj h).symm
    decide +kernel

theorem witness_commit_stores :
    ∀ m ∈ (tstLeaves .go).mem, m.eff = .none ∨ ∃ va pa bs, m.eff = .store va pa bs := by
  intro m hm
  simp only [tstLeaves, List.mem_cons, List.not_mem_nil, or_false] at hm
  rcases hm with rfl | rfl <;> exact .inr ⟨_, _, _, rfl⟩

theorem test_commit :
    let t := match exec (.blockCommit 0) (tstAt 0 (tstLeaves .call)) with | .next t => t | _ => State.reset
    ((t.seq 0).reg 5, (t.seq 0).reg 6, Memory.bytes t.mem 0x1000 2, (t.seq 0).cond, (t.seq 0).ras) =
      (9, 0, [1, 3], .fetch 0x2000, [0x1010]) := by decide +kernel

/-- A block that leaves by a branch to 0x2000, with the WRG of register 5 fired behind accesses and commands. -/
def tstDoes (m : List MemOp) (effs : List (Nat × Eff)) : Blk :=
  { tstBlk [0, 0x02050000] [] with
    fired := [1], exits := [⟨0, 0, .go, 0x2000, false⟩], mem := m, effs := effs }
def tstGoes : Exit := ⟨0, 0, .go, 0x2000, false⟩
theorem goesOn_of_none (s : State) (q : Nat) (h : s.taskOf q = none) : goesOn s q := by
  intro t ht
  rw [h] at ht
  cases ht

/-- CommitWritesRegistersAndStores: an atomic of each operation, on good and on spoiled bytes. -/
theorem witness_commit_atomic :
    ∀ op ∈ [AmoOp.add, .swp, .cas, .min, .max, .and, .or], ∀ p ∈ [[], [(0x40, true)]],
      let b := tstDoes [⟨0, 0, .amo op 0x1000 0x1000 4 7 0 [1] 0⟩] []
      let s := { tstAt 0 b with poison := p }
      committing s 0 b tstGoes ∧ s.taskOf 0 = none ∧ b.wrgRegs [1] = [5] ∧ s.poisoned 0x1000 4 = !p.isEmpty ∧
        (s.seq 0).tm = false := by
  simp only [committing, quiet]
  decide +kernel
theorem test_commit_atomic :
    (match exec (.blockCommit 0) { tstAt 0 (tstDoes [⟨0, 0, .amo .add 0x1000 0x1000 4 7 0 [1] 0⟩] []) with
        mem := [(0x1000, 0xFF), (0x1001, 0xFF), (0x1002, 0xFF), (0x1003, 0xFF)] } with
    | .next t => ((t.seq 0).reg 5, Memory.bytes t.mem 0x1000 4)
    | _ => (0, [])) = (0xFFFFFFFFFFFFFFFF, [6, 0, 0, 0]) := by decide +kernel

/-- RunAheadAndDebugHalts: a block predicted behind one that runs; a debug halt held between blocks. -/
theorem witness_RunAheadAndDebugHalts :
    let b := tstBlk [0x70000100] []
    let s := { State.reset with mem := tstBlockMem, seqs := [(96, { Seq.initial with cond := .run, blocks := [b] })] }
    let d := { State.reset with seqs := [(0, { Seq.initial with cond := .held 0x2000, asyncDbg := [4] })] }
    ((s.seq 96).cond = .run ∧ (s.seq 96).blocks.getLast? = some b ∧ (s.seq 96).raen = true ∧ (s.seq 96).blocks.length ≤ 4 ∧
      (s.seq 96).predicted b = some 0x2000 ∧ tstFetched (s.fetchBlock 96 0x2000) = some (tstHdrAs, [0x70000001]) ∧
      decodeFault tstHdrAs [0x70000001] true = none ∧ tstHdrAs.getLsbD 20 = true) ∧
    ((d.seq 0).cond = .held 0x2000 ∧ (d.seq 0).tm = false ∧ (d.seq 0).asyncHang = none ∧ (d.seq 0).asyncPreempt = none ∧
      (d.seq 0).asyncDbg = [4] ∧ (d.seq 0).blocks = []) ∧
    (let e := { State.reset with seqs := [(0, { Seq.initial with cond := .decode tstCopyOf, asyncDbg := [4] })] }
     (e.seq 0).cond = .decode tstCopyOf ∧ tstCopyOf.addr = 0x2000 ∧ (e.seq 0).tm = false ∧ (e.seq 0).asyncDbg = [4]) := by
  decide +kernel

/-- RepeatsTakeBackYoungerLoads: a younger block has read 0 ahead and moved it on; the place now holds 7, or is written
by an older block. -/
theorem witness_RepeatsTakeBackYoungerLoads :
    let l : LoadRec := ⟨0, 0, 0x1000, 0x1000, 8, false, 4, true, 0, false⟩
    let c := { tstBlk [0x6000800B, 0x10004000] [(4, .word 0)] with fired := [0], loads := [l] }
    let s := tstAhead 96 (tstBlk [] []) c
    let m := { s with mem := [(0x1000, 7)] }
    (s.seq 96).blocks[1]? = some c ∧ l.ix ∈ c.fired ∧ m.outdated 96 c l = true ∧ s.outdated 96 c l = false ∧
      l ∈ c.loads ∧ l.done = true ∧ 0 < l.n ∧ l.pa.toNat < 0x1007 + 1 ∧ 0x1007 < l.pa.toNat + l.n ∧ l.pa.toNat + l.n ≤ 0x1008 := by
  decide +kernel

theorem test_acquire_repeats :
    let l : LoadRec := ⟨0, 0, 0x1000, 0x1000, 8, false, 4, true, 0, false⟩
    let c := { tstBlk [0x6000800B, 0x10004000] [(4, .word 0)] with fired := [0], loads := [l] }
    let s := { tstAhead 96 (tstBlk [] []) c with mem := [(0x1000, 7)] }
    (((s.afterAcquire 96).seq 96).blocks.map fun b => (b.fired, b.loads)) = [([], []), ([], [])] := by decide +kernel
/-! ## Elements of the fabric -/

/-- A data token of element codes, with LR and LS. -/
def tstTok (fmt rows cols : Nat) (codes : List Nat) (lr : Bool := false) (ls : Bool := false) : Token :=
  ⟨hSetLs (hSetLr (hData fmt rows cols 0 0 false) lr) ls, .elems codes (if isMx fmt then List.replicate rows 0x7F else [])⟩

/-- An image of one row, and its token. -/
def tstImage (vs : List Int) : Image := ⟨0, 0, 0, vs.map fun v => ⟨v, 0, false, .fin⟩, false, false⟩
def tstImg (fmt : Nat) (vs : List Int) : Token :=
  ⟨hData fmt 1 vs.length 0 0 false, .image (tstImage vs)⟩

/-- An element whose inputs of the given formats are all used, at site 0 of region 0. -/
def tstEl (kind op mode ofmt : Nat) (ifmt : List Nat) (p : List (BitVec 32)) (outs : List Nat := [1]) : Elem :=
  Elem.initial ⟨kind, op, mode, ofmt, ifmt, ifmt.map fun _ => 0, outs, p⟩

/-- Arcs that hold each input's token, and free ones for four outputs; the context and the state. -/
def tstArcs (ins : List (Nat × Token)) : List Arc :=
  (ins.map fun it => ⟨1600, 0, it.1, 4, 1, [], [], false, [⟨it.2, true, 0⟩], none, 0, 0, []⟩) ++
    (List.range 4).map fun o => ⟨o, 0, 1600 + o, 4, 1, [], [], false, [], none, 0, 0, []⟩
def tstFab (el : Elem) (ins : List (Nat × Token)) : State := tstArmed State.reset (tstCtx (tstArcs ins) el)

/-- The codes that an output of the element at site 0 has on its arc after a next state. -/
def tstOut (o : Host.Outcome State Fault Refusal) (k : Nat) : List (List Nat) :=
  match o with
  | .next t => match t.ctxs.find? 0 with
    | some c => (c.arcs.filter fun a => a.src == k).flatMap fun a => a.toks.map fun f => f.tok.codes
    | none => []
  | _ => []

/-- The element fires on the given tokens: its hypotheses in every statement about it (R75, R90). -/
def tstReady (kind op : Nat) (el : Elem) (ins : List (Nat × Token)) : Prop :=
  elemReady (tstFab el ins) kind op 0 (tstCtx (tstArcs ins) el) el ∧
    (∀ it ∈ ins, arrives (tstFab el ins) (tstCtx (tstArcs ins) el) el it.1 it.2) ∧
    ∀ o < 4, roomOn (tstFab el ins) (tstCtx (tstArcs ins) el) o
def tstTiles (el : Elem) (ins : List (Nat × Token)) : Prop := ∀ it ∈ ins, plainTok el it.1 it.2 ∧ it.2.bub = false

/-- VectorPairResults: operands of one shape, and one that is broadcast; results by hand from R183 and R76. -/
theorem test_vec_pair : ([
    (.vadd, 1, 0, 5, 5, 250, 10, 4), (.vsub, 2, 0, 5, 5, 3, 5, 254), (.vmul, 3, 0, 5, 5, 20, 20, 144),
    (.vmin, 4, 0, 1, 1, 255, 1, 255), (.vmax, 5, 0, 1, 1, 255, 1, 1), (.vadds, 8, 0, 5, 5, 250, 10, 255),
    (.vsubs, 9, 0, 5, 5, 3, 5, 0), (.vand, 10, 0, 5, 5, 0xF0, 0x3C, 0x30), (.vor, 11, 0, 5, 5, 0xF0, 0x3C, 0xFC),
    (.vxor, 12, 0, 5, 5, 0xF0, 0x3C, 0xCC), (.vshl, 13, 0, 5, 5, 0x81, 1, 2), (.vshr, 14, 0, 5, 5, 0x81, 1, 0x40),
    (.vsra, 15, 0, 1, 1, 0x81, 1, 0xC0), (.vcmp, 16, 4, 5, 1, 255, 1, 1), (.vadd, 1, 0, 9, 9, 0x3C00, 0x1400, 0x3C01)
  ] : List (Instr × Nat × Nat × Nat × Nat × Nat × Nat × Nat)).all (fun (i, op, mode, ofmt, ifmt, a, b, v) =>
    tstOut (exec i (tstFab (tstEl 0 op mode ofmt [ifmt, ifmt] []) [(0, tstTok ifmt 1 2 [a, a]), (1, tstTok ifmt 1 1 [b])]))
      0 == [[v, v]]) = true := by decide +kernel

theorem witness_vec_pair :
    (∀ op ∈ [1, 2, 3, 4, 5, 8, 9, 10, 11, 12, 13, 14, 15, 16],
      let el := tstEl 0 op 0 5 [5, 5] []
      let ins := [(0, tstTok 5 1 2 [7, 9]), (1, tstTok 5 1 1 [1])]
      tstReady 0 op el ins ∧ tstTiles el ins) ∧
    spreads (tstTok 5 1 2 [7, 9]) 1 2 ∧ spreads (tstTok 5 1 1 [1]) 1 2 ∧ (tstTok 5 1 2 [7, 9]).cols = 2 := by
  simp only [tstReady, tstTiles, elemReady, arrives, roomOn, plainTok, spreads]
  decide +kernel

/-- FiringsAndHeaders: a bubble on an input; shapes that do not agree; a firing that logs nothing, in a context with no
debug halt. -/
theorem witness_FiringsAndHeaders :
    (let el := tstEl 0 1 0 5 [5, 5] []
     let ins := [(0, bubble (hData 5 1 2 0 0 false)), (1, tstTok 5 1 1 [1])]
     tstReady 0 1 el ins ∧ (∀ it ∈ ins, plainTok el it.1 it.2) ∧ (bubble (hData 5 1 2 0 0 false)).bub = true) ∧
    (let el := tstEl 0 1 0 5 [5, 5] []
     let ins := [(0, tstTok 5 1 2 [1, 1]), (1, tstTok 5 2 2 [1, 1, 1, 1])]
     tstReady 0 1 el ins ∧ tstTiles el ins ∧ (tstTok 5 1 2 [1, 1]).rows ≠ (tstTok 5 2 2 [1, 1, 1, 1]).rows ∧
       (tstTok 5 1 2 [1, 1]).cols ≠ 1 ∧ (tstTok 5 2 2 [1, 1, 1, 1]).rows ≠ 1) ∧
    (let el := tstEl 0 1 0 5 [5, 5] []
     let s := tstFab el []
     (s.receiptLogs (tstCtx (tstArcs []) el) el (siteKey 0 0) []).length = 0 ∧
       (∀ q ∈ (tstCtx (tstArcs []) el).regions, (s.seq q).hen = false ∧ (s.seq q).heldPrev = 0) ∧
       (∀ a ∈ (tstCtx (tstArcs []) el).arcs, a.relReg = none ∧ a.back = []) ∧
       s.energy.getD 0 0 + 12 * (22 + (s.region 0).vcur) ^ 2 ≤ (2 ^ 48 - 1) * 9000) ∧
    ((1 : Nat) < 32 ∧ 1 ≤ (1 : Nat) ∧ (32 : Nat) ≤ 32) := by
  simp only [tstReady, tstTiles, elemReady, arrives, roomOn, plainTok]
  refine ⟨?_, ?_, ?_, ?_⟩ <;> decide +kernel

/-- One-input and row operations by hand: VABS and VNEG of the least I8, VADDI, VCMPI (GE), VRSUM, VRMAX. -/
theorem test_vec_one : ([
    (.vabs, 6, 0, 1, 1, [], [0x80, 0xFF], [0x80, 1]), (.vneg, 7, 0, 5, 5, [], [1, 0], [255, 0]),
    (.vneg, 7, 0, 9, 9, [], [0x3C00, 0x8000], [0xBC00, 0]), (.vaddi, 0x13, 0, 5, 5, [0xFFFFFFFF], [0, 5], [255, 4]),
    (.vcmpi, 0x11, 10, 5, 1, [0], [0xFF, 0], [0, 1]), (.vrsum, 0x28, 0, 5, 5, [], [250, 10], [4]),
    (.vrmax, 0x29, 0, 1, 1, [], [0xFF, 1], [1]), (.vexp2, 0x20, 0, 11, 11, [], [0x40400000, 0xFF800000], [0x41000000, 0]),
    (.vlog2, 0x21, 0, 11, 11, [], [0x41000000, 0], [0x40400000, 0xFF800000]),
    (.vrcp, 0x22, 0, 11, 11, [], [0x40000000, 0x80000000], [0x3F000000, 0xFF800000]),
    (.vrsq, 0x23, 0, 11, 11, [], [0x40800000, 0xBF800000], [0x3F000000, 0x7FC00000]),
    (.vtanh, 0x24, 0, 11, 11, [], [0x7F800000, 0x80000000], [0x3F800000, 0x80000000]),
    (.vsigm, 0x25, 0, 11, 11, [], [0, 0xFF800000], [0x3F000000, 0])
  ] : List (Instr × Nat × Nat × Nat × Nat × List (BitVec 32) × List Nat × List Nat)).all
    (fun (i, op, mode, ofmt, ifmt, p, xs, vs) =>
      tstOut (exec i (tstFab (tstEl 0 op mode ofmt [ifmt] p) [(0, tstTok ifmt 1 2 xs)])) 0 == [vs]) = true := by
  decide +kernel

theorem test_vtrn : tstOut (exec .vtrn (tstFab (tstEl 0 0x2A 0 5 [5] []) [(0, tstTok 5 2 3 [1, 2, 3, 4, 5, 6])])) 0 =
    [[1, 4, 2, 5, 3, 6]] := by decide +kernel
theorem test_vsel : tstOut (exec .vsel (tstFab (tstEl 0 0x12 0 5 [7, 5, 5] [])
    [(0, tstTok 7 1 2 [0, 9]), (1, tstTok 5 1 2 [1, 2]), (2, tstTok 5 1 2 [3, 4])])) 0 = [[3, 2]] := by decide +kernel
theorem test_vfma : tstOut (exec .vfma (tstFab (tstEl 0 0x1A 0 11 [11, 11, 11] [])
    [(0, tstTok 11 1 1 [0x3F800001]), (1, tstTok 11 1 1 [0x3F7FFFFF]), (2, tstTok 11 1 1 [0xBF800000])])) 0 =
    [[0x337FFFFE]] := by decide +kernel

/-- ConvertedMaskedAndTranscendental: 2^(3/2) and 2^(-1/2) beside 2^(1/2); an integer; a number below 64. -/
theorem witness_transcendental :
    (let u := fun (n : Nat) => n * 2 ^ ((-1 : Int) + 700).toNat
     u 1 < 4096 * 2 ^ 700 ∧ u 3 < 4096 * 2 ^ 700 ∧ u 3 = u 1 + 1 * 2 ^ 700 ∧ u 1 + u 1 = 1 * 2 ^ 700 ∧ u 6 = 3 * 2 ^ 700) ∧
    (match exp2Of (.fin false 1 (-1)) with | .fin false _ _ => true | _ => false) = true ∧ absFloor 1 (-1) < 64 := by
  decide +kernel

/-- VectorUnaryAndRowResults, ConvertedMaskedAndTranscendental: each operation of one input, VSEL, VFMA, VCVT with and
without its key, VMASK. -/
theorem witness_vec_others :
    (∀ op ∈ [6, 7, 0x13, 0x11, 0x28, 0x29, 0x2A, 0x18, 0x19, 0x30, 0x20, 0x21, 0x22, 0x23, 0x24, 0x25],
      let el := tstEl 0 op 0 11 [11] []
      let ins := [(0, tstTok 11 1 2 [0, 0x80000000])]
      tstReady 0 op el ins ∧ tstTiles el ins ∧ (tstTok 11 1 2 [0, 0x80000000]).fmt = el.cfg.ofmt) ∧
    (∀ op ∈ [0x12, 0x1A],
      let el := tstEl 0 op 0 5 [5, 5, 5] []
      let ins := [(0, tstTok 5 1 1 [1]), (1, tstTok 5 1 2 [1, 2]), (2, tstTok 5 1 2 [1, 2])]
      tstReady 0 op el ins ∧ tstTiles el ins) ∧
    (let el := tstEl 0 0x18 8 0x10 [11, 7] []
     let x := tstTok 11 1 32 (List.replicate 32 0)
     let ins := [(0, x), (1, tstTok 7 1 1 [5])]
     tstReady 0 0x18 el ins ∧ tstTiles el ins ∧ el.cfg.mode / 2 = 4 ∧ isMx el.cfg.ofmt = true ∧ x.cols = 32) ∧
    (let el := tstEl 0 0x19 0 0x10 [0x10] [1]
     let x := tstTok 0x10 1 32 (List.replicate 32 0)
     tstReady 0 0x19 el [(0, x)] ∧ tstTiles el [(0, x)] ∧ x.fmt = el.cfg.ofmt ∧ isMx x.fmt = true) ∧
    (∀ m ∈ [tstTok 7 1 1 [1], tstTok 7 2 1 [1, 1]],
      let el := tstEl 0 0x31 0 11 [11, 7] [0x3F800000]
      let ins := [(0, tstTok 11 1 2 [0, 0]), (1, m)]
      tstReady 0 0x31 el ins ∧ tstTiles el ins) := by
  simp only [tstReady, tstTiles, elemReady, arrives, roomOn, plainTok]
  refine ⟨?_, ?_, ?_, ?_, ?_⟩ <;> decide +kernel

/-- Row scales of VSCL at the ends: 0xFF stays, one below 0 empties the row, one above 0xFE becomes 0xFF. -/
theorem witness_vscl_scales :
    (0xFE : Int) < 0xFE + signedOf 9 1 ∧ (0 : Int) + signedOf 9 0x1FF < 0 ∧ (0 : Int) ≤ 1 + signedOf 9 0x1FF := by decide +kernel

/-- HMIX of two zero words, computed from R191 by hand, and VMASK of a mask of one bit. -/
theorem test_hmix : tstOut (exec .hmix (tstFab (tstEl 0 0x30 0 7 [7] [0, 0, 0, 0, 0]) [(0, tstTok 7 1 1 [0])])) 0 =
    [[0xA627F00D]] := by decide +kernel
theorem test_vmask : tstOut (exec .vmask (tstFab (tstEl 0 0x31 0 11 [11, 7] [0x40000000])
    [(0, tstTok 11 1 2 [0x3F800000, 0x3F800000]), (1, tstTok 7 1 1 [2])])) 0 = [[0, 0x40000000]] := by decide +kernel
theorem test_vcvt_saturates : tstOut (exec .vcvt (tstFab (tstEl 0 0x18 0 1 [11] [])
    [(0, tstTok 11 1 2 [0x43000000, 0xC0200000])])) 0 = [[0x7F, 0xFE]] := by decide +kernel
theorem test_vscl : tstOut (exec .vscl (tstFab (tstEl 0 0x19 0 11 [11] [1]) [(0, tstTok 11 1 1 [0x40000000])])) 0 =
    [[0x40800000]] := by decide +kernel
/-- An element with a field changed. -/
def tstXch : Token := ctlTok (hControl 1 0 0 false)

/-- TileRegisters: a tile at a tile port, XCH at both ports; TLD with and without a tile; TEMIT with data and with a
bubble; TXCH with and without an XCH owed. -/
theorem witness_TileRegisters :
    (∀ e ∈ [(0x40, 0, 1), (0x41, 0, 2), (0x50, 1, 0), (0x52, 0, 1)],
      let el := tstEl 0 e.1 0 0x0B [11, 11, 11] []
      let c := tstCtx (tstArcs [(e.2.2, tstTok 11 1 1 [5])]) el
      elemReady (tstFab el [(e.2.2, tstTok 11 1 1 [5])]) 0 e.1 0 c el ∧
        arrives (tstFab el [(e.2.2, tstTok 11 1 1 [5])]) c el e.2.2 (tstTok 11 1 1 [5]) ∧
        plainTok el e.2.2 (tstTok 11 1 1 [5]) ∧
        tstReady 0 e.1 el [(e.2.1, tstXch), (e.2.2, tstXch)] ∧ tstXch.kind = .xch) ∧
    (∀ ta ∈ [some (tstTok 11 2 2 [1, 2, 3, 4]), none],
      let el := { tstEl 0 0x50 0 11 [11, 11] [] with ta := ta }
      tstReady 0 0x50 el [(1, tstTok 11 2 2 [1, 2, 3, 4])] ∧ tstTiles el [(1, tstTok 11 2 2 [1, 2, 3, 4])]) ∧
    (∀ x ∈ [tstTok 11 1 1 [5], bubble (hData 11 1 1 0 0 false)],
      let el := { tstEl 0 0x52 0 11 [11, 11] [] with ta := some (tstTok 11 2 2 [1, 2, 3, 4]) }
      tstReady 0 0x52 el [(0, x)] ∧ x.isData = true ∧ (tstTok 11 2 2 [1, 2, 3, 4]).bub = false) ∧
    (∀ k ∈ [none, some (tstTok 11 1 1 [5])],
      let el := { tstEl 0 0x51 0 11 [11] [2] with kept := k }
      tstReady 0 0x51 el [(0, tstTok 11 1 1 [5])] ∧ (tstTok 11 1 1 [5]).isData = true) := by
  simp only [tstReady, tstTiles, elemReady, arrives, roomOn, plainTok]
  refine ⟨?_, ?_, ?_, ?_⟩ <;> decide +kernel

theorem test_tile_exchange :
    (match exec .tileExchange (tstFab { tstEl 0 0x50 0 11 [11, 11] [] with tl := some tstXch } [(0, tstXch), (1, tstXch)]) with
    | .next t => ((t.ctxs.find? 0).bind fun c => c.elems.find? 0).map fun e => (e.ta, e.tl)
    | _ => none) = some (some tstXch, none) := by decide +kernel
theorem test_tld : tstOut (exec .tld (tstFab { tstEl 0 0x50 4 5 [5, 5] [] with ta := some (tstTok 5 2 2 [1, 2, 3, 4]) }
    [(1, tstTok 5 1 2 [10, 20])])) 0 = [[10, 40]] := by decide +kernel

/-- A tile of one row, and an activation of one row of 32 elements, in BF16: 1 and 2 in the first places. -/
def tstRow (a b : Nat) (ends : Bool) : Token := tstTok 0x0A 1 32 ([a, b] ++ List.replicate 30 0) ends

/-- MatrixFirings: an activation that ends its group and one that does not; counted and uncounted elements. -/
theorem witness_MatrixFirings :
    (∀ e ∈ [true, false], ∀ p ∈ [[3], [0xFFFFFFFF]],
      let el := { tstEl 0 0x40 0 0x18 [0x0A] p with ta := some (tstRow 0x3F80 0x4000 false) }
      tstReady 0 0x40 el [(0, tstRow 0x3F80 0x3F80 e)] ∧ tstTiles el [(0, tstRow 0x3F80 0x3F80 e)] ∧
        (parNum el.cfg 0 = 0xFFFFFFFF ∨ 0 < el.cnt) ∧ el.busy = false ∧ el.cfg.uses 2 = false) ∧
    (∀ e ∈ [true, false], (tstRow 0x3F80 0x3F80 e).ends = e ∧ (tstRow 0x3F80 0x3F80 e).cols = 32 ∧
      (tstRow 0x3F80 0x4000 e).bub = false) ∧
    (let el := { tstEl 0 0x41 0 0x18 [0x0A] [3] with ta := some (tstRow 0x3F80 0x4000 false) }
     tstReady 0 0x41 el [(0, tstRow 0x3F80 0x3F80 true)] ∧ tstTiles el [(0, tstRow 0x3F80 0x3F80 true)] ∧
       el.cfg.uses 1 = false) := by
  simp only [tstReady, tstTiles, elemReady, arrives, roomOn, plainTok]
  refine ⟨?_, ?_, ?_⟩ <;> decide +kernel

/-- MatrixFirings: a group in progress; an initial image of the right shape, of another, and a bubble; a partial image of
the right shape and of another. -/
theorem witness_MatrixFirings_images :
    (∀ e ∈ [true, false],
      let el := { tstEl 0 0x40 0 0x18 [0x0A] [3] with
        ta := some (tstRow 0x3F80 0x4000 false), busy := true, acc := some (tstImage [5]), rows := 1 }
      tstReady 0 0x40 el [(0, tstRow 0x3F80 0x3F80 e)] ∧ tstTiles el [(0, tstRow 0x3F80 0x3F80 e)]) ∧
    (∀ t ∈ [tstImg 0x18 [7], tstImg 0x18 [7, 8], bubble (hData 0x18 1 1 0 0 false)],
      let el := { tstEl 0 0x40 0 0x18 [0x0A, 0x0A, 0x18] [3] with ta := some (tstRow 0x3F80 0x4000 false) }
      let ins := [(0, tstRow 0x3F80 0x3F80 true), (2, t)]
      tstReady 0 0x40 el ins ∧ tstTiles el [(0, tstRow 0x3F80 0x3F80 true)] ∧ el.cfg.uses 2 = true ∧ t.isData = true) ∧
    (∀ t ∈ [tstImg 0x18 [7], tstImg 0x18 [7, 8]],
      let el := { tstEl 0 0x41 0 0x18 [0x0A, 0x18] [3] with ta := some (tstRow 0x3F80 0x4000 false) }
      let ins := [(0, tstRow 0x3F80 0x3F80 true), (1, t)]
      tstReady 0 0x41 el ins ∧ tstTiles el [(0, tstRow 0x3F80 0x3F80 true)] ∧ el.cfg.uses 1 = true) ∧
    ((tstImg 0x18 [7]).cols = 1 ∧ (tstImg 0x18 [7, 8]).cols = 2 ∧ (tstRow 0x3F80 0x4000 false).rows = 1 ∧
      (tstImg 0x18 [7]).bub = false ∧ (bubble (hData 0x18 1 1 0 0 false)).bub = true) := by
  simp only [tstReady, tstTiles, elemReady, arrives, roomOn, plainTok]
  refine ⟨?_, ?_, ?_, ?_⟩ <;> decide +kernel

/-- MMA of (1, 1) with a tile row (1, 2): the lane holds 3 in units of 2^-56. -/
theorem test_mma :
    (match exec .mma (tstFab { tstEl 0 0x40 0 0x18 [0x0A] [3] with ta := some (tstRow 0x3F80 0x4000 false) }
        [(0, tstRow 0x3F80 0x3F80 true)]) with
    | .next t => match (t.ctxs.find? 0).bind fun c => c.arcs.find? fun a => a.src == 0 with
      | some a => (a.toks.head?).bind fun f => match f.tok.body with
        | .image g => (g.lanes.map (·.v)).head?
        | _ => none
      | none => none
    | _ => none) = some (3 * 2 ^ 56) := by decide +kernel

/-- AccumulatorLanes, ActivationRowsAddProducts: a lane that takes finite contributions; two images; a row of an
activation. -/
theorem witness_AccumulatorLanes :
    (let g := tstImage [5]
     let ps : List (List Machine.ExactVal) := [[.fin false 3 (-56), .fin true 1 0]]
     ps.length = g.lanes.length ∧ (g.lanes[0]?).isSome = true ∧
       ((g.enter ps).lanes[0]?).map (fun l => (l.spec, l.sticky)) = some (.fin, false) ∧ (-56 : Int) ≤ g.b - 56 ∧ g.b ≤ 2047) ∧
    (((tstImage [5]).plus (tstImage [7])).lanes[0]?).map (fun l => (l.v, l.spec, l.sticky)) = some (12, .fin, false) ∧
    (let a := tstRow 0x3F80 0x3F80 true
     a.cols = 32 ∧ a.rows = 1 ∧
       ((addRows a a 1 [0] (tstImage [0])).lanes[0]?).map (fun l => (l.v, l.spec, l.sticky)) = some (2 ^ 57, .fin, false)) := by
  decide +kernel

/-- AccumulatorLanes: a lane that has met +inf takes a -inf; images of unlike base exponents. -/
theorem witness_AccumulatorLanes_special :
    (let l := Lane.special .posInf
     let g := { tstImage [5] with lanes := [l] }
     (l.spec ≠ .fin → l = Lane.special l.spec) ∧ (g.enter [[.inf true]]).b < 2047) ∧
    ({ tstImage [5] with lanes := [Lane.special .posInf] } : Image).lanes[0]? = some (Lane.special .posInf) ∧
    (((tstImage [5]).plus { tstImage [7] with b := 3, lanes := [Lane.special .posInf] }).lanes[0]?).isSome = true := by
  decide +kernel

theorem witness_finiteAbove : finiteAbove (-56) [.fin false 3 (-56), .fin true 1 0] ∧
    finiteAbove (-300) (productsOf (tstRow 0x3F80 0x3F80 true) (tstRow 0x3F80 0x3F80 true) 0 0) := by
  constructor
  · intro p hp
    simp only [List.mem_cons, List.not_mem_nil, or_false] at hp
    rcases hp with rfl | rfl <;> exact ⟨_, _, _, rfl, by decide⟩
  · intro p hp
    have h : ∀ p ∈ productsOf (tstRow 0x3F80 0x3F80 true) (tstRow 0x3F80 0x3F80 true) 0 0,
        (match p with | .fin _ _ e => decide (-300 ≤ e) | _ => false) = true := by decide +kernel
    have hp := h p hp
    cases p with
    | fin n m e => exact ⟨n, m, e, rfl, by simpa using hp⟩
    | nan => simp at hp
    | inf n => simp at hp

/-- AccumulatorOperations: each operation with its image; images of one shape and of two; ACLR of data and of a bubble;
ALD of a good and of a bad image. -/
theorem witness_AccumulatorOperations :
    (∀ x ∈ [tstTok 5 1 1 [1], bubble (hData 5 1 1 0 0 false)],
      let el := tstEl 0 0x42 0 0x18 [5] [31, 0]
      tstReady 0 0x42 el [(0, x)] ∧ x.isData = true) ∧
    (∀ op ∈ [0x43, 0x44, 0x45, 0x46, 0x47], ∀ f ∈ [0x18, 0x19],
      let el := tstEl 0 op 0 11 [0x18] [0]
      tstReady 0 op el [(0, tstImg f [5])] ∧ (tstImg f [5]).isData = true ∧ (tstImg f [5]).bub = false ∧
        (tstImg f [5]).body = .image (tstImage [5]) ∧
        (tstImage [5]).lanes.length = (tstImg f [5]).rows * (tstImg f [5]).cols ∧ isImg (el.cfg.ifmt.getD 0 0) = true ∧
        el.cfg.mode / 2 ≠ 4 ∧ isMx el.cfg.ofmt = false) ∧
    (∀ y ∈ [tstImg 0x18 [7], tstImg 0x18 [7, 8]],
      let el := tstEl 0 0x48 0 0x18 [0x18, 0x18] []
      tstReady 0 0x48 el [(0, tstImg 0x18 [5]), (1, y)] ∧ el.cfg.mode % 4 < 2) ∧
    ((tstImage [5]).bad = false ∧ { tstImage [5] with chk := (tstImage [5]).check 0x18 }.chk = (tstImage [5]).check 0x18 ∧
      { tstImage [5] with bad := true }.bad = true) := by
  simp only [tstReady, elemReady, arrives, roomOn]
  refine ⟨?_, ?_, ?_, ?_⟩ <;> decide +kernel

/-- AccumulatorOperations: RES under SR, and into an MX format of 32 columns and of another number; ALD of a tile; a running
AADD that goes on and one that ends, of the same shape and of another, and one that has met another shape. -/
theorem witness_AccumulatorOperations_forms :
    (let el := tstEl 0 0x43 8 11 [0x18, 7] []
     tstReady 0 0x43 el [(0, tstImg 0x18 [5]), (1, tstTok 7 1 1 [9])] ∧ tstTiles el [(1, tstTok 7 1 1 [9])] ∧
       el.cfg.mode / 2 = 4) ∧
    (∀ x ∈ [tstImg 0x18 [5], tstImg 0x18 (List.replicate 32 5)],
      let el := tstEl 0 0x43 0 0x10 [0x18] []
      tstReady 0 0x43 el [(0, x)] ∧ isMx el.cfg.ofmt = true ∧ el.cfg.mode / 2 ≠ 4) ∧
    (let el := tstEl 0 0x47 0 0x18 [11] []
     tstReady 0 0x47 el [(0, tstTok 11 1 1 [0x3F800000])] ∧ tstTiles el [(0, tstTok 11 1 1 [0x3F800000])] ∧
       isImg (el.cfg.ifmt.getD 0 0) = false) ∧
    (∀ kept ∈ [none, some (tstImg 0x18 [5]), some (tstImg 0x18 [5, 6])], ∀ lr ∈ [true, false], ∀ bad ∈ [true, false],
      let el := { tstEl 0 0x48 2 0x18 [0x18] [] with kept := kept, acc := kept.map fun _ => tstImage [5], expired := bad }
      let x := { tstImg 0x18 [7] with hdr := hSetLr (tstImg 0x18 [7]).hdr lr }
      tstReady 0 0x48 el [(0, x)] ∧ 2 ≤ el.cfg.mode % 4 ∧ x.ends = lr ∧ x.bub = false) ∧
    (shapeOf (tstImg 0x18 [5]) (tstImg 0x18 [7]) = true ∧ shapeOf (tstImg 0x18 [5, 6]) (tstImg 0x18 [7]) = false) := by
  simp only [tstReady, tstTiles, elemReady, arrives, roomOn, plainTok]
  refine ⟨?_, ?_, ?_, ?_, ?_⟩ <;> decide +kernel

/-- ALD of the F32 tile (1, 1.5): the base exponent is 0 - 48, and the lanes hold them in units of 2^-104. -/
theorem test_ald_tile :
    (match exec .ald (tstFab (tstEl 0 0x47 0 0x18 [11] []) [(0, tstTok 11 1 2 [0x3F800000, 0x3FC00000])]) with
    | .next t => match (t.ctxs.find? 0).bind fun c => c.arcs.find? fun a => a.src == 0 with
      | some a => (a.toks.head?).bind fun f => match f.tok.body with
        | .image g => some (g.b, g.lanes.map (·.v))
        | _ => none
      | none => none
    | _ => none) = some (-48, [2 ^ 104, 2 ^ 104 + 2 ^ 103]) := by decide +kernel

/-- RES of a lane of 3 * 2^56 into F32, and ACMP of the same lane above 2.0 (condition GT, code 4). -/
theorem test_res : tstOut (exec .res (tstFab (tstEl 0 0x43 0 11 [0x18] []) [(0, tstImg 0x18 [3 * 2 ^ 56])])) 0 =
    [[0x40400000]] := by decide +kernel
theorem test_acmp : tstOut (exec .acmp (tstFab (tstEl 0 0x45 8 7 [0x18] [0x40000000]) [(0, tstImg 0x18 [3 * 2 ^ 56, 0])])) 0 =
    [[1]] := by decide +kernel

/-- Reductions: two inputs of elements, two of images, and a message whose token does not end it. -/
theorem witness_Reductions :
    (∀ op ∈ [2, 3],
      let el := tstEl 8 op 0 5 [5, 5] []
      let ins := [(0, tstTok 5 1 2 [1, 2]), (1, tstTok 5 1 2 [3, 4])]
      tstReady 8 op el ins ∧ tstTiles el ins ∧ el.cfg.inputs = [0, 1] ∧ el.kept = none ∧ el.acc = none ∧
        el.tl = none ∧ el.flag = false ∧ el.expired = false ∧ el.busy = false ∧ el.ep = false) ∧
    (let el := tstEl 8 1 0 0x18 [0x18, 0x18] []
     let ins := [(0, tstImg 0x18 [5]), (1, tstImg 0x18 [7])]
     tstReady 8 1 el ins ∧ el.cfg.inputs = [0, 1] ∧ el.cfg.ofmt = fmtCSIMG ∧ isImg (tstImg 0x18 [5]).fmt = true) ∧
    (∀ op ∈ [1, 2, 3],
      let el := tstEl 8 op 1 5 [5] []
      tstReady 8 op el [(0, tstTok 5 1 2 [1, 2])] ∧ tstTiles el [(0, tstTok 5 1 2 [1, 2])] ∧ el.cfg.mode % 2 = 1 ∧
        (tstTok 5 1 2 [1, 2]).ends = false) := by
  simp only [tstReady, tstTiles, elemReady, arrives, roomOn, plainTok]
  refine ⟨?_, ?_, ?_⟩ <;> decide +kernel

/-- Reductions: three inputs, one of them a bubble and one of another shape; the token that ends a message; RDADD of elements
and of images. -/
theorem witness_Reductions_forms :
    (∀ op ∈ [1, 2, 3],
      let el := tstEl 8 op 0 5 [5, 5, 5] []
      let ins := [(0, tstTok 5 1 2 [1, 2]), (1, bubble (hData 5 1 2 0 0 false)), (2, tstTok 5 1 1 [3])]
      tstReady 8 op el ins ∧ tstTiles el [(0, tstTok 5 1 2 [1, 2]), (2, tstTok 5 1 1 [3])] ∧ el.cfg.inputs = [0, 1, 2] ∧
        gathers el [] ∧ (bubble (hData 5 1 2 0 0 false)).isData = true) ∧
    (let el := { tstEl 8 2 1 5 [5] [] with kept := some (tstTok 5 1 2 [1, 2]), tl := some (tstTok 5 1 2 [1, 2]) }
     let x := tstTok 5 1 2 [3, 4] true
     tstReady 8 2 el [(0, x)] ∧ tstTiles el [(0, x)] ∧ gathers el [tstTok 5 1 2 [1, 2]] ∧ x.ends = true) ∧
    (let el := tstEl 8 1 0 0x18 [0x18, 5] []
     tstReady 8 1 el [(0, tstImg 0x18 [5]), (1, tstTok 5 1 1 [3])] ∧ tstTiles el [(1, tstTok 5 1 1 [3])] ∧ gathers el []) := by
  simp only [tstReady, tstTiles, elemReady, arrives, roomOn, plainTok, gathers]
  refine ⟨?_, ?_, ?_⟩ <;> decide +kernel

theorem test_reductions :
    (tstOut (exec .rdmax (tstFab (tstEl 8 2 0 5 [5, 5] []) [(0, tstTok 5 1 2 [1, 9]), (1, tstTok 5 1 2 [3, 4])])) 0,
      tstOut (exec .rdmin (tstFab (tstEl 8 3 0 5 [5, 5] []) [(0, tstTok 5 1 2 [1, 9]), (1, tstTok 5 1 2 [3, 4])])) 0,
      tstOut (exec .rdadd (tstFab (tstEl 8 1 0 5 [5, 5] []) [(0, tstTok 5 1 2 [1, 9]), (1, tstTok 5 1 2 [3, 4])])) 0) =
    ([[3, 9]], [[1, 4]], [[4, 13]]) := by decide +kernel

/-! ## Memory nodes, address generators and flow elements -/

/-- Arcs that hold the inputs' tokens, and none of whose output's has room. -/
def tstFull (ins : List (Nat × Token)) : List Arc :=
  (ins.map fun it => ⟨1600, 0, it.1, 4, 1, [], [], false, [⟨it.2, true, 0⟩], none, 0, 0, []⟩) ++
    [⟨0, 0, 1600, 0, 1, [], [], false, [], none, 0, 0, []⟩]

/-- MemoryNodes: a BUFR that holds entries takes another one where its output has no room. -/
theorem witness_BUFR_fills :
    ∀ k ∈ [0, 1], ∀ x ∈ [tstTok 5 1 2 [1, 2], ctlTok (hControl 1 0 0 false)],
      let el := { tstEl 1 2 0 5 [5] [0, 10, 2] with cnt := k }
      let c := tstCtx (tstFull [(0, x)]) el
      let s := tstArmed State.reset c
      elemReady s 1 2 0 c el ∧ ¬ roomOn s c 0 ∧ el.cnt < parNum el.cfg 2 ∧ arrives s c el 0 x ∧
        (x.isData = true ∨ x.kind = .xch) ∧ entryLength x ≤ parNum el.cfg 1 := by
  simp only [elemReady, roomOn, arrives]
  decide +kernel

/-- MemoryNodes: an entry that fits and one that does not; an empty and a held BUFR; passes at and before their last
entry; indices at the ends of the entries; a scratch window. -/
theorem witness_MemoryNodes :
    let x := tstTok 5 1 2 [1, 2]
    (∀ n ∈ [10, 9], let el := tstEl 1 1 0 5 [5] [0, BitVec.ofNat 32 n, 2]
      tstReady 1 1 el [(0, x)] ∧ x.isData = true ∧ el.cnt.testBit el.ptr = false ∧ entryLength x = 10) ∧
    (∀ k ∈ [0, 1], let el := { tstEl 1 2 0 5 [5] [0, 10, 2] with cnt := k }
      tstReady 1 2 el [(0, x)] ∧ x.isData = true ∧ 0 < parNum el.cfg 2 ∧ entryLength x ≤ parNum el.cfg 1) ∧
    (∀ k ∈ [1, 2], let el := { tstEl 1 3 0 5 [5] [0, 10, 2, 2] with busy := true, cnt := k }
      tstReady 1 3 el [] ∧ el.busy = true) ∧
    (∀ v ∈ [0, 1], let el := { tstEl 1 4 0 5 [5, 5] [0, 10, 2] with busy := true, cnt := 1 }
      tstReady 1 4 el [(1, tstTok 5 1 1 [v])] ∧ (tstTok 5 1 1 [v]).first = some v) ∧
    (∀ op ∈ [3, 4], let el := tstEl 1 op 0 5 [5, 5] [0, 10, 2, 1]
      tstReady 1 op el [(0, x)] ∧ el.busy = false ∧ entryLength x ≤ parNum el.cfg 1) ∧
    (let el := tstEl 1 5 0 5 [5, 7] [0, 64]
     let ins := [(0, x), (1, tstTok 7 1 1 [63])]
     tstReady 1 5 el ins ∧ tstTiles el ins ∧ (tstTok 7 1 1 [63]).first = some 63 ∧
       (x.payload ++ x.scaleList).length ≤ el.cfg.allocSize) ∧
    (let el := tstEl 1 6 0 5 [7] [0, 64, 0]
     tstReady 1 6 el [(0, tstTok 7 1 1 [63])] ∧ tstTiles el [(0, tstTok 7 1 1 [63])]) := by
  simp only [tstReady, tstTiles, elemReady, arrives, roomOn, plainTok]
  refine ⟨?_, ?_, ?_, ?_, ?_, ?_, ?_⟩ <;> decide +kernel

/-- The headers that the element at site 0 has emitted on output 0 after a next state. -/
def tstHdrs (o : Host.Outcome State Fault Refusal) : List Word :=
  match o with
  | .next t => match t.ctxs.find? 0 with
    | some c => (c.arcs.filter fun a => a.src == 0).flatMap fun a => a.toks.map fun f => f.tok.hdr
    | none => []
  | _ => []

/-- An entry, a scratch byte and a stored message in a poisoned granule come out poisoned (R308, R340). -/
theorem test_poisoned_node_reads :
    (let el := { tstEl 1 2 0 5 [5] [0, 10, 2] with cnt := 1 }
     let s := { tstFab el [] with poison := [(0x8000000000 / 64, true)] }
     s.poisoned (entryAddr 0 0 el.cfg 0) (entryLength (s.entryTok (entryAddr 0 0 el.cfg 0))) = true ∧
       (s.entryTok (entryAddr 0 0 el.cfg 0)).isData = true ∧ (tstHdrs (exec .bufr s)).map hPsn = [true]) ∧
    (let el := tstEl 1 6 0 5 [7] [0, 64, 0]
     let s := { tstFab el [(0, tstTok 7 1 1 [63])] with poison := [(0x8000000000 / 64, true)] }
     (tstHdrs (exec .scrr s)).map hPsn = [true]) ∧
    (let el := tstEl 10 1 0 5 [] [0]
     let b : SBuf := ⟨0, 64, 0, 16, [tstTok 5 1 1 [9] true], 1, 0, 0, false, none, none, some 0⟩
     let s := { tstFab el [] with sbufs := [(0, b)], poison := [(0x8000000000 / 64, true)] }
     (s.ringBad 0 b (tstTok 5 1 1 [9] true) && (tstTok 5 1 1 [9] true).isData) = true ∧
       (tstHdrs (exec .ingr s)).map hPsn = [true]) := by
  refine ⟨?_, ?_, ?_⟩ <;> decide +kernel

/-- A scratch write of two bytes at offset 63 of 64 wraps: the second stands at the window's first byte (R219). -/
theorem test_scratch_wraps :
    (match exec .scrw (tstFab (tstEl 1 5 0 5 [5, 7] [0, 64]) [(0, tstTok 5 1 2 [8, 9]), (1, tstTok 7 1 1 [63])]) with
    | .next t => t.mem.map (·.2)
    | _ => []) = [9, 8] := by decide +kernel

/-- A descriptor of two tiles of one byte, 16 bytes apart, at 0x100000. -/
def tstDesc : Desc :=
  ⟨0x100000, 2, 1, 1, 16, 0, 0, 0, 0, 1, 1, 5, false⟩
def tstGen (op : Nat) (ifmt : List Nat) : Elem :=
  { tstEl 2 op 0 5 ifmt [0x10000, 0] with desc := .ok tstDesc, walk := some ⟨0, 1, 0, 0, false⟩ }
def tstGenFab (el : Elem) (ins : List (Nat × Token)) : State :=
  { tstMapped State.reset with
    ctxs := [(0, tstCtx (tstArcs ins) el)], nextCtx := 1, regions := [(0, { Region.initial with armed := some 0 })] }

/-- AddressGenerators: each generator with a walk at its last tile, a tile waiting, a token that fits its descriptor and
one that does not, indices at both ends. -/
theorem witness_AddressGenerators_firings :
    tstReady 2 1 (tstGen 1 []) [] ∧
    tstReady 2 2 { tstGen 2 [] with tile := some (tstTok 5 1 1 [1]) } [] ∧
    (∀ x ∈ [tstTok 5 1 1 [1], tstTok 5 1 2 [1, 2]], tstReady 2 3 (tstGen 3 [5]) [(0, x)] ∧ tstTiles (tstGen 3 [5]) [(0, x)] ∧
      x.rows = tstDesc.rows) ∧
    (tstReady 2 4 { tstGen 4 [7] with tile := some (tstTok 5 1 1 [1]) } [(0, tstTok 7 1 1 [1])] ∧
      (tstTok 7 1 1 [1]).isData = true) ∧
    (∀ op ∈ [5, 6], ∀ v ∈ [0, 1],
      let ins := [(0, tstTok 5 1 1 [9]), (1, tstTok 7 1 1 [v])]
      tstReady 2 op (tstGen op [5, 7]) ins ∧ tstTiles (tstGen op [5, 7]) ins ∧ (tstTok 7 1 1 [v]).codes = [v] ∧
        0 ≤ codeValue 7 v ∧ codeValue 7 v < tstDesc.n0 ∧ (tstTok 5 1 1 [9]).fmt = tstDesc.fmt ∧ isInt 7 = true ∧
        isMx tstDesc.fmt = false) := by
  simp only [tstReady, tstTiles, elemReady, arrives, roomOn, plainTok]
  refine ⟨?_, ?_, ?_, ?_, ?_⟩ <;> decide +kernel

/-- AddressGenerators: an atomic at a readable and writable address, a descriptor to be fetched, a tile to be read, a
write to be performed, and a page that is not mapped. -/
theorem witness_AddressGenerators_memory :
    (let s := tstGenFab (tstGen 6 [5, 7]) []
     s.runAt (s.regionTr 0) .both 0x100010 1 = .ok [(0x100010, 1)] ∧ s.poisoned 0x100010 1 = false) ∧
    (let el := { tstGen 1 [] with desc := .fetching }
     let s := tstGenFab el []
     s.genAt = some (0, tstCtx (tstArcs []) el, el) ∧ el.desc = .fetching ∧ el.stall = none ∧ (s.seq 0).frozen = false ∧
       s.fenced 0 (tstCtx (tstArcs []) el) 0 el false = false ∧ s.runAt (s.regionTr 0) .read el.cfg.descAddr 64 = .ok [(0x10000, 64)]) ∧
    (let el := tstGen 2 []
     let c := { tstCtx [⟨0, 0, 1600, 4, 1, [], [], true, [], none, 1, 0, []⟩] el with slot := 0 }
     let s := { tstGenFab el [] with ctxs := [(0, c)] }
     s.genAt = some (0, c, el) ∧ c.requested 0 = true ∧ el.wq = [] ∧ el.tile = none ∧ el.stall = none ∧
       el.passage = .open ∧ s.group (groupOf 0) ≠ .gated ∧ s.fenced 0 c 0 el false = false ∧
       (⟨0, 1, 0, 0, false⟩ : Walk).empty = false ∧
       s.readRuns (s.regionTr 0) (tileRuns tstDesc (walkAddr tstDesc ⟨0, 1, 0, 0, false⟩)) = .ok [(0x100010, 1)]) ∧
    (let w : ElWrite := ⟨[(0x100010, [7])], 0⟩
     let el := { tstGen 3 [5] with wq := [w] }
     let s := tstGenFab el []
     s.genAt = some (0, tstCtx (tstArcs []) el, el) ∧
       s.writeRuns (s.regionTr 0) (w.runs.map fun x => (x.1.toNat, x.2.length)) = .ok [(0x100010, 1)]) ∧
    (let w : ElWrite := ⟨[(0x40000000, [7])], 0⟩
     let el := { tstGen 3 [5] with wq := [w] }
     let s := tstGenFab el []
     s.genFault (tstCtx (tstArcs []) el) el = some (1, 0x40000000) ∧ s.partOf 0 = some 0 ∧ s.canMove 0 = true ∧
       s.pageFaults = [] ∧
       (let t := s.setGen 0 (tstCtx (tstArcs []) el) { el with stall := some 0x40000000 }
        let f : FaultRec := ⟨0, 5, 1, 0x40000000, 0, 0, 0, .elem 0 0⟩
        (t.enterFault true f).isSome = true ∧
          ({ t with parts := [(0, { t.part 0 with fqBase := 0x2000 })], mem := [(0x2007, 0x80)] } : State).enterFault true f = none)) := by
  simp only [exOk_iff]
  refine ⟨?_, ?_, ?_, ?_, ?_⟩ <;> decide +kernel

/-- CommitWritesRegistersAndStores: a FENCE with a write before it that is performed, and with one that is not, as a commit
begins and as it goes on. -/
theorem witness_commit_fence :
    (∀ wq ∈ [[], [(⟨[(0x100010, [7])], 0⟩ : ElWrite)]],
      let b := tstDoes [⟨1, 0, .fence 2 0xFF 0xFF⟩] []
      let s := tstArmed (tstAt 0 b) (tstCtx [] { tstGen 3 [5] with wq := wq })
      committing s 0 b tstGoes ∧ s.taskOf 0 = none ∧ ((s.issued 0).any fun i => s.unperformed 0xFF i) = !wq.isEmpty ∧
        (let t := { s with seqs := [(0, { s.seq 0 with cond := .commit b.mem [⟨0, 0, 1, 0⟩] })] }
         (t.seq 0).cond = .commit b.mem [⟨0, 0, 1, 0⟩] ∧ (t.seq 0).blocks = [b] ∧ quiet t 0 ∧
           (t.seq 0).waitDrain = false ∧ t.unperformed 0xFF ⟨0, 0, 1, 0⟩ = true)) ∧
    (let b := tstDoes [⟨1, 0, .fence 2 0xFF 0xFF⟩] []
     let s := tstArmed (tstAt 0 b) (tstCtx [] { tstGen 3 [5] with wdone := 1 })
     s.unperformed 0xFF ⟨0, 0, 1, 0⟩ = false) := by
  simp only [committing, quiet]
  refine ⟨?_, ?_⟩ <;> decide +kernel

/-- CommitExitsAndCalls: each command that a block may hold. -/
theorem witness_commit_command :
    (∀ eff ∈ [Eff.spush 3 7, .inj 0 0x20000, .bar 0x14001 [1], .flag 4 true [1], .tagf 63, .tagc 3, .depd 5 1, .depr 5 0,
        .cpch 3 0x80, .cpst 3, .cpab 3, .sysw 0x004 7, .sysw 0x007 7, .waited 1, .halt],
      let b := tstDoes [] [(0, eff)]
      let s := tstAt 0 b
      committing s 0 b tstGoes ∧ s.taskOf 0 = none ∧ b.wrgRegs [1] = [5]) ∧
    (let b := { tstDoes [] [] with words := [0x8500A003, 0x02050000], fired := [0, 1] }
     let s := { tstAt 0 b with regions := [(0, { Region.initial with egr := [(3, [9, 8])] })] }
     committing s 0 b tstGoes ∧ b.popped 3 = 1 ∧ (s.region 0).egr.getD 3 [] = [9, 8]) ∧
    (let c : CtxSlot := ⟨[], [], 0, 0, 0, 0x10000, 0, false⟩
     ∀ eff ∈ [Eff.cfgw 2 5 1 0, .cfga 2, .cfgl [(0, 2)]],
       let b := tstDoes [] [(0, eff)]
       let s := { tstAt 0 b with regions := [(0, { Region.initial with slots := [(2, c)] })] }
       committing s 0 b tstGoes ∧ s.loadedWith 0 2 = [0] ∧ (s.region 0).slots.find? 2 = some c) ∧
    (∀ x ∈ [(Eff.drain, 0x40), (.tcnt 0 5, 0x40), (.tcnt 0 5, 0x52)],
      let b := tstDoes [] [(0, x.1)]
      let el := tstEl 0 x.2 0 5 [5] [3]
      let s := tstArmed (tstAt 0 b) (tstCtx [] el)
      committing s 0 b tstGoes ∧ s.elemAt 0 0 = some (0, tstCtx [] el, el) ∧ el.cfg.uncounted = false ∧
        el.cfg.counts = (x.2 == 0x40) ∧ (s.region 0).armed = some 0 ∧ s.ctxs.find? 0 = some (tstCtx [] el)) ∧
    (∀ x ∈ [Chan.initial, { Chan.initial with mode := .run }, { Chan.initial with mode := .run, phase := .final 1 0 },
        { Chan.initial with mode := .run, phase := .units 0 }, { Chan.initial with mode := .stop },
        { Chan.initial with mode := .stop, data := [1] }],
      let b := tstDoes [] [(0, .cpab 3)]
      let s := { tstAt 0 b with chans := [(3, x)] }
      committing s 0 b tstGoes ∧ s.chan 3 = x) ∧
    (∀ st ∈ [TaskState.wait, .done],
      let b := tstDoes [] [(0, .depr 5 3)]
      let s := { tstAt 0 b with tasks := [(5, { Task.initial with state := st })] }
      committing s 0 b tstGoes ∧ s.taskOf 0 = none ∧ (s.task 5).state = st) := by
  simp only [committing, quiet]
  refine ⟨?_, ?_, ?_, ?_, ?_, ?_⟩ <;> decide +kernel

/-- HALT, and a flag whose previous value a WRG takes. -/
theorem test_commit_command :
    (match exec (.blockCommit 0) (tstAt 0 (tstDoes [] [(0, .halt)])) with
    | .next t => (t.seq 0).cond
    | _ => .idle) = .halted 0x2000 ∧
    (match exec (.blockCommit 0) { tstAt 0 (tstDoes [] [(0, .flag 4 false [1])]) with flags := [(4, true)] } with
    | .next t => ((t.seq 0).reg 5, t.flag 4)
    | _ => (0, true)) = (1, false) := by
  refine ⟨?_, ?_⟩ <;> decide +kernel

/-- FlowElements, first part: predicates that read true, read false and are poisoned; numbers at both sides of the last
output; each input in turn; LOOP and its start. -/
theorem witness_FlowElements_steering :
    (∀ m ∈ [0, 1, 2, 3], ∀ p ∈ [tstTok 5 1 1 [0], tstTok 5 1 1 [1], (tstTok 5 1 1 [1]).poison, tstTok 5 1 1 [0] false true],
      let el := tstEl 3 1 m 5 [5, 5] []
      let ins := [(0, tstTok 5 1 1 [9]), (1, p)]
      tstReady 3 1 el ins ∧ p.isData = true) ∧
    (∀ v ∈ [0, 3, 4, 255],
      let el := tstEl 3 2 0 5 [5, 5] []
      let ins := [(0, tstTok 5 1 1 [9]), (1, tstTok 5 1 1 [v])]
      tstReady 3 2 el ins ∧ (tstTok 5 1 1 [v]).first = some v ∧ (tstTok 5 1 1 [v]).psn = false) ∧
    tstReady 3 3 (tstEl 3 3 0 5 [5] []) [(0, tstTok 5 1 1 [9])] ∧
    (∀ p ∈ [0, 1], ∀ i ∈ [1, 2],
      tstReady 4 1 (tstEl 4 1 0 5 [5, 5, 5] []) [(0, tstTok 5 1 1 [p]), (i, tstTok 5 1 1 [9])]) ∧
    (∀ i ∈ [0, 3],
      let ins := [(i, tstTok 5 1 1 [9])]
      let el := tstEl 4 2 0 5 [5, 5, 5, 5] []
      tstReady 4 2 el ins ∧ ∀ k < 4, k = i ∨ vacant (tstFab el ins) (tstCtx (tstArcs ins) el) k) ∧
    (∀ i ∈ [0, 3],
      let ins := [(i, tstTok 5 1 1 [9])]
      let el := tstEl 4 3 0 5 [5, 5, 5, 5] []
      tstReady 4 3 el ins ∧ hChn (tstTok 5 1 1 [9]).hdr = el.chn ∧
        ∀ k < 4, k ≠ i → vacant (tstFab el ins) (tstCtx (tstArcs ins) el) k) := by
  simp only [tstReady, elemReady, arrives, roomOn, vacant]
  refine ⟨?_, ?_, ?_, ?_, ?_, ?_⟩ <;> decide +kernel

theorem witness_FlowElements_loops :
    (∀ b ∈ [true, false], ∀ p ∈ [0, 1], ∀ m ∈ [0, 4],
      let el := { tstEl 5 1 m 5 [5, 5, 5] [] with busy := b }
      tstReady 5 1 el [(0, tstTok 5 1 1 [9]), (1, tstTok 5 1 1 [p]), (2, tstTok 5 1 1 [8])]) ∧
    (∀ k ∈ [none, some (tstTok 5 1 1 [9])], ∀ p ∈ [0, 1],
      let el := { tstEl 5 2 0 5 [5, 5] [] with kept := k }
      tstReady 5 2 el [(0, tstTok 5 1 1 [9]), (1, tstTok 5 1 1 [p])]) ∧
    (readsTrue (tstCfg 5 1 0 [] [] []) (tstTok 5 1 1 [0] false true) → False) := by
  refine ⟨?_, ?_, ?_⟩
  · simp only [tstReady, elemReady, arrives, roomOn]
    decide +kernel
  · simp only [tstReady, elemReady, arrives, roomOn]
    decide +kernel
  · rintro ⟨-, h⟩
    revert h
    simp only [show (tstCfg 5 1 0 [] [] []).mode % 4 = 0 from rfl, if_true]
    rintro ⟨v, h, hv⟩
    exact hv (Option.some.inj ((show some 0 = some v from h)).symm ▸ rfl)

/-- FlowElements, second part: held messages at and before their last token and copy; counts of 0, 1 and more; CONST and
COUNT with and without an input; scale tokens; FAN. -/
theorem witness_FlowElements_streams :
    (∀ op ∈ [1, 2], ∀ k ∈ [2, 3], ∀ h ∈ [[tstTok 5 1 1 [9]], [tstTok 5 1 1 [9], tstTok 5 1 1 [8]]],
      let el := { tstEl 6 op 0 5 [5, 5] [4, 3] with busy := true, held := h, pos := k, cnt := 3 }
      tstReady 6 op el [] ∧ el.held[el.ptr]? = some (tstTok 5 1 1 [9])) ∧
    (∀ op ∈ [1, 2], ∀ n ∈ [0, 1, 2], ∀ l ∈ [false, true],
      let el := tstEl 6 op 0 5 [5, 5] [4, BitVec.ofNat 32 n]
      tstReady 6 op el [(0, tstTok 5 1 1 [9] l), (1, tstTok 5 1 1 [n])] ∧ (tstTok 5 1 1 [n]).first = some n ∧
        n = parNum el.cfg 1 ∧ 0 < parNum el.cfg 0 % 8 ∧ (tstTok 5 1 1 [9] l).ends = l ∧ el.busy = false ∧ el.flag = false) ∧
    (∀ op ∈ [1, 2], tstReady 6 op (tstEl 6 op 0 5 [5, 5] [4, 3]) [(0, tstXch)]) ∧
    (∀ op ∈ [3, 4], tstReady 6 op (tstEl 6 op 0 5 [5] [7, 1, 2, 0x200]) [(0, tstTok 5 1 1 [9])] ∧
      tstReady 6 op (tstEl 6 op 0 5 [] [7, 1, 2, 0x200]) [] ∧ (tstEl 6 op 0 5 [5] []).cfg.uses 0 = true ∧
      (tstEl 6 op 0 5 [] [7, 1, 2, 0x200]).cfg.uses 0 = false ∧ parNum (tstEl 6 op 0 5 [] [7, 1, 2, 0x200]).cfg 2 = 2) ∧
    (∀ k ∈ [1, 2], ∀ op ∈ [1, 3],
      let x := tstTok 0x10 1 32 (List.replicate 32 0)
      let y := tstTok 5 1 k (List.replicate k 0x7F)
      tstReady 7 op (tstEl 7 op 0 0x10 [0x10, 5] []) [(0, x), (1, y)] ∧
        tstTiles (tstEl 7 op 0 0x10 [0x10, 5] []) [(0, x)] ∧ (k = 1 ↔ 0 + x.rows = y.codes.length) ∧
        0 + x.rows ≤ y.codes.length) ∧
    (let x := tstTok 0x10 1 32 (List.replicate 32 0)
     tstReady 7 2 (tstEl 7 2 0 0x10 [0x10] []) [(0, x)] ∧ tstTiles (tstEl 7 2 0 0x10 [0x10] []) [(0, x)]) ∧
    (tstReady 9 2 (tstEl 9 2 0 5 [5] [] [1, 2, 3]) [(0, tstTok 5 1 1 [9])] ∧ (tstTok 5 1 1 [9]).closed = false ∧
      (tstEl 9 2 0 5 [5] [] [1, 2, 3]).cfg.outputs = [0, 1, 2]) := by
  simp only [tstReady, tstTiles, elemReady, arrives, roomOn, plainTok]
  refine ⟨?_, ?_, ?_, ?_, ?_, ?_, ?_⟩ <;> decide +kernel

/-- FlowElements: MERGEC with the awaited token at two inputs, with tokens that run ahead where one input is vacant and
where none is, and with stale ones; a bubble selector; messages within their length and over it. -/
theorem witness_FlowElements_choices :
    (let y := (tstTok 5 1 1 [9]).withHdr (hSetChn (tstTok 5 1 1 [9]).hdr 5)
     ∀ e ∈ [(5, [(0, y), (2, y)]), (3, [(0, y)]), (3, [(0, y), (1, y), (2, y), (3, y)]), (7, [(0, y), (1, y), (2, y), (3, y)])],
       let el := { tstEl 4 3 0 5 [5, 5, 5, 5] [] with chn := e.1 }
       let c := tstCtx (tstArcs e.2) el
       tstReady 4 3 el e.2 ∧ el.cfg.inputs = [0, 1, 2, 3] ∧ (∀ it ∈ e.2, it.2.isData = true) ∧
         (∀ i < 4, i ∈ e.2.map (·.1) ∨ vacant (tstFab el e.2) c i) ∧
         (hChn y.hdr + 2 ^ 24 - el.chn % 2 ^ 24) % 2 ^ 24 = (5 + 2 ^ 24 - e.1) % 2 ^ 24) ∧
    (let el := tstEl 3 2 0 5 [5, 5] []
     let p := bubble (hData 5 1 1 0 0 false)
     tstReady 3 2 el [(0, tstTok 5 1 1 [9]), (1, p)] ∧ p.psn = false ∧ p.bub = true) ∧
    (∀ op ∈ [1, 2], ∀ h ∈ [[tstTok 5 1 1 [9]], List.replicate 4 (tstTok 5 1 1 [9])], ∀ l ∈ [false, true],
      let el := { tstEl 6 op 0 5 [5, 5] [4, 3] with flag := true, held := h, cnt := 3 }
      tstReady 6 op el [(0, tstTok 5 1 1 [8] l)] ∧ (tstTok 5 1 1 [8] l).ends = l ∧ 1 ≤ el.cnt ∧ parNum el.cfg 0 % 8 = 4) := by
  simp only [tstReady, elemReady, arrives, roomOn, vacant]
  refine ⟨?_, ?_, ?_⟩ <;> decide +kernel

/-- Of two late tokens and one ahead, MERGEC takes the token that is nearest ahead; a token behind is stale (R68). -/
theorem test_mergec :
    (let t (n : Nat) := (tstTok 5 1 1 [n]).withHdr (hSetChn (tstTok 5 1 1 [n]).hdr n)
     (tstOut (exec .mergec (tstFab { tstEl 4 3 0 5 [5, 5, 5] [] with chn := 4 } [(0, t 9), (1, t 6), (2, t 7)])) 0,
       (tstHdrs (exec .mergec (tstFab { tstEl 4 3 0 5 [5] [] with chn := 9 } [(0, t 4)]))).map hPsn)) =
      ([[6]], [true]) := by decide +kernel

/-- STEER on a true predicate, MERGE on a false one, REPEAT of a one-token message twice, COUNT's first two. -/
theorem test_steer : tstOut (exec .steer (tstFab (tstEl 3 1 0 5 [5, 5] []) [(0, tstTok 5 1 1 [9]), (1, tstTok 5 1 1 [1])])) 1 =
    [[9]] := by decide +kernel
theorem test_merge : tstOut (exec .merge (tstFab (tstEl 4 1 0 5 [5, 5, 5] [])
    [(0, tstTok 5 1 1 [0]), (1, tstTok 5 1 1 [7]), (2, tstTok 5 1 1 [8])])) 0 = [[7]] := by decide +kernel
theorem test_count : tstOut (exec .count (tstFab { tstEl 6 4 0 5 [] [7, 0xFFFFFFFF] with cnt := 3 } [])) 0 = [[4]] := by
  decide +kernel
theorem test_fan : (let o := exec .fan (tstFab (tstEl 9 2 0 5 [5] [] [1, 2]) [(0, tstTok 5 1 1 [9])])
    (tstOut o 0, tstOut o 1, tstOut o 2)) = ([[9]], [[9]], []) := by decide +kernel

/-- A stream buffer of region 0 with one message of one token. -/
def tstBuf (egr ingr : Option Nat) : SBuf where
  base := 0
  cap := 64
  head := 0
  occ := 16
  toks := [tstTok 5 1 1 [9] true]
  ready := 1
  popped := 0
  taken := 0
  skipping := false
  owner := none
  egr := egr
  ingr := ingr

def tstInqCtx : Ctx :=
  { tstCtx (tstArcs []) (tstEl 10 3 0 5 [] [2]) with elems := [(48, tstEl 10 3 0 5 [] [2])], arcs := [] }

/-- Region 0 with an INGRQ at site 48 and one entry in its queue. -/
def tstInq (inj : Bool) (v : Word) : State := { State.reset with
  ctxs := [(0, tstInqCtx)], site := ⟨0, 48⟩
  regions := [(0, { Region.initial with armed := some 0, ing := [(0, [(inj, v)])] })] }

/-- A flag node of an immediate flag, and one whose flag comes from its token. -/
theorem witness_PortsAndFlagNodes :
    ((tstInq false 0x1FF).site.s / 12 - 4 = 0 ∧
      (let s := tstInq false 0x1FF
       elemReady s 10 3 0 tstInqCtx (tstEl 10 3 0 5 [] [2]) ∧ (s.region 0).ing.getD 0 [] = [(false, 0x1FF)] ∧
         roomOn s tstInqCtx 0) ∧
      (let s := tstInq true 0x20000
       elemReady s 10 3 0 tstInqCtx (tstEl 10 3 0 5 [] [2]) ∧ (s.region 0).ing.getD 0 [] = [(true, 0x20000)] ∧
         roomOn s tstInqCtx 0) ∧
      (let s := tstInq true 0x10000000
       elemReady s 10 3 0 tstInqCtx (tstEl 10 3 0 5 [] [2]) ∧ (s.region 0).ing.getD 0 [] = [(true, 0x10000000)] ∧
         roomOn s tstInqCtx 0)) ∧
    (∀ m ∈ [0, 1, 2],
      let x := tstTok 1 1 1 [0x80]
      let el := tstEl 10 4 m 5 [1] [] []
      tstReady 10 4 el [(0, x)] ∧ x.codes = [0x80] ∧ x.bub = false ∧
        ((tstFab el []).region 0).egr.getD 0 [] = [] ∧ (List.replicate 6 (0 : Word)).length + 2 ≤ 8) ∧
    (let el := tstEl 10 1 0 5 [] [0]
     let s := { tstFab el [] with sbufs := [(0, tstBuf none (some 0))] }
     elemReady s 10 1 0 (tstCtx (tstArcs []) el) el ∧ s.bufferFor 0 el.cfg.handle = some (tstBuf none (some 0)) ∧
       (tstBuf none (some 0)).ingr = some (siteKey 0 0) ∧ ((tstBuf none (some 0)).pop).isSome = true ∧
       roomOn s (tstCtx (tstArcs []) el) 0 ∧ s.ringBad 0 (tstBuf none (some 0)) (tstTok 5 1 1 [9] true) = false) ∧
    (let el := tstEl 10 2 0 5 [5] [0] []
     let x := tstTok 5 1 1 [8]
     let c := tstCtx (tstArcs [(0, x)]) el
     let s := { tstFab el [(0, x)] with sbufs := [(0, tstBuf (some 0) none)] }
     elemReady s 10 2 0 c el ∧ holdsData s c el 0 x ∧ el.cfg.handle.testBit 31 = false ∧
       s.bufferFor 0 el.cfg.handle = some (tstBuf (some 0) none) ∧ (tstBuf (some 0) none).egr = some (siteKey 0 0) ∧
       (match (tstBuf (some 0) none).push x with | .done _ _ none => true | _ => false) = true) ∧
    (∀ op ∈ [1, 2, 3, 4, 5], ∀ m ∈ [0, 2, 4], ∀ w ∈ [none, some true],
      let x := tstTok 5 1 1 [3]
      let el := { tstEl 11 op m 5 [5] [7] with waited := w }
      tstReady 11 op el [(0, x)] ∧ x.isData = true ∧ x.first ≠ none ∧
        ((tstFab el []).flag 7 = decide (el.cfg.mode / 4 % 2 = 0) ∨ m ≠ 4)) := by
  simp only [tstReady, elemReady, arrives, roomOn, holdsData]
  refine ⟨?_, ?_, ?_, ?_, ?_⟩ <;> decide +kernel

theorem test_flset :
    (match exec .flset (tstFab (tstEl 11 1 2 5 [5] [0xFFF]) [(0, tstTok 5 1 1 [3])]) with
    | .next t => (t.flag 2, t.flag 0xFFF)
    | _ => (false, true)) = (true, false) := by decide +kernel

/-- PortsAndFlagNodes: a bubble at a flag node whose flag comes from its token. -/
theorem witness_flag_bubble :
    ∀ op ∈ [1, 2, 3, 4, 5],
      let x := bubble (hData 5 1 2 0 0 false)
      let el := tstEl 11 op 2 5 [5] [7]
      tstReady 11 op el [(0, x)] ∧ x.isData = true ∧ x.bub = true ∧ el.waited = none ∧ el.cfg.mode / 2 % 2 = 1 := by
  simp only [tstReady, elemReady, arrives, roomOn]
  decide +kernel

/-- TokensAndControlTokensPass: a token on its way behind one that is visible, a request on its way; a stray XCH and a
stray request; a token to be parked; WEIR and SLUICE from an ingress element, SLUICE through one input and two. -/
theorem witness_tokens_pass :
    (let f : Flying := ⟨tstTok 5 1 1 [9], true, 0⟩
     let g : Flying := ⟨tstTok 5 1 1 [8], false, 0⟩
     let a : Arc := ⟨1600, 0, 2, 4, 1, [], [], true, [f, g], none, 0, 1, []⟩
     let el := tstEl 3 3 0 5 [5, 5, 5] []
     let c := tstCtx [a] el
     let s := tstArmed State.reset c
     (s.region 0).armed = some 0 ∧ s.ctxs.find? 0 = some c ∧ c.arcTo (0 * 384 + 2) = some a ∧
       a.toks = [f] ++ g :: [] ∧ (∀ h ∈ [f], h.vis = true) ∧ g.vis = false ∧ (∀ r ∈ a.src / 384 :: a.dst / 384 :: a.via, (s.seq r).frozen = false) ∧
       (∀ q ∈ c.regions, (s.seq q).hen = false ∧ (s.seq q).heldPrev = 0) ∧ a.reqFly ≠ 0 ∧ s.canMove 0 = true) ∧
    (∀ x ∈ [tstXch, ctlTok (hControl 4 0 0 false)],
      let el := tstEl 3 3 0 5 [5] []
      let s := tstFab el [(0, x)]
      let c := tstCtx (tstArcs [(0, x)]) el
      s.elemAt 0 0 = some (0, c, el) ∧ s.headOf c 0 0 = some x ∧ s.canMove 0 = true ∧
        (x.kind = .xch ∧ takesXch el.cfg 0 = false ∨ x.kind = .req ∧ takesReq el.cfg = false)) ∧
    (let x := tstTok 5 1 1 [9]
     let y := ctlTok (hControl 3 0 0 false)
     let el := tstEl 0 1 0 5 [5, 5] []
     let c := { tstCtx (tstArcs [(0, x), (1, y)]) el with mode := .save }
     let s := tstArmed State.reset c
     s.elemAt 0 0 = some (0, c, el) ∧ s.headOf c 0 0 = some x ∧ c.mode = .save ∧ el.passage = .open ∧ x.closed = false ∧
       (∀ a ∈ c.arcs, a.back = []) ∧ el.park.length < 8 ∧ el.cfg.uses 0 = true ∧ el.cfg.uses 1 = true ∧ s.headOf c 0 1 = some y ∧ y.kind = .sluice ∧
       1 ∈ el.needs (fun k => if el.cfg.uses k then s.headOf c 0 k else none) 0) := by
  refine ⟨?_, ?_, ?_⟩ <;> decide +kernel

theorem witness_control_tokens_pass :
    (∀ m ∈ [CtxMode.drain, .save],
      let el := tstEl 6 3 0 5 [] [7]
      let c := { tstCtx (tstArcs []) el with mode := m }
      let s := tstArmed State.reset c
      s.elemAt 0 0 = some (0, c, el) ∧ s.canMove 0 = true ∧ el.passage = .open ∧ el.owes = false ∧ el.hasPorts = true ∧
        (∀ o ∈ el.cfg.outputs, roomOn s c o) ∧ ¬ (el.cfg.kind = 5 ∧ el.cfg.op = 1) ∧ el.cfg.ingress = true ∧
        c.mode = m ∧ el.closing .drain = true) ∧
    (∀ n ∈ [1, 2],
      let x := ctlTok (hControl 3 0 0 false)
      let ins := (List.range n).map fun i => (i, x)
      let el := tstEl 0 1 0 5 (List.replicate n 5) []
      let s := tstFab el ins
      let c := tstCtx (tstArcs ins) el
      s.elemAt 0 0 = some (0, c, el) ∧ el.cfg.ingress = false ∧ el.cfg.inputs = List.range n ∧ x.kind = .sluice ∧
        (∀ j ∈ List.range n, s.headOf c 0 j = some x) ∧ x.closed = true) := by
  simp only [roomOn]
  refine ⟨?_, ?_⟩ <;> decide +kernel

/-- TokensAndControlTokensPass: CARRY with control tokens on i0 and i1, and then with one, and with data, on i2; a WEIR, and
one with a malformed header, at an element that is no ingress element. -/
theorem witness_CARRY_passes :
    (let w := ctlTok (hControl 2 0 0 false)
     let bad := ctlTok (putBit (hControl 2 0 0 false) 26 true)
     (∀ x ∈ [w, bad],
       let el := tstEl 5 1 0 5 [5, 5, 5] []
       let ins := [(0, x), (1, w)]
       let s := tstFab el ins
       let c := tstCtx (tstArcs ins) el
       s.elemAt 0 0 = some (0, c, el) ∧ s.canMove 0 = true ∧ el.owes = false ∧ el.hasPorts = true ∧ el.passage = .open ∧
         (∀ o ∈ el.cfg.outputs, roomOn s c o) ∧ el.cfg.inputs = [0, 1, 2] ∧ s.headOf c 0 0 = some x ∧ x.closed = true ∧
         s.headOf c 0 1 = some w ∧ w.closed = true ∧ malformed el.cfg 0 x = (x == bad)) ∧
     (∀ x ∈ [w, tstTok 5 1 1 [9]],
       let el := { tstEl 5 1 0 5 [5, 5, 5] [] with passage := .half }
       let c := { tstCtx (tstArcs [(2, x)]) el with mode := .drain }
       let s := tstArmed State.reset c
       s.elemAt 0 0 = some (0, c, el) ∧ s.headOf c 0 2 = some x ∧ el.passage = .half ∧ 2 ∈ el.cfg.inputs ∧
         c.mode = .drain ∧ x.closed = !x.isData) ∧
     (∀ x ∈ [w, bad],
       let el := tstEl 0 1 0 5 [5, 5] []
       let s := tstFab el [(0, x), (1, w)]
       let c := tstCtx (tstArcs [(0, x), (1, w)]) el
       s.elemAt 0 0 = some (0, c, el) ∧ el.cfg.ingress = false ∧ el.cfg.inputs = [0, 1] ∧ s.headOf c 0 0 = some x ∧
         s.headOf c 0 1 = some w ∧ x.closed = true ∧ x.kind = .weir)) := by
  simp only [roomOn]
  refine ⟨?_, ?_, ?_⟩ <;> decide +kernel

/-! ## Registers, contexts, groups and power -/

/-- Some value is answered. -/
theorem exOk_some {ε α : Type} (x : Except ε α) : (∃ a, x = .ok a) ↔ (exOk x).isSome = true := by
  cases x <;> simp [exOk]

/-- ControlRegisterWrites, RunAheadAndDebugHalts: a halt point that withholds a token, a frozen region with a context, a
region past its timeout, and the two commands of rg.hangctl. -/
theorem witness_ControlRegisterWrites :
    (let f : Flying := ⟨tstTok 5 1 1 [9], true, 0⟩
     let a : Arc := ⟨1600, 0, 1, 4, 1, [], [], false, [f], none, 0, 0, []⟩
     let c := tstCtx [a] (tstEl 0 1 0 5 [5, 5] [])
     let s := { tstArmed State.reset c with seqs := [(0, { Seq.initial with hen := true, halts := [(3, 0x80000080)] })] }
     (s.seq 0).hen = true ∧ (s.halt 0 ((3 : Word).toNat % 16)).getLsbD 31 = true ∧ (s.region 0).armed = some 0 ∧
       s.ctxs.find? 0 = some c ∧ 0 ∈ c.regions ∧ c.arcs[0]? = some a ∧ haltCovers (s.halt 0 3) 0 a = true ∧
       s.holds a = [relBit 0 3 a] ∧ a.relReg = none ∧ f.vis = true ∧ f.rel = 0) ∧
    ((0x100 : Word).toNat / 256 % 4 = 1 ∧ (0x200 : Word).toNat / 256 % 4 = 2) ∧
    (let c := tstCtx [] (tstEl 0 1 0 5 [5, 5] [])
     let s := { tstArmed State.reset c with seqs := [(0, { Seq.initial with frozen := true })] }
     (s.seq 0).frozen = true ∧ (s.region 0).armed = some 0 ∧ s.ctxs.find? 0 = some c) ∧
    (let s := { tstFab (tstEl 0 1 0 5 [5, 5] []) [(0, tstTok 5 1 1 [9])] with
        now := 2000000, seqs := [(0, { Seq.initial with cond := .held 0x2000 })] }
     s.hung 0 = true ∧ s.taskOf 0 = none ∧ (s.seq 0).hangTrap = true ∧ (s.seq 0).tm = false ∧
       (s.seq 0).resumeAt = some 0x2000) ∧
    ((0 : Word) - 0).toNat ≤ ((0 : BitVec 32) - 0).toNat ∧ (0 : Nat) < 1 := by
  refine ⟨?_, ?_, ?_, ?_, ?_⟩ <;> decide +kernel

theorem test_flog_rd : (match exec (.flogRdWrite 0 5) { State.reset with seqs := [(0, { Seq.initial with flogW := 3 })] } with
    | .next t => (t.seq 0).flogR
    | _ => 9) = 3 := by decide +kernel

/-- ContextsAndArrivals: an arming whose regions are free, alone, and before a later one of its region; a drained context;
a phase that is over, with a predicate network and without; an arrival at a barrier whose owner is awake and gated. -/
theorem witness_ContextsAndArrivals :
    (let x : CtxSlot := ⟨[], [], 0, 0, 0, 0, 0, false⟩
     let a : Arming := ⟨0, 2, [0], none⟩
     let s := { State.reset with armings := [a], regions := [(0, { Region.initial with slots := [(2, x)] })] }
     s.armings[0]? = some a ∧ (∀ r ∈ a.regions, (s.region r).armed = none) ∧
       (s.region 0).slots.find? a.slot = some x ∧ x.marked = false ∧ s.armings.eraseIdx 0 = [] ∧
       (∃ b ∈ [a, a].eraseIdx 0, ∃ r ∈ b.regions, r ∈ a.regions)) ∧
    (let c := { tstCtx [] { tstEl 3 3 0 5 [5] [] [] with passage := .passed } with mode := .drain }
     let s := tstArmed State.reset c
     s.ctxs.find? 0 = some c ∧ (∀ r ∈ c.regions, (s.seq r).frozen = false) ∧ c.closedOut = true) ∧
    (let c := tstCtx [] { tstEl 3 3 0 5 [5] [] [] with lsSeen := true }
     let s := tstArmed State.reset c
     let p := { s with regions := [(0, { Region.initial with armed := some 0, pred := 0x103000000 })] }
     c.mode = .run ∧ c.ended = false ∧ c.phaseOver = true ∧ (∀ r ∈ c.regions, s.predicted r = none) ∧
       p.predicted 0 = some 3 ∧ (∀ ke ∈ c.elems, ke.2.wq = []) ∧ (p.region 0).slots.find? 3 = none) ∧
    (∀ n ∈ [0x4000, 0x14000],
      let h := BitVec.ofNat 64 n
      let s := { State.reset with arrivals := [⟨h, 0, [5], true⟩] }
      s.arrivals[0]? = some ⟨h, 0, [5], true⟩ ∧ (s.barrier h).arr = 0 ∧ s.barAwake h = true ∧
        ({ s with groups := [(0, .gated)] } : State).barAwake h = false) := by
  refine ⟨?_, ?_, ?_, ?_⟩ <;> decide +kernel

/-- The second of two arrivals passes the barrier, and counts in the old generation (R281). -/
theorem test_barrier_arrival :
    (match exec (.barrierArrival 0) { State.reset with
        arrivals := [⟨0x14000, 3, [5], true⟩], regions := [(0, { Region.initial with bars := [(0, ⟨7, 1, 2⟩)] })] } with
    | .next t => (t.barrier 0x14000, (t.seq 3).reg 5)
    | _ => (⟨0, 0, 0⟩, 0)) = (⟨8, 0, 2⟩, 7) := by decide +kernel

/-- Of two arrivals of one block the lower instruction's comes first, and then the other may come (R271). -/
theorem test_arrivals_in_order :
    let s := { State.reset with arrivals := [⟨0x14000, 0, [], true⟩, ⟨0x14001, 0, [], false⟩] }
    (s.barAwake 0x14000 = true ∧ s.arrivals[1]? = some ⟨0x14001, 0, [], false⟩) ∧
    (match exec (.barrierArrival 0) s with
    | .next t => t.arrivals
    | _ => []) = [⟨0x14001, 0, [], true⟩] := by decide +kernel

/-- RegionGroups: a request accepted in each state, a wake, requests while one is busy, and each completion. -/
theorem witness_RegionGroups :
    let g := fun (x : GroupState) => { State.reset with groups := [(23, x)] }
    ((g .quiet).busy = false ∧ (∀ op ∈ [0, 1, 2, 3, 4], let v := BitVec.ofNat 64 (0x1D + 256 * op)
        reqBad v = false ∧ reqOp v = op ∧ reqGroup v = 23)) ∧
    ((g .pool).group 23 = .pool ∧ (g .quiet).group 23 = .quiet ∧ (g .retained).group 23 = .retained ∧
      (g .quiet).crossed 23 = false ∧ areaBase (g .quiet).svc.retsave + 0x1040000 ≤ 0x6000000000) ∧
    (wakeBad 0x1D = false ∧ (g .gated).group (reqGroup 0x1D) = .gated) ∧
    ({ g .quiet with svc := { Service.initial with grpack := 0x10300 } }.busy = true) ∧
    ((g .quiescing).group 23 = .quiescing ∧ (g .quiescing).groupFree 23 = true) ∧
    ((g .retaining).group 23 = .retaining ∧ (g .retaining).retainFails 23 = false ∧
      (let s := { g .retaining with
        svc := { Service.initial with wakeArea := 1 }, poison := [(0x8018000000 / 64 - 1, true)] }
       s.group 23 = .retaining ∧ s.retainFails 23 = true)) ∧
    (let s := { g .quiet with svc := { Service.initial with grpack := 0x10300, grpreq := 0x31D } }
     s.busy = true ∧ bitsOf s.svc.grpack 8 3 = 3 ∧ reqGroup s.svc.grpreq = 23) ∧
    (let s := { g .quiet with svc := { Service.initial with grpack := 0x10400, grpreq := 0x41D } }
     s.timeHeld = false ∧ s.busy = true ∧ bitsOf s.svc.grpack 8 3 = 4 ∧ reqGroup s.svc.grpreq = 23) ∧
    ((g .waking).group 23 = .waking ∧ (g .waking).svc.wakeArea.getLsbD 0 = false) := by decide +kernel

/-- A partition record of regions 0 to 23 at address 0, and what reading it gives. -/
def tstPartMem : List Host.Cell := [(1, 0x40), (8, 0xFF), (9, 0xFF), (10, 0xFF), (48, 1)]

/-- PowerRegistersAndControl: codes and caps at the ends of their ranges, a region out of the pool, counters of each
kind, a supply on its way up and down, a hold and its two releases, idle regions, a record that may be loaded. -/
theorem witness_PowerRegistersAndControl :
    (∀ n ∈ [0, 0x05F, 0xE00], bitsOf (BitVec.ofNat 64 n) 0 7 < 96 ∧ bitsOf (BitVec.ofNat 64 n) 8 4 ≠ 15) ∧
    (({ State.reset with groups := [(0, .quiet)] } : State).group (groupOf 0) ≠ .pool ∧
      State.reset.group (groupOf 95) = .pool) ∧
    (State.reset.counter = some 0 ∧
      ({ State.reset with svc := { Service.initial with esel := 0x500 } } : State).counter = some (5 * 128)) ∧
    (∀ a ∈ [7, 9], let s := { State.reset with regions := [(0, { Region.initial with slewing := some a })] }
      (s.region 0).slewing = some a ∧ a ≠ (s.region 0).vcur) ∧
    ((State.reset.region 0).millpond = none ∧ 69 < 70 ∧
      (let s := { State.reset with now := 1500, regions := [(0, { Region.initial with millpond := some 0 })] }
       (s.region 0).millpond = some 0 ∧ 0 + 1500 ≤ s.now)) ∧
    (let s := { State.reset with regions := [(0, { Region.initial with idleSince := none, idleHist := [3601] })] }
     (s.region 0).gated = false ∧ (s.region 0).idleSince = none ∧ s.regionIdle 0 = true ∧ s.group (groupOf 0) = .pool ∧
       3600 * (s.region 0).idleHist.length < ((s.region 0).idleHist.map fun n => min n 65536).sum ∧ s.wakeDue 0 = false) ∧
    (let s := { State.reset with roused := [0], regions := [(0, { Region.initial with gated := true })] }
     (s.region 0).gated = true ∧ 0 ∈ s.roused) ∧
    (State.reset.timeHeld = false ∧
      ({ State.reset with regions := [(0, { Region.initial with idleSince := none, idleHist := [3601] })] } : State).timeHeld =
        true) ∧
    (let s := { State.reset with now := 1000 }
     s.svc.nextMeasure ≤ s.now) := by
  refine ⟨?_, ?_, ?_, ?_, ?_, ?_, ?_, ?_, ?_⟩ <;> decide +kernel

/-- PowerRegistersAndControl: the anchor of a resident task has SEN = 1. -/
theorem witness_staticEnergyTick :
    let s := { State.reset with
      tasks := [(5, { Task.initial with state := .run, anchor := 3, regions := [3] })]
      seqs := [(3, { Seq.initial with senOn := true })] }
    s.timeHeld = false ∧ (s.seq 3).senOn = true ∧
      (s.tasks.filter fun kt => kt.2.resident && kt.2.anchor == 3) =
        [(5, { Task.initial with state := .run, anchor := 3, regions := [3] })] := by decide +kernel

/-- PowerRegistersAndControl: sums of samples below 95 % of the cap, between it and the cap, and above the cap. -/
theorem witness_power_samples :
    let c := State.reset.svc.cap * 1000
    (([1] : List Nat).sum ≤ c * 1) ∧ (c * 95 ≤ [c].sum * 100 ∧ [c].sum ≤ c) ∧ c < [c + 1].sum ∧
      State.reset.svc.coll.getLsbD 31 = false ∧ (∀ p < 8, (State.reset.part p).regions = []) := by decide +kernel

theorem witness_partition_load :
    let s := { State.reset with mem := tstPartMem }
    ∃ bs u, s.readAt s.physTr (s.svc.partBase.toNat + 64 * 0) 64 = .ok (bs, u) ∧
      partBad (bytesToWords bs) = false ∧ (partFrom (bytesToWords bs) 0 []).valid = true ∧
      (u.part 0).valid = false ∧
      (((List.range 96).filter fun g => (u.part 0).regions.contains g !=
        (partFrom (bytesToWords bs) 0 []).regions.contains g).any u.regionHeld) = false ∧
      (∀ k < 8, k ≠ 0 → ∀ g ∈ (partFrom (bytesToWords bs) 0 []).regions, g ∉ (u.part k).regions) ∧
      u.floorsBut 0 + (partFrom (bytesToWords bs) 0 []).floor ≤ u.svc.cap := by
  refine ⟨_, _, rfl, ?_⟩
  decide +kernel

theorem test_slew : (match exec (.voltageSlew 0) { State.reset with
      regions := [(0, { Region.initial with vcur := 12, slewing := some 8 })] } with
    | .next t => ((t.region 0).slewing, (t.region 0).vcur)
    | _ => (none, 0)) = (some 9, 12) := by decide +kernel

/-! ## Tasks -/

/-- Task 5 of die 0 of a record of priority p, with a save area, in a state, on region 0. -/
def tstTask (st : TaskState) (w2 : Nat) : Task :=
  { Task.initial with
    state := st, regions := [0], anchor := 0
    record := [0x2000, 0, BitVec.ofNat 64 w2, 0, 0, 0x100000, 0, 0] }
def tstTasks (ts : Tab Task) : State := { tstMapped State.reset with tasks := ts }

/-- TasksRunAndEnd: a task allocated with a count and with none; a faulted one; each state that may be released; one to
be launched; one that has ended; one that faults in either way. -/
theorem witness_TasksRunAndEnd :
    ((∃ a, (tstTasks []).readTaskRec 5 = .ok a) ∧ ((tstTasks []).task 5).state = .free) ∧
    (((tstTasks [(5, tstTask .faulted 0)]).task 5).state = .faulted ∧ (tstTasks []).taskRec 5 % 64 = 0 ∧
      (tstTasks []).taskRec 5 + 64 ≤ 0x6000000000) ∧
    (∀ st ∈ [TaskState.wait, .ready, .done, .faulted], ((tstTasks [(5, tstTask st 0)]).task 5).state = st) ∧
    (let s := tstTasks [(5, { tstTask .ready 0 with regions := [] })]
     (match s.chosen 0 with | some (.launch u _ _) => u == 5 | _ => false) = true) ∧
    (let s := tstTasks [(5, tstTask .launch 0)]
     (s.task 5).state = .launch ∧ (match s.launchImage 5 with | .ok _ => true | _ => false) = true ∧
       (match s.staging 5 with | .ok _ _ => true | _ => false) = true) ∧
    (let s := { tstTasks [(5, tstTask .run 0)] with seqs := [(0, { Seq.initial with cond := .halted 0x2000 })] }
     (s.task 5).state = .run ∧ (s.task 5).toFault = false ∧ (s.seq 0).cond.isHalted = true ∧ (s.task 5).chain = 0 ∧
       (s.task 5).stages = [] ∧ s.taskCtxs 5 = [] ∧ s.taskArming 5 = false ∧
       ∀ r ∈ (s.task 5).regions, (s.seq r).committing = false) ∧
    (let s := { tstTasks [(5, tstTask .run 0)] with seqs := [(0, { Seq.initial with cond := .stopped })] }
     s.stoppedThread 5 = some 0) ∧
    ({ tstTask .run 0 with toFault := true }.toFault = true) := by
  simp only [exOk_some]
  refine ⟨?_, ?_, ?_, ?_, ?_, ?_, ?_, ?_⟩ <;> decide +kernel

/-- TasksRunAndEnd: a faulted task whose context stands in a frozen region. -/
theorem witness_frozen_fault :
    let c := { tstCtx [] (tstEl 3 3 0 5 [5] []) with task := some 5 }
    let s := { tstArmed (tstTasks [(5, { tstTask .run 0 with toFault := true })]) c with
      seqs := [(0, { Seq.initial with frozen := true })] }
    (s.task 5).state = .run ∧ (s.task 5).toFault = true ∧ s.taskCtxs 5 = [0] ∧ s.ctxs.find? 0 = some c ∧
      s.anyFrozen c.regions = true ∧ s.taskArming 5 = false ∧ (∀ r ∈ (s.task 5).regions, (s.seq r).committing = false) := by
  decide +kernel

/-- Preemption: a grace that is over while a commit waits in a FENCE. -/
theorem witness_committing_grace :
    let s := { tstTasks [(5, { tstTask .run 0 with grace := some 5 })] with
      now := 5, seqs := [(0, { Seq.initial with cond := .commit [⟨0, 0, .fence 2 1 1⟩] [] })] }
    (s.task 5).state = .run ∧ (s.task 5).grace = some 5 ∧ 5 ≤ s.now ∧ (s.seq 0).committing = true := by decide +kernel

/-- Preemption: a task that may be pre-empted, with PTRAP and without; a grace that is over; a victim below a waiting
task; a save whose contexts have closed; a saved task on free regions; images that can be read back. -/
theorem witness_Preemption :
    (∀ w ∈ [0, 2 ^ 26],
      let x := { tstTask .run w with preempt := some 1 }
      x.preemptible = true ∧ x.grace = none ∧ x.ptrap = decide (w = 2 ^ 26) ∧ x.preempt = some 1) ∧
    (let x := { tstTask .run 0 with grace := some 5 }
     x.state = .run ∧ x.grace = some 5 ∧ 5 ≤ ({ State.reset with now := 5 } : State).now) ∧
    (let all := { tstTask .run 0 with regions := List.range 24 }
     let u := { tstTask .ready (2 ^ 16) with regions := [] }
     let s := tstTasks [(5, all), (6, u)]
     (∀ kt ∈ s.tasks, ∀ r ∈ kt.2.regions, s.group (groupOf r) ≠ .quiescing) ∧ s.waiting 0 = [6] ∧ s.unplaced 6 = true ∧
       s.makingRoom 0 (s.task 6).part = false ∧ s.victim 0 (s.task 6).part (s.task 6).prio = some 5 ∧
       (s.task 5).preemptible = true ∧ (s.task 5).preempt = none ∧ (s.task 5).grace = none) ∧
    (let v : Saved := ⟨[0], [], [(0, Seq.initial)], [], [], none, false, []⟩
     let s := tstTasks [(5, { tstTask .saved 0 with regions := [], saved := some v })]
     (match s.chosen 0 with | some (.resume u) => u == 5 | _ => false) = true ∧ v.seqs.has 0 = true ∧
       (sortNat v.regions)[0]? = some 0 ∧
       (match s.readAt (s.walkTr 5) ((s.task 5).imageAddr 0) 0x1000 with | .ok _ => true | .error _ => false) = true) := by
  refine ⟨?_, ?_, ?_, ?_⟩ <;> decide +kernel
/-! ## Saves, stages, the pager and errors -/

/-- Preemption: a save whose context has let its control token pass and whose image can be written, and a restore whose
image can be read. -/
theorem witness_Preemption_save :
    let v : Saved := ⟨[0], [], [], [], [], none, false, []⟩
    let c := { tstCtx [] { tstEl 3 3 0 5 [5] [] [] with passage := .passed } with mode := .save }
    let s := tstArmed (tstTasks [(5, { tstTask .saving 0 with saved := some v })]) c
    (s.task 5).state = .saving ∧ (s.task 5).saved = some v ∧
      (∀ k ∈ s.taskCtxs 5, ∃ y, s.ctxs.find? k = some y ∧ y.mode ≠ .run ∧ y.savedOut = true) ∧
      s.taskCtxs 5 = [0] ∧ s.taskArming 5 = false ∧ s.anyFrozen (s.task 5).regions = false ∧
      (∀ r ∈ (s.task 5).regions, (s.seq r).awaits = []) ∧ (∀ r ∈ (s.task 5).regions, (s.seq r).committing = false) ∧
      v.copies = [] ∧ ∃ u, s.writeImages 5 (v.chain.getD 0) v.chain.isSome ((sortNat (s.task 5).regions).zipIdx) = .ok u := by
  intro v c s
  have h : s.taskCtxs 5 = [0] := by decide +kernel
  simp only [exOk_some, h]
  refine ⟨?_, ?_, ?_, ?_, ?_, ?_, ?_, ?_, ?_, ?_⟩
  case refine_3 =>
    intro k hk
    obtain rfl : k = 0 := by simpa using hk
    exact ⟨c, rfl, by decide +kernel, by decide +kernel⟩
  all_goals decide +kernel

theorem witness_Preemption_restore :
    let v : Saved := ⟨[0], [], [], [], [], none, false, []⟩
    let s := tstTasks [(5, { tstTask .resuming 0 with saved := some v })]
    (s.task 5).state = .resuming ∧ (s.task 5).saved = some v ∧
      ∃ bs, s.readBacks 5 v ((sortNat v.regions).zipIdx) = .ok bs := by
  simp only [exOk_some]
  refine ⟨?_, ?_, ?_⟩ <;> decide +kernel

/-- StagesPagerAndErrors: a stage whose buffer has been high for 4 µs with free regions, an answered entry of a fault
queue, a window that is over, errors below the threshold and at it. -/
theorem witness_StagesPagerAndErrors :
    (let g : Stage := ⟨[1], false, false, 0, [0x10000, 0x20000, 0], 0x40000000, 1, some 0, none, 0, false, 0, [], none⟩
     let s := { tstTasks [(5, { tstTask .run 0 with regions := [0, 1], stages := [g] })] with now := 4000 }
     (s.task 5).state = .run ∧ (s.task 5).stages[0]? = some g ∧ s.stageChanging 0 = false ∧ g.free s.now = true ∧
       g.unroll ≤ 2 ∧ g.thread = false ∧ g.image (2 * g.unroll) ≠ 0 ∧ g.highSince = some 0 ∧ 0 + 4000 ≤ s.now) ∧
    (let x := { Part.initial with valid := true, pflag := 9, fqBase := 0x2000, fqCount := 1 }
     let el := { tstGen 3 [5] with stall := some 0x30000, fault := some (0, 0) }
     let s := { tstGenFab el [] with
       chans := [(3, { Chan.initial with mode := .stop, recAt := 0x40, fault := some (0, 0) })]
       parts := [(0, x)], flags := [(9, true)], mem := [(0x2002, 3), (0x2007, 0x80), (0x2008, 5), (0x200B, 1)] }
     (s.part 0).valid = true ∧ s.flag x.pflag = true ∧ x.fqn ≠ 0 ∧ s.pageFaults = [] ∧
       s.physWord (x.slotAt 0) = some 0x8000000000030000 ∧ s.physWord (x.slotAt 0 + 8) = some 0x1000005 ∧
       (0x8000000000030000 : Word).getLsbD 63 = true ∧ bitsOf 0x1000005 24 8 = 1 ∧ bitsOf 0x8000000000030000 52 4 ≤ 3 ∧
       (s.ctxs.find? 0 = some (tstCtx (tstArcs []) el) ∧ (tstCtx (tstArcs []) el).elems.find? 0 = some el) ∧
       (s.chan 3).mode = .stop ∧ (s.chan 3).fault = some (0, 0)) ∧
    (let s := { State.reset with now := 2 ^ 26 }
     s.windowNow ≠ s.errorWindow) ∧
    (let s := { State.reset with errors := [(0, 3)] }
     s.svc.thr ≠ 0 ∧ s.svc.thr ≤ (if s.windowNow = s.errorWindow then s.errors.getD 0 0 else 0) + 1 ∧ 0 ∉ s.lasting) ∧
    (0 + 1 < State.reset.svc.thr) := by
  refine ⟨?_, ?_, ?_, ?_, ?_⟩ <;> decide +kernel

/-! ## Engines -/

/-- A channel of die 0, the state in which it stands, and a record that copies 8 elements of 32 bits. -/
def tstChan (x : Chan) : State := { State.reset with chans := [(3, x)] }
def tstRecord : List Word := [0, 0x10000, 0x20000, 0x00E7000100010008, 0, 0, 0, 0, 0, 0, 0, 0, 0, 0, 0, 0]

/-- Engines: a channel with a head queued; records of OWN = 0, of a check that fails and of none; a unit that can be
read and written; a record whose units are all written. -/
theorem witness_Engines_channel :
    ((tstChan { Chan.initial with queue := [(0x40, 96, none)] }).chan 3).queue = [(0x40, 96, none)] ∧
    (∀ m ∈ [[], [(0x40, 1)], [(0x40, 1), (0x48, 64), (0x52, 2), (0x58, 8), (0x5A, 1), (0x5C, 1), (0x5E, 0xE7)]],
      let s := { tstChan { Chan.initial with mode := .run, recAt := 0x40, issuer := 96 } with mem := m }
      s.chanFenced (s.chan 3) = false ∧ ∃ bs u, s.readAt (s.chanTr 3 96) 0x40 128 = .ok (bs, u) ∧
        (((bytesToWords bs).getD 0 0).getLsbD 0 = !m.isEmpty) ∧
        (match u.checkRecord 3 96 (bytesToWords bs) with
          | .bad c _ _ => m.length == 1 && c == 1
          | .good .. => m.length == 7
          | .wait => false) = !m.isEmpty) := by
  refine ⟨by decide +kernel, ?_⟩
  intro m hm
  simp only [List.mem_cons, List.not_mem_nil, or_false] at hm
  rcases hm with rfl | rfl | rfl <;> refine ⟨by decide +kernel, _, _, rfl, ?_⟩ <;> decide +kernel

/-- A copy of 8 elements of 32 bits from 0x10000 to 0x20000. -/
def tstCopy (n : Nat) : State :=
  tstChan { Chan.initial with mode := .run, recAt := 0x40, issuer := 96, data := tstRecord, phase := .units n }

theorem witness_Engines_unit :
    let s := tstCopy 0
    let f := xferOf (s.chan 3).data
    let tr := s.chanTr 3 96
    0 < f.rows ∧ f.unit 0 0 = (0, 32, false) ∧ s.chanTurn 3 = true ∧ s.chanFenced (s.chan 3) = false ∧
    ∃ ds bs blocks ps, s.unitPieces tr (f.unit 0 0).2.1 (f.unitDests 0 (f.unit 0 0)) = .ok ds ∧
      s.unitBytes tr f 0 (f.unit 0 0) ds [] = .ok (bs, blocks) ps ∧ ds = [[(0x20000, bs.length)]] := by
  refine ⟨by decide +kernel, by decide +kernel, by decide +kernel, by decide +kernel, _, _, _, _, rfl, rfl, ?_⟩
  decide +kernel

/-- Engines: a record whose units are all written, with an abort and without, one whose actions go on, and one whose
actions are done; records with each action and with none. -/
theorem witness_Engines_complete :
    (let s := tstCopy (2 ^ 18)
     (s.chan 3).mode = .run ∧ (s.chan 3).phase = .units (2 ^ 18) ∧ (s.chan 3).abort = false ∧
       s.chanFenced (s.chan 3) = false ∧ (xferOf (s.chan 3).data).rows ≤ 2 ^ 18 / 2 ^ 18) ∧
    (let s := tstChan { Chan.initial with mode := .run, recAt := 0x40, issuer := 96, data := tstRecord, phase := .acts 3 }
     (s.chan 3).mode = .run ∧ (s.chan 3).phase = .acts 3 ∧ (s.chan 3).abort = false ∧
       s.chanFenced (s.chan 3) = false ∧ bitsOf (tstRecord.getD 0 0) 6 58 = 0 ∧
       exOk (s.runAt (s.chanTr 3 96) .write 0x40 8) = some [(0x40, 8)] ∧
       exOk (s.runAt (s.chanTr 3 96) .write (0x40 + 0x58) 16) = some [(0x98, 16)] ∧ 0x40 + 8 ≤ 0x98) ∧
    ((0x60010000 : Word).getLsbD 16 = true ∧ bitsOf 0x60010000 43 7 < 96 ∧
      State.reset.group (groupOf (bitsOf 0x60010000 43 7)) = .pool ∧ (0x60010000 : Word).getLsbD 29 = true ∧
      (0x60010000 : Word).getLsbD 30 = true) := by
  refine ⟨?_, ?_, ?_⟩ <;> decide +kernel

/-- The unit is written where the first destination says (R331). -/
theorem test_copy_unit : (match exec (.copyWriteUnit 0 3) { tstCopy 0 with mem := [(0x10005, 7)] } with
    | .next t => (Memory.byte t.mem 0x20005, (t.chan 3).phase)
    | _ => (0, .read)) = (7, .units (2 ^ 18)) := by decide +kernel

/-- A graph sequencer of die 0 whose task is task 5. -/
def tstRace (h : Headrace) (m : List Host.Cell) : State :=
  let s := tstTasks [(5, tstTask .run 0)]
  { s with races := [(0, { h with task := some 5 })], mem := s.mem ++ m }

/-- Engines: section records of OWN = 0 and 1, one whose counts are to be added, and one whose elements are done. -/
theorem witness_Engines_race :
    (∀ m ∈ [[], [(0x10000, 1)]],
      let s := tstRace { Headrace.initial with recAt := 0x10000 } m
      (s.task 5).state = .run ∧ ∃ bs u, s.readAt (s.walkTr 5) 0x10000 64 = .ok (bs, u) ∧
        ((bytesToWords bs).getD 0 0).getLsbD 0 = !m.isEmpty ∧ sectionBad (bytesToWords bs) = false) ∧
    (let el := tstEl 0 0x40 0 5 [5] [] []
     let c := tstCtx [] el
     let s := { tstArmed (tstRace { Headrace.initial with data := [1, 0, 1, 0, 9], loaded := true } []) c with armings := [] }
     (s.race 0).waiting = false ∧ (∀ a ∈ s.armings, a.issuer ≠ raceLoader 0) ∧ s.ctxs.find? 0 = some c ∧
       c.elems.find? 0 = some el ∧ 0 / 96 ∈ sectionRegions (s.race 0).data ∧ el.cfg.kind = 0 ∧ el.cfg.op = 0x40 ∧
       el.cfg.uncounted = false) ∧
    (∀ n ∈ [1, 0x41],
      let s := tstRace { Headrace.initial with data := [BitVec.ofNat 64 n, 0, 1, 0, 9], waiting := true } []
      (s.race 0).waiting = true ∧ (s.race 0).data ≠ [] ∧ s.sectionOver (sectionRegions (s.race 0).data) (s.race 0).goals = true) := by
  refine ⟨?_, ?_, ?_⟩
  case refine_1 =>
    intro m hm
    simp only [List.mem_cons, List.not_mem_nil, or_false] at hm
    rcases hm with rfl | rfl <;> refine ⟨rfl, _, _, rfl, ?_⟩ <;> decide +kernel
  all_goals decide +kernel

/-! ## The host, other modules and the test access port -/

/-- HostAndRemote: a window of one byte and of eight in a partition, an address outside it; posts of amount 0 and the
greatest; a report; an image that is not one; frames. -/
theorem witness_HostAndRemote_window :
    let s := tstMapped State.reset
    (∀ n ∈ [1, 8], exOk (s.checkOrder (s.translate (some 0) .write 0x10000) .write 0x10000 n) = some 0x10000 ∧
      exOk (s.checkOrder (s.translate (some 0) .read 0x10000) .read 0x10000 n) = some 0x10000 ∧
      s.windowAt 0x10000 n false = .plain) ∧
    (∃ e, s.checkOrder (s.translate (some 0) .write 0x40000000) .write 0x40000000 8 = .error e) ∧
    (({ s with poison := [(0x400, true)] } : State).poisoned 0x10000 8 = true ∧ s.poisoned 0x10000 8 = false) ∧
    (∀ n ∈ [0x5, 0xFFFF3FFF], postBad (BitVec.ofNat 64 n) = false) ∧
    (∀ c ∈ [0, 3], let s := tstTasks [(5, { tstTask .wait 0 with counter := BitVec.ofNat 16 c })]
      (s.task (postTask 0x20005)).state = .wait) := by
  refine ⟨?_, ⟨_, rfl⟩, ?_, ?_, ?_⟩ <;> decide +kernel

theorem witness_HostAndRemote_boot :
    (List.replicate 64 (7 : Byte)).length = 64 ∧
    (({ State.reset with boot := { Boot.initial with stage := 1 } } : State).boot.stage ≠ 0 ∧
      ({ State.reset with boot := { Boot.initial with stage := 1 } } : State).boot.failed = false) ∧
    (∃ e, fwVerify [] = .error e) := by
  exact ⟨by decide, by decide, _, rfl⟩

theorem witness_HostAndRemote_frames :
    let b : SBuf := ⟨0, 1024, 0, 0, [], 0, 0, 0, false, none, none, none⟩
    let f : Frame := ⟨4, 0, [1]⟩
    let s := { State.reset with
      sbufs := [(0x1000000, b)]
      peers := [(1, { Peer.initial with streams := [(7, { Stream.initial with sent := [f] })] })]
      now := 1000000 }
    localHandle 0x40000 = 0x1000000 ∧ s.sbufs.find? (localHandle 0x40000) = some b ∧ b.egr = none ∧
      ((s.peer 1).stream 0x40000).taken = 0 ∧
      (∃ b' off, b.push (wordsToken [hData 4 1 1 0 0 false, 7]) = .done b' off none) ∧
      (match ({ b with occ := 1020 } : SBuf).push (wordsToken [hData 4 1 1 0 0 false, 7]) with
        | .stall => true | _ => false) = true ∧
      ((s.peer 1).stream 0x40000).got < 1 ∧
      (s.peer 1).unanswered[0]? = some f ∧ (s.peer 1).unanswered ≠ [] ∧ (s.peer 1).since + 1000000 ≤ s.now := by
  refine ⟨?_, ?_, ?_, ?_, ⟨_, _, rfl⟩, ?_, ?_, ?_, ?_, ?_⟩ <;> decide +kernel

/-- A post lowers the counter to 0 and no further, and readies its task (R347, R396). -/
theorem test_task_post : (match exec (.hostTaskPost 0x40005) (tstTasks [(5, { tstTask .wait 0 with counter := 3 })]) with
    | .next t => ((t.task 5).counter, (t.task 5).state)
    | _ => (9, .free)) = (0, .ready) := by decide +kernel

/-- TestAccessPort: debug off and on, a target and a register that exist, one that takes writes. -/
theorem witness_TestAccessPort :
    (∀ on ∈ [false, true], ({ State.reset with boot := { Boot.initial with debug := on } } : State).boot.debug = on) ∧
    (∀ g ∈ [(0, 0), (0x5F, 0x5F), (0x80, 96)], regTarget (BitVec.ofNat 8 g.1) = some g.2 ∧
      (State.reset.readReg g.2 0x007).isSome = true) ∧ readOnly 0x007 = false := by
  refine ⟨?_, ?_, ?_⟩ <;> decide +kernel

theorem test_regacc_read : (match exec (.regaccRead 0x80 0x007)
      { State.reset with boot := { Boot.initial with debug := true } } with
    | .next t => t.tap.dr
    | _ => 0) = 0x800070000000000000010000 := by decide +kernel

/-! ## Decoding, the step, and frames -/

/-- DecodingUndoesEncoding, EncodingUndoesDecoding: operands at the ends of their ranges; an opcode outside the map; a
reserved predicate. -/
theorem witness_encoding :
    (Instr.wf (.addi ⟨true, .onFalse, 0x1FF, 0xFFF⟩) = true ∧
      encode (.addi ⟨true, .onFalse, 0x1FF, 0xFFF⟩) = some 0x30FFFFFF) ∧
    (encodeTap (.regaccRead 0x80 0x007)).isSome = true ∧
    exOk (decode 0x30018FFF) = some (.addi ⟨false, .always, 0x018, 0xFFF⟩) ∧
    ((0x30218FFF : BitVec 32).extractLsb' 21 2 = 1 ∧
      (match formOf ((0x30218FFF : BitVec 32).extractLsb' 24 8).toNat with | some (.ti _) => true | _ => false) = true) ∧
    (∀ n ∈ [0x00000000, 0xB4000000], ((BitVec.ofNat 32 n).extractLsb' 24 8).toNat = 0 ∨
      0xB4 ≤ ((BitVec.ofNat 32 n).extractLsb' 24 8).toNat) := by
  refine ⟨?_, ?_, ?_, ?_, ?_⟩ <;> decide +kernel

/-- StepRunsTheDecodedInstruction: a planned firing of a block's word, of an element, two moves from the outside, and a
scan. -/
theorem witness_step :
    (let b := tstBlk [0x30018FFF] [(0, .word 5)]
     let s := { tstAt 3 b with plan := [.thread 3 0 0] }
     s.blk 3 0 = some b ∧ b.words[0]? = some 0x30018FFF ∧
       exOk (decode 0x30018FFF) = some (.addi ⟨false, .always, 0x018, 0xFFF⟩)) ∧
    (let s := tstFab (tstEl 0 1 0 5 [5, 5] []) [(0, tstTok 5 1 1 [9])]
     s.elemStep 0 0 .vadd = true) ∧
    (let s := { State.reset with tap := { Tap.initial with scan := some 0x01 } }
     s.plan = [] ∧ exOk (decodeTap 0x01) = some .idcode) ∧
    ({ State.reset with plan := [.mirrorRead 0x0C8, .message 0 0 7] } : State).plan =
      .mirrorRead 0x0C8 :: [.message 0 0 7] := by
  refine ⟨?_, ?_, ?_, ?_⟩ <;> decide +kernel

/-- A word placed for the next step runs: ADDI of 0 and -1 delivers -1 to i6.l (R124). -/
theorem test_step_addi : (match step (State.reset.withFetchWord 32 0x30018FFF) with
    | .next t => tstGot (.next t) 0x18
    | _ => none) = some (.word 0xFFFFFFFFFFFFFFFF) := by decide +kernel

theorem test_step_idcode : (match step (State.reset.withFetchWord 8 0x01) with
    | .next t => t.tap.dr
    | _ => 0) = 0x1A04D0F3 := by decide +kernel

theorem test_table_words : decodeTableWord 32 0x011409FF = some (.rdg ⟨5, 0x004, noTarget⟩) ∧
    decodeTableWord 8 0xFF = some .bypass ∧ decodeTableWord 32 0 = none := by decide +kernel

/-- EveryStepKeepsMemoryCanonical: reset, whose memory is canonical, has a next state. -/
theorem witness_memoryWf : memoryWf State.reset ∧ ∃ t, step State.reset = .next t := by
  exact ⟨by unfold memoryWf; decide +kernel, _, rfl⟩

/-- ControlThreadFrame: a log of 16 entries whose write pointer has wrapped, of a machine where its next entry is mapped. -/
theorem witness_ControlThreadFrame_log :
    let s := { tstAt 96 (tstBlk [] []) with seqs := [(96, { Seq.initial with flogBase := 0x8000, flogW := 17 })] }
    let x := s.seq s.cur
    exOk (s.logRun s.cur (x.flogBase.toNat + 32 * (x.flogW.toNat % 2 ^ (min x.flogSize.toNat 12 + 4)))) = some 0x8020 := by
  decide +kernel

/-- ControlThreadFrame: an instruction that fires, one that has fired, a load, and a CFGL that answers. -/
theorem witness_ControlThreadFrame :
    (let b := tstBlk [] [(0, .word 5)]
     encode (.addi ⟨false, .always, 0x018, 0xFFF⟩) ≠ none ∧
       (match exec (.addi ⟨false, .always, 0x018, 0xFFF⟩) (tstAt 0 b) with | .next _ => true | _ => false) = true) ∧
    (let b := { tstBlk [] [(0, .word 5)] with fired := [0] }
     let s := tstAt 0 b
     s.blk s.cur s.curBlk = some b ∧ s.curIx ∈ b.fired ∧ ∀ w ∈ b.waits, w.ix ≠ s.curIx) ∧
    (retakes (.addi ⟨false, .always, 0x018, 0xFFF⟩) = false ∧ loadsConfig (.addi ⟨false, .always, 0x018, 0xFFF⟩) = false ∧
      encode (.ld ⟨false, .always, 0, 4, 3, 0⟩) ≠ none ∧
      (match exec (.ld ⟨false, .always, 0, 4, 3, 0⟩) (tstAt 96 (tstBlk [] [(0, .word 0x1000)])) with
        | .next _ => true | _ => false) = true) ∧
    (match exec (.cfgl ⟨.always, 0x014, 2⟩) (tstMapped (tstAt 0 (tstBlk [] [(0, .word 0x10000)]))) with
      | .next _ => true | _ => false) = true := by
  refine ⟨?_, ?_, ?_, ?_⟩ <;> decide +kernel

/-! ## An image that loads -/

/-- Cells that hold bytes from an address on. -/
def tstCells (a : Nat) : List Byte → List Host.Cell
  | [] => []
  | b :: t => (a, b) :: tstCells (a + 1) t

theorem tstCells_byte (l : List Byte) (a k : Nat) (h : k < l.length) :
    Memory.byte (tstCells a l) (a + k) = l[k] := by
  induction l generalizing a k with
  | nil => simp at h
  | cons b t ih =>
    match k with
    | 0 => simp [Memory.byte, Tab.getD, Tab.find?, tstCells]
    | k + 1 =>
      have := ih (a + 1) k (by simpa using h)
      simp only [Memory.byte, Tab.getD, Tab.find?, tstCells, Nat.add_assoc] at this ⊢
      simp only [Nat.add_comm 1 k] at this
      simp [this]

/-- The first n bytes of a run behind cells of lower addresses. -/
theorem tstCells_bytes (l : List Byte) (t : List Host.Cell) (a n : Nat) (ht : ∀ b, a ≤ b → Tab.find? t b = none)
    (hn : n ≤ l.length) : Memory.bytes (t ++ tstCells a l) a n = l.take n := by
  have skip : ∀ b, a ≤ b → Memory.byte (t ++ tstCells a l) b = Memory.byte (tstCells a l) b := by
    intro b hb
    have h := ht b hb
    clear ht
    simp only [Memory.byte, Tab.getD]
    congr 1
    induction t with
    | nil => rfl
    | cons e t ih =>
      obtain ⟨k, v⟩ := e
      simp only [Tab.find?] at h
      split at h
      · simp at h
      · rename_i hk
        simp only [List.cons_append, Tab.find?, hk, if_false]
        exact ih h
  suffices h : ∀ n k, n + k ≤ l.length → Memory.bytes (t ++ tstCells a l) (a + k) n = (l.drop k).take n from by
    simpa using h n 0 hn
  intro n
  induction n with
  | zero => intro k _; simp [Memory.bytes]
  | succ n ih =>
    intro k hk
    have h1 : k < l.length := by omega
    rw [Memory.bytes, Nat.add_assoc a, ih (k + 1) (by omega), skip _ (by omega), tstCells_byte _ _ _ h1,
      List.drop_eq_getElem_cons h1, List.take_succ_cons]

theorem keccakF_length (a : List Word) : (keccakF a).length = 25 := by
  have h : ∀ rs : List Word, a.length = 25 ∨ rs ≠ [] → (rs.foldl keccakRound a).length = 25 := by
    intro rs
    induction rs generalizing a with
    | nil => intro h; simpa using h
    | cons r t ih => exact fun _ => ih _ (.inl (by simp [keccakRound]))
  exact h _ (.inr (by decide))

theorem wordsToBytes_length (ws : List Word) : (wordsToBytes ws).length = 8 * ws.length := by
  induction ws with
  | nil => rfl
  | cons w t ih =>
    simp only [wordsToBytes, List.flatMap_cons, List.length_append, List.length_cons] at ih ⊢
    rw [ih]
    simp [bytesOf]
    omega

theorem keccakOf_length (rate : Nat) (suffix : Byte) (m : List Byte) : (keccakOf rate suffix m).length = 25 := by
  have h : ∀ (bs : List (List Word)) (a : List Word), a.length = 25 → (bs.foldl keccakAbsorb a).length = 25 := by
    intro bs
    induction bs with
    | nil => exact fun a h => h
    | cons b t ih => exact fun a _ => ih _ (by simp [keccakAbsorb, keccakF_length])
  exact h _ _ (by simp)

theorem sha3_512_length (m : List Byte) : (sha3_512 m).length = 64 := by
  simp [sha3_512, wordsToBytes_length, keccakOf_length]

/-- A record without sites, whose switches pass nothing, and the image of one record with its digest. -/
def tstLane : List Byte := List.replicate 8 0x0F ++ List.replicate 8 0
def tstRec : List Byte := List.replicate 3136 0 ++ (List.replicate 96 tstLane).flatten
def tstHead : List Byte :=
  [0x4A, 0x43, 0x49, 0x34, 1, 0, 4, 0, 1, 0, 0, 0, 0, 0, 0, 0, 0xC0, 0x12] ++ List.replicate 46 0
def tstFileOf (r : List Byte) : List Byte := tstHead ++ r ++ sha3_512 (tstHead ++ r)
def tstFile : List Byte := tstFileOf tstRec

theorem numOf_zeros (n : Nat) : numOf (List.replicate n 0) = 0 := by
  induction n with
  | zero => rfl
  | succ n ih => rw [List.replicate_succ, numOf, ih]; rfl

theorem zeros_part {α : Type} (z : α) (k i n : Nat) (l : List α) (h : i + n ≤ k) :
    ((List.replicate k z ++ l).drop i).take n = List.replicate n z := by
  rw [List.drop_append_of_le_length (by rw [List.length_replicate]; omega),
    List.take_append_of_le_length (by rw [List.length_drop, List.length_replicate]; omega), List.drop_replicate,
    List.take_replicate, Nat.min_eq_left (by omega)]

theorem lanes_part {α : Type} (b l : List α) (c m i o n : Nat) (hb : b.length = c) (hi : i < m) (h : o + n ≤ c) :
    ((l ++ (List.replicate m b).flatten).drop (l.length + (c * i + o))).take n = (b.drop o).take n := by
  have skip : ∀ k i, i ≤ k → ((List.replicate k b).flatten).drop (c * i) = (List.replicate (k - i) b).flatten := by
    intro k i hk
    induction i generalizing k with
    | zero => simp
    | succ i ih =>
      obtain ⟨m, rfl⟩ : ∃ m, k = m + 1 := ⟨k - 1, by omega⟩
      have e : c * (i + 1) = b.length + c * i := by rw [hb, Nat.mul_succ, Nat.add_comm]
      rw [List.replicate_succ, List.flatten_cons, e, ← List.drop_drop, List.drop_left, ih m (by omega),
        Nat.add_sub_add_right]
  obtain ⟨j, hj⟩ : ∃ j, m - i = j + 1 := ⟨m - i - 1, by omega⟩
  rw [← List.drop_drop, List.drop_left, ← List.drop_drop, skip m i (by omega), hj, List.replicate_succ,
    List.flatten_cons, List.drop_append_of_le_length (by omega),
    List.take_append_of_le_length (by rw [List.length_drop]; omega)]

theorem tstRec_site (i n : Nat) (h : i + n ≤ 3136) : numAt tstRec i n = 0 := by
  rw [numAt, tstRec, zeros_part _ _ _ _ _ h, numOf_zeros]

theorem tstRec_switch (i o n : Nat) (hi : i < 96) (h : o + n ≤ 16) :
    numAt tstRec (0xC40 + (16 * i + o)) n = numOf ((tstLane.drop o).take n) := by
  have e := lanes_part tstLane (List.replicate 3136 0) 16 96 i o n rfl hi h
  rw [List.length_replicate] at e
  rw [numAt, tstRec, e]

theorem chunks_one {α : Type} (l : List α) (h : l ≠ []) : chunks l.length l = [l] := by
  match l, h with
  | a :: t, _ =>
    rw [chunks, chunksAux, List.take_length, List.drop_length]
    · rfl
    · simp

/-- What the record puts into a slot. -/
def tstSlot : CtxSlot := ⟨[], [], 0, 0, 0, 0x10000, 0, false⟩

theorem filterMap_range_nil {α : Type} (n : Nat) (f : Nat → Option α) (h : ∀ i < n, f i = none) :
    (List.range n).filterMap f = [] := by
  rw [List.filterMap_eq_nil_iff]
  exact fun i hi => h i (List.mem_range.mp hi)

theorem tstRec_slot (l : Nat) : slotOf tstRec l 0x10000 = { tstSlot with loader := l } := by
  have h1 : ∀ i < 96, numAt tstRec (0x40 + 32 * i) 32 = 0 := fun i hi => tstRec_site _ _ (by omega)
  have h2 : ∀ i < 96, wd (numAt tstRec (0xC40 + 16 * i) 8) = idleLanes := fun i hi => by
    rw [← Nat.add_zero (16 * i), tstRec_switch i 0 8 hi (by decide)]
    decide
  rw [slotOf, filterMap_range_nil 96 _ fun i hi => by simp only [h1 i hi, if_true],
    filterMap_range_nil 96 _ fun i hi => by simp only [h2 i hi, if_true], tstRec_site 4 4 (by decide),
    tstRec_site 8 8 (by decide)]
  rfl

theorem tstRec_upper : upperHalves tstRec = [] := by
  rw [upperHalves]
  refine filterMap_range_nil 96 _ fun i hi => ?_
  have h : numAt tstRec (0xC40 + 16 * i + 8) 8 = 0 := by
    rw [Nat.add_assoc, tstRec_switch i 8 8 hi (by decide)]
    decide
  rw [h]
  rfl

/-- The tables of tstMapped with every byte of their entries listed, and the image at 0x10000. -/
def tstTables : List Host.Cell :=
  tstCells 0x4000 [0x03, 0x80, 0, 0, 0, 0, 0, 0] ++ tstCells 0x8000 [0x39, 0, 0, 0, 0, 0, 0, 0]
def tstLoader : Blk := tstBlk [] [(0, .word 0x10000)]
def tstLoadsOf (r : List Byte) : State := { tstMapped (tstAt 0 tstLoader) with mem := tstTables ++ tstCells 0x10000 (tstFileOf r) }
def tstLoads : State := tstLoadsOf tstRec

theorem tstRec_length : tstRec.length = recordSize := by decide +kernel

theorem tstFileOf_parts (r : List Byte) (h : r.length = recordSize) :
    (tstFileOf r).length = 4800 ∧ (tstFileOf r).drop 4736 = sha3_512 (tstHead ++ r) ∧
      (tstFileOf r).take 4736 = tstHead ++ r ∧ (tstFileOf r).take 64 = tstHead ∧ recordsOf (tstFileOf r) = [r] := by
  have hh : tstHead.length = 64 := rfl
  have hb : (tstHead ++ r).length = 4736 := by rw [List.length_append, hh, h]; rfl
  have hn : numAt (tstFileOf r) 8 2 = 1 := rfl
  have hd : (tstFileOf r).drop 64 = r ++ sha3_512 (tstHead ++ r) := rfl
  refine ⟨?_, List.drop_left' hb, List.take_left' hb, ?_, ?_⟩
  · rw [tstFileOf, List.length_append, sha3_512_length, hb]
  · rw [tstFileOf, List.append_assoc]
    exact List.take_left' hh
  · rw [recordsOf, hn, Nat.one_mul, hd, ← h, List.take_left, chunks_one _ fun e => by simp [e, recordSize] at h]

theorem tstFileOf_reads (r : List Byte) (h : r.length = recordSize) (n : Nat) (hn : n ≤ 4800) :
    (tstLoadsOf r).loadRuns [(0x10000, n)] = (tstFileOf r).take n := by
  have low : ∀ e ∈ tstTables, e.1 < 0x10000 := by decide +kernel
  have none_ : ∀ (l : List Host.Cell), (∀ e ∈ l, e.1 < 0x10000) → ∀ c, 0x10000 ≤ c → Tab.find? l c = none := by
    intro l hl c hc
    induction l with
    | nil => rfl
    | cons e l ih =>
      have := hl e (by simp)
      rw [Tab.find?, if_neg (by omega), ih fun x hx => hl x (by simp [hx])]
  have e := tstCells_bytes (tstFileOf r) tstTables 0x10000 n (none_ _ low) (by rw [(tstFileOf_parts r h).1]; exact hn)
  simpa [State.loadRuns, State.load, tstLoadsOf] using e

theorem tstFileOf_good (r : List Byte) (h : r.length = recordSize) (h0 : numAt r 0 1 = 0) (h3 : numAt r 3 1 ≤ 3)
    (h16 : numAt r 16 48 = 0) : imageGood (tstFileOf r) = true := by
  obtain ⟨hl, hd, ht, hh, hr⟩ := tstFileOf_parts r h
  have hs : ((tstFileOf r).drop 4736).take 64 = sha3_512 (tstHead ++ r) := by
    rw [hd]
    exact List.take_of_length_le (Nat.le_of_eq (sha3_512_length _))
  have hn : imageSize (numAt (tstFileOf r) 8 2) = 4800 := by
    rw [show numAt (tstFileOf r) 8 2 = 1 from rfl]
    decide
  have hg : headerGood tstHead = true := by decide +kernel
  have hk : numAt (tstFileOf r) 10 2 = 0 := rfl
  rw [imageGood, hn, hl, hs, ht, hh, hg, hr, hk]
  simp [h0, h3, h16, distinct]

theorem tstFileOf_image (r : List Byte) (h : r.length = recordSize) (s : State)
    (h1 : s.runAt (s.regionTr 0) .read (0x10000 : Word).toNat 64 = .ok [(0x10000, 64)])
    (h2 : s.runAt (s.regionTr 0) .read (0x10000 : Word).toNat 4800 = .ok [(0x10000, 4800)])
    (hm : ∀ n ≤ 4800, s.loadRuns [(0x10000, n)] = (tstFileOf r).take n) :
    s.readImage (s.regionTr 0) (0x10000 : Word).toNat = .bytes (tstFileOf r) [(0x10000, 4800)] := by
  obtain ⟨hl, -, -, hh, -⟩ := tstFileOf_parts r h
  have h3 : headerGood tstHead = true := by decide +kernel
  have h4 : imageSize (numAt tstHead 8 2) = 4800 := by decide +kernel
  have h5 : (tstFileOf r).take 4800 = tstFileOf r := List.take_of_length_le (Nat.le_of_eq hl)
  simp only [State.readImage, h1, hm 64 (by decide), hh, h3, h4, h2, hm 4800 (by decide), h5, Bool.not_true,
    Bool.false_eq_true, if_false]

theorem tstFile_length : tstFile.length = 4800 := (tstFileOf_parts _ tstRec_length).1

theorem tstFile_reads (n : Nat) (h : n ≤ 4800) : tstLoads.loadRuns [(0x10000, n)] = tstFile.take n :=
  tstFileOf_reads _ tstRec_length n h

theorem tstFile_good : imageGood tstFile = true :=
  tstFileOf_good _ tstRec_length (tstRec_site 0 1 (by decide)) (by rw [tstRec_site 3 1 (by decide)]; decide)
    (tstRec_site 16 48 (by decide))

theorem tstLoads_image : tstLoads.readImage (tstLoads.regionTr 0) (0x10000 : Word).toNat =
    .bytes tstFile [(0x10000, 4800)] :=
  tstFileOf_image _ tstRec_length _ (by rw [exOk_iff]; decide +kernel) (by rw [exOk_iff]; decide +kernel) tstFile_reads

theorem tstLoads_records : recordsOf tstFile = [tstRec] := (tstFileOf_parts _ tstRec_length).2.2.2.2

theorem tstLoads_placed : placeRecords tstFile 0 (tstLoads.offered 0) 2 0 0x10000 =
    some [⟨0, 2, tstSlot⟩] := by
  have h1 : landing 0 tstRec = some 0 := by decide +kernel
  have h2 : (tstLoads.offered 0).contains 0 = true := by decide +kernel
  have h3 : (numAt tstRec 3 1 + 2) % 4 = 2 := by rw [tstRec_site 3 1 (by decide)]
  have hz : [tstRec].zipIdx = [(tstRec, 0)] := rfl
  simp only [placeRecords, tstLoads_records, hz, List.mapM_cons, List.mapM_nil, h1, h2, h3, tstRec_slot, if_true]
  rfl

theorem checkPlaced_one (r : List Byte) (p : Placed) (live : Tab SBuf)
    (h1 : rectBroken [(p.region, p.ctx.mxmode.toNat)] p.region p.ctx.mxmode.toNat = false)
    (h2 : Plan.checkRegion [(p.region, p.ctx)] (upperHalves r) (p.region, p.ctx) = none)
    (h3 : Plan.graphReject [(p.region, p.ctx)] live = none) : checkPlaced [r] [p] live = none := by
  simp only [checkPlaced, Plan.reject, Plan.wordReject, List.map_cons, List.map_nil, List.zip_cons_cons,
    List.zip_nil_right, List.findSome?_cons, List.findSome?_nil, h1, h2, h3, Bool.false_eq_true, if_false]

theorem tstLoads_checked : checkPlaced [tstRec] [⟨0, 2, tstSlot⟩] tstLoads.sbufs = none :=
  checkPlaced_one _ _ _ (by decide +kernel) (by rw [tstRec_upper]; decide +kernel) (by decide +kernel)

theorem tstLoads_unarmed : List.find? (fun (p : Placed) => tstLoads.slotArmed p.region p.slot)
    [⟨0, 2, tstSlot⟩] = none := by
  have : tstLoads.slotArmed 0 2 = false := by decide +kernel
  simp [this]

/-- StagesPagerAndErrors: a stage's image for unroll 2, which stays on the stage's own region. -/
def tstWide : Stage := ⟨[1], false, false, 0, [0x20000, 0x10000, 0], 0x40000000, 1, some 0, none, 0, false, 0, [], none⟩
def tstWiden : State :=
  { tstLoads with tasks := [(5, { tstTask .run 0 with regions := [0, 1], stages := [tstWide] })], now := 4000 }

theorem tstWiden_image : tstWiden.readImage (tstWiden.translate (some 0)) (0x10000 : Word).toNat =
    .bytes tstFile [(0x10000, 4800)] := by
  have h1 : tstWiden.runAt (tstWiden.translate (some 0)) .read (0x10000 : Word).toNat 64 = .ok [(0x10000, 64)] := by
    rw [exOk_iff]; decide +kernel
  have h2 : tstWiden.runAt (tstWiden.translate (some 0)) .read (0x10000 : Word).toNat 4800 = .ok [(0x10000, 4800)] := by
    rw [exOk_iff]; decide +kernel
  have r : ∀ ps, tstWiden.loadRuns ps = tstLoads.loadRuns ps := fun _ => rfl
  have h3 : headerGood (tstFile.take 64) = true := by decide +kernel
  have h4 : imageSize (numAt (tstFile.take 64) 8 2) = 4800 := by decide +kernel
  have h5 : tstFile.take 4800 = tstFile := List.take_of_length_le (Nat.le_of_eq tstFile_length)
  simp only [State.readImage, h1, r, tstFile_reads 64 (by decide), h3, h4, h2, tstFile_reads 4800 (by decide), h5,
    Bool.not_true, Bool.false_eq_true, if_false]

theorem witness_StageWiden :
    (tstWiden.task 5).state = .run ∧ (tstWiden.task 5).stages[0]? = some tstWide ∧ tstWiden.stageChanging 0 = false ∧
      tstWide.image 2 = 0x10000 ∧ (tstWiden.takes 5 2 tstWide (tstWiden.freeOn 5)).isSome = true := by
  have hi : tstWide.image 2 = 0x10000 := by decide
  have hp : (tstWiden.task 5).part = 0 := by decide +kernel
  have hr : tstWiden.imageRecords 0 0x10000 = some [tstRec] := by
    simp only [State.imageRecords, tstWiden_image, tstFile_good, tstLoads_records, if_true]
  refine ⟨by decide +kernel, by decide +kernel, by decide +kernel, hi, ?_⟩
  have hl : landing 1 tstRec = some 1 := by decide +kernel
  have ha (free : List Nat) : landAll [tstRec] ([1] ++ free) 1 = some [1] := by
    have hm : [tstRec].mapM (landing 1) = some [1] := by rw [List.mapM_cons, hl]; rfl
    rw [landAll, hm]
    rfl
  have hs : ∀ free, ((List.range 24).findSome? fun k =>
      (landAll [tstRec] ([1] ++ free) (5 / 4096 * 24 + k)).map fun l => (5 / 4096 * 24 + k, sortNat l)).isSome = true := by
    intro free
    rw [List.findSome?_isSome_iff]
    exact ⟨1, List.mem_range.mpr (by decide), by rw [show 5 / 4096 * 24 + 1 = 1 from rfl, ha]; rfl⟩
  rw [State.takes, Option.isSome_map, State.placeStage, hi, hp, hr]
  exact hs _

/-- StagesPagerAndErrors: the stage may be changed. -/
theorem witness_changeable : tstWiden.changeable tstWide = true := by decide +kernel

/-- TasksRunAndEnd: a stage without regions, whose image is placed on region 1. -/
def tstPlain : Stage := ⟨[], false, false, 0, [0x10000, 0, 0], 0x40000000, 1, none, none, 0, false, 0, [], none⟩
def tstStaged : State := { tstLoads with tasks := [(5, { tstTask .run 0 with regions := [0], stages := [tstPlain] })] }

theorem tstStaged_image : tstStaged.readImage (tstStaged.translate (some 0)) (0x10000 : Word).toNat =
    .bytes tstFile [(0x10000, 4800)] := by
  have h1 : tstStaged.runAt (tstStaged.translate (some 0)) .read (0x10000 : Word).toNat 64 = .ok [(0x10000, 64)] := by
    rw [exOk_iff]; decide +kernel
  have h2 : tstStaged.runAt (tstStaged.translate (some 0)) .read (0x10000 : Word).toNat 4800 = .ok [(0x10000, 4800)] := by
    rw [exOk_iff]; decide +kernel
  have r : ∀ ps, tstStaged.loadRuns ps = tstLoads.loadRuns ps := fun _ => rfl
  have h3 : headerGood (tstFile.take 64) = true := by decide +kernel
  have h4 : imageSize (numAt (tstFile.take 64) 8 2) = 4800 := by decide +kernel
  have h5 : tstFile.take 4800 = tstFile := List.take_of_length_le (Nat.le_of_eq tstFile_length)
  simp only [State.readImage, h1, r, tstFile_reads 64 (by decide), h3, h4, h2, tstFile_reads 4800 (by decide), h5,
    Bool.not_true, Bool.false_eq_true, if_false]

/-- The record as it lands on region 1. -/
def tstPut : Placed := ⟨1, 0, { tstSlot with loader := 1 }⟩
theorem loadBytes_ok (bs : List Byte) (a k l : Nat) (off : List Nat) (image : Word) (ps : List Placed) (live : Tab SBuf)
    (h1 : imageGood bs = true) (h2 : placeRecords bs a off k l image = some ps)
    (h3 : checkPlaced (recordsOf bs) ps live = none) : loadBytes bs a off k l image live = .ok ps := by
  simp only [loadBytes, h1, h2, h3, Bool.not_true, Bool.false_eq_true, if_false]
theorem placing_ok (s : State) (p loader a : Nat) (image : Word) (off : List Nat) (bs : List Byte) (rs : List (Nat × Nat))
    (ps : List Placed) (h1 : s.readImage (s.translate (some p)) image.toNat = .bytes bs rs)
    (h2 : loadBytes bs a (off.filter s.pooled) 0 loader image s.sbufs = .ok ps) :
    s.placing p loader image a off = .ok ps := by
  simp only [State.placing, h1, h2]
theorem tryStage_ok (s : State) (t i a : Nat) (g : Stage) (rs : List Nat) (ps : List Placed) (h0 : g.image 1 ≠ 0)
    (h1 : s.placeStage (s.task t).part (t / 4096) (g.image 1) (s.freeOn t) = some (a, rs))
    (h2 : s.placing (s.task t).part (rs.headD 0) (g.image 1) a rs = .ok ps) :
    s.tryStage t i g = some (.stage t i rs (.ok ps)) := by
  simp only [State.tryStage, h0, h1, h2, if_false]

theorem witness_StageSelect : ∃ ps, tstStaged.chosen 0 = some (.stage 5 0 [1] (.ok ps)) ∧
    (tstStaged.task 5).stages[0]? = some tstPlain := by
  have hp : (tstStaged.task 5).part = 0 := by decide +kernel
  have hi : tstPlain.image 1 = 0x10000 := by decide
  have hw : tstStaged.waiting 0 = [] := by decide +kernel
  have hs : tstStaged.waitingStages 0 = [(5, 0, tstPlain)] := by decide +kernel
  have hr : tstStaged.imageRecords 0 0x10000 = some [tstRec] := by
    simp only [State.imageRecords, tstStaged_image, tstFile_good, tstLoads_records, if_true]
  have h0 : landing 0 tstRec = some 0 := by decide +kernel
  have h1 : landing 1 tstRec = some 1 := by decide +kernel
  have hf : tstStaged.freeOn 5 = (List.range 23).map (· + 1) := by decide +kernel
  have l0 : landAll [tstRec] ((List.range 23).map (· + 1)) 0 = none := by
    have hm : [tstRec].mapM (landing 0) = some [0] := by rw [List.mapM_cons, h0]; rfl
    rw [landAll, hm]
    rfl
  have l1 : landAll [tstRec] ((List.range 23).map (· + 1)) 1 = some [1] := by
    have hm : [tstRec].mapM (landing 1) = some [1] := by rw [List.mapM_cons, h1]; rfl
    rw [landAll, hm]
    rfl
  have hpl : tstStaged.placeStage 0 0 0x10000 ((List.range 23).map (· + 1)) = some (1, [1]) := by
    rw [State.placeStage, hr]
    rw [show List.range 24 = 0 :: 1 :: (List.range 22).map (· + 2) from by decide]
    simp only [List.findSome?_cons, Nat.zero_mul, Nat.zero_add, l0, l1, Option.map_none, Option.map_some]
    rfl
  have hq : [1].filter tstStaged.pooled = [1] := by decide +kernel
  have hld : ∃ ps, loadBytes tstFile 1 [1] 0 1 0x10000 tstStaged.sbufs = .ok ps := by
    have h3 : (numAt tstRec 3 1 + 0) % 4 = 0 := by rw [tstRec_site 3 1 (by decide)]
    have hz : [tstRec].zipIdx = [(tstRec, 0)] := rfl
    have hpr : placeRecords tstFile 1 [1] 0 1 0x10000 = some [tstPut] := by
      simp only [placeRecords, tstLoads_records, hz, List.mapM_cons, List.mapM_nil, h1, h3, tstRec_slot,
        List.contains_cons, beq_self_eq_true, Bool.true_or, if_true]
      rfl
    have hc : checkPlaced [tstRec] [tstPut] tstStaged.sbufs = none :=
      checkPlaced_one _ _ _ (by decide +kernel) (by rw [tstRec_upper]; decide +kernel) (by decide +kernel)
    exact ⟨[tstPut], loadBytes_ok _ _ _ _ _ _ _ _ tstFile_good hpr (by rw [tstLoads_records]; exact hc)⟩
  obtain ⟨ps, hps⟩ := hld
  refine ⟨ps, ?_, by decide +kernel⟩
  have ht : tstStaged.tryStage 5 0 tstPlain = some (.stage 5 0 [1] (.ok ps)) := by
    refine tryStage_ok _ _ _ 1 _ _ _ (by rw [hi]; decide) ?_ ?_
    · rw [hp, hi, hf]
      exact hpl
    · rw [hp, hi]
      exact placing_ok _ _ _ _ _ _ _ _ _ tstStaged_image (by rw [hq]; exact hps)
  rw [State.chosen, hw, State.chooseStage, hs]
  simp only [State.chooseFrom, List.foldl_cons, List.foldl_nil, ht, Option.map_some]

/-- ConfigurationLoads: the image is loaded for the region of its thread. -/
theorem witness_ConfigurationLoads_done :
    mayFire tstLoads tstLoader .always false ∧ operandAt tstLoads tstLoader slotL 0x10000 ∧ tstLoads.cur ≠ service ∧
      tstLoader.cfgwSlots = [] ∧ ∃ ps, tstLoads.tryLoad tstLoader 0x10000 2 = .done ps := by
  have hc : tstLoads.cur = 0 := rfl
  have h0 : ((0x10000 : Word).toNat % 64 != 0) = false := by decide
  have hb : tstLoader.cfglSlots = [] := rfl
  have hl : tstLoader.landsOn (0, 2) = false := rfl
  refine ⟨?_, ?_, ?_, rfl, [⟨0, 2, tstSlot⟩], ?_⟩
  · simp only [mayFire]
    decide +kernel
  · simp only [operandAt]
    decide +kernel
  · decide
  · simp only [State.tryLoad, hc, h0, tstLoads_image, tstFile_good, tstLoads_placed, tstLoads_unarmed,
      tstLoads_records, tstLoads_checked, hb, hl, List.contains_nil, List.map_cons, List.map_nil, List.any_cons,
      List.any_nil, Bool.or_self, Bool.not_true, Bool.false_eq_true, if_false]

/-- ConfigurationLoads: an entry of a memory node that is not yet full holds the image. -/
def tstAwaits : State :=
  let el := Elem.initial (tstCfg 1 1 0 [] [] [0, 0x8000, 4])
  let s := tstArmed (tstMapped (tstAt 0 tstLoader)) { tstCtx [] el with elems := [(1, el)] }
  { s with mem := [(0x4000, 0x03), (0x4001, 0x80), (0x8000, 0x39), (0x8004, 0x80)] }
theorem witness_ConfigurationLoads_wait :
    mayFire tstAwaits tstLoader .always false ∧ operandAt tstAwaits tstLoader slotL 0x10000 ∧ tstAwaits.cur ≠ service ∧
      (match tstAwaits.readImage (tstAwaits.regionTr tstAwaits.cur) (0x10000 : Word).toNat with
       | .wait => true | _ => false) = true := by
  simp only [mayFire, operandAt]
  decide +kernel

/-- A record whose MXMODE holds a bit without EN. -/
def tstBad : List Byte := tstRec.set 4 1
def tstBadSlot : CtxSlot := { slotOf tstBad 0 0x10000 with record := 0 }

/-- ConfigurationLoads: a region that is not offered; a slot that is armed, and one that another CFGL reaches; an image
whose first word is wrong. -/
theorem witness_ConfigurationLoads_place :
    let s := { tstLoads with groups := [(0, .gated)] }
    s.readImage (s.regionTr s.cur) (0x10000 : Word).toNat = .bytes tstFile [(0x10000, 4800)] ∧
      placeRecords tstFile s.cur (s.offered s.cur) 2 s.cur 0x10000 = none := by
  refine ⟨tstFileOf_image _ tstRec_length _ (by rw [exOk_iff]; decide +kernel) (by rw [exOk_iff]; decide +kernel)
    tstFile_reads, ?_⟩
  rw [placeRecords, tstLoads_records]
  rfl

theorem witness_ConfigurationLoads_taken :
    let s := { tstLoads with regions := [(0, { Region.initial with armed := some 0, ctx := 2 })] }
    s.readImage (s.regionTr s.cur) (0x10000 : Word).toNat = .bytes tstFile [(0x10000, 4800)] ∧
      placeRecords tstFile s.cur (s.offered s.cur) 2 s.cur 0x10000 = some [⟨0, 2, tstSlot⟩] ∧
      s.slotArmed 0 2 = true ∧ tstLoads.slotArmed 0 2 = false ∧
      (0, 2) ∈ ({ tstLoader with effs := [(1, .cfgl [(0, 2)])] } : Blk).cfglSlots := by
  refine ⟨tstFileOf_image _ tstRec_length _ (by rw [exOk_iff]; decide +kernel) (by rw [exOk_iff]; decide +kernel)
    tstFile_reads, ?_, by decide +kernel, by decide +kernel, by decide⟩
  have h : State.offered { tstLoads with regions := [(0, { Region.initial with armed := some 0, ctx := 2 })] } 0 =
      tstLoads.offered 0 := by decide +kernel
  exact h ▸ tstLoads_placed

theorem witness_ConfigurationLoads_word :
    (tstLoadsOf tstBad).readImage ((tstLoadsOf tstBad).regionTr 0) (0x10000 : Word).toNat =
        .bytes (tstFileOf tstBad) [(0x10000, 4800)] ∧
      imageGood (tstFileOf tstBad) = true ∧
      placeRecords (tstFileOf tstBad) 0 ((tstLoadsOf tstBad).offered 0) 2 0 0x10000 = some [⟨0, 2, tstBadSlot⟩] ∧
      firstFailing (recordsOf (tstFileOf tstBad)) [⟨0, 2, tstBadSlot⟩] (rejection 0x0D 0 0 0 0 0) := by
  have hl : tstBad.length = recordSize := by decide +kernel
  have hr := (tstFileOf_parts _ hl).2.2.2.2
  have hm : tstBadSlot.mxmode = 1 := by
    rw [tstBadSlot, slotOf, show numAt tstBad 4 4 = 1 from by decide +kernel]
    decide
  refine ⟨tstFileOf_image _ hl _ (by rw [exOk_iff]; decide +kernel) (by rw [exOk_iff]; decide +kernel)
    (tstFileOf_reads _ hl), tstFileOf_good _ hl (by decide +kernel) (by decide +kernel) (by decide +kernel), ?_, ?_⟩
  · have h1 : landing 0 tstBad = some 0 := by decide +kernel
    have h2 : ((tstLoadsOf tstBad).offered 0).contains 0 = true := by decide +kernel
    have h3 : (numAt tstBad 3 1 + 2) % 4 = 2 := by decide +kernel
    have hz : [tstBad].zipIdx = [(tstBad, 0)] := rfl
    simp only [placeRecords, hr, hz, List.mapM_cons, List.mapM_nil, h1, h2, h3, if_true]
    rfl
  · rw [hr]
    refine ⟨0, ⟨0, 2, tstBadSlot⟩, tstBad, rfl, rfl, fun k h => absurd h (Nat.not_lt_zero _), .inl ⟨?_, rfl⟩⟩
    simp only [rectHolds, List.map_cons, List.map_nil, hm]
    decide

/-- Zeta at index 1 of FIPS 204's table. -/
theorem test_dsa_zeta : 1753 ^ dsaPower 1 % dsaQ = 4808194 := by decide +kernel

/-- The digest of no bytes (FIPS 202's published value). -/
theorem test_sha3_512 : numOf (sha3_512 []).reverse =
    0xa69f73cca23a9ac5c8b567dc185a756e97c982164fe25859e0d1dcc1475c80a615b2123af1f5f94c11e3e9402c3ac558f500199d95b6d3e301758586281dcd26 := by
  decide +kernel

end Sys2Proof
end

section
/-! Decoding undoes encoding (R13, R14, R16): a field of a word is read back from the pieces the word is put together
from, one lemma per format, and each instruction has the word of its format. -/

namespace Sys2Proof

@[simp] theorem prOf_bits (p : Pr) : prOf p.bits = some p := by cases p <;> rfl

@[simp] theorem ofBool_beq_one (a : Bool) : (BitVec.ofBool a == 1) = a := by cases a <;> rfl

/-! ## Formats -/

section
open BitVec (extractLsb'_append_eq_of_le extractLsb'_append_eq_of_add_le extractLsb'_eq_self)

theorem build_encRD (op : BitVec 8) (c : RD → Instr) (f : RD) : (Form.rd c).build (encRD op f) = .ok (c f) := by
  simp (disch := decide) only [Form.build, encRD, extractLsb'_append_eq_of_le, extractLsb'_append_eq_of_add_le,
    extractLsb'_eq_self, Nat.reduceSub]

theorem build_encWR (op : BitVec 8) (c : WR → Instr) (f : WR) : (Form.wr c).build (encWR op f) = .ok (c f) := by
  simp (disch := decide) only [Form.build, encWR, extractLsb'_append_eq_of_le, extractLsb'_append_eq_of_add_le,
    extractLsb'_eq_self, Nat.reduceSub, prOf_bits]
  rfl

theorem build_encT2 (op : BitVec 8) (c : T2 → Instr) (f : T2) : (Form.t2 c).build (encT2 op f) = .ok (c f) := by
  simp (disch := decide) only [Form.build, bitAt, encT2, extractLsb'_append_eq_of_le, extractLsb'_append_eq_of_add_le,
    extractLsb'_eq_self, Nat.reduceSub, prOf_bits, ofBool_beq_one]

theorem build_encTB (op : BitVec 8) (c : TB → Instr) (f : TB) : (Form.tb c).build (encTB op f) = .ok (c f) := by
  simp (disch := decide) only [Form.build, bitAt, encTB, extractLsb'_append_eq_of_le, extractLsb'_append_eq_of_add_le,
    extractLsb'_eq_self, Nat.reduceSub, prOf_bits]
  rfl

theorem build_encTI (op : BitVec 8) (c : TI → Instr) (f : TI) : (Form.ti c).build (encTI op f) = .ok (c f) := by
  simp (disch := decide) only [Form.build, bitAt, encTI, extractLsb'_append_eq_of_le, extractLsb'_append_eq_of_add_le,
    extractLsb'_eq_self, Nat.reduceSub, prOf_bits, ofBool_beq_one]

theorem build_encTC (op : BitVec 8) (c : TC → Instr) (f : TC) : (Form.tc c).build (encTC op f) = .ok (c f) := by
  simp (disch := decide) only [Form.build, bitAt, encTC, extractLsb'_append_eq_of_le, extractLsb'_append_eq_of_add_le,
    extractLsb'_eq_self, Nat.reduceSub, prOf_bits]
  rfl

theorem build_encLS (op : BitVec 8) (c : LS → Instr) (f : LS) : (Form.ls c).build (encLS op f) = .ok (c f) := by
  simp (disch := decide) only [Form.build, bitAt, encLS, extractLsb'_append_eq_of_le, extractLsb'_append_eq_of_add_le,
    extractLsb'_eq_self, Nat.reduceSub, prOf_bits, ofBool_beq_one]

theorem build_encST (op : BitVec 8) (c : ST → Instr) (f : ST) : (Form.st c).build (encST op f) = .ok (c f) := by
  simp (disch := decide) only [Form.build, bitAt, encST, extractLsb'_append_eq_of_le, extractLsb'_append_eq_of_add_le,
    extractLsb'_eq_self, Nat.reduceSub, prOf_bits]
  rfl

theorem build_encAM (op : BitVec 8) (c : AM → Instr) (f : AM) : (Form.am c).build (encAM op f) = .ok (c f) := by
  simp (disch := decide) only [Form.build, bitAt, encAM, extractLsb'_append_eq_of_le, extractLsb'_append_eq_of_add_le,
    extractLsb'_eq_self, Nat.reduceSub, prOf_bits, ofBool_beq_one]
  rfl

theorem build_encFN (op : BitVec 8) (c : FN → Instr) (f : FN) : (Form.fn c).build (encFN op f) = .ok (c f) := by
  simp (disch := decide) only [Form.build, encFN, extractLsb'_append_eq_of_le, extractLsb'_append_eq_of_add_le,
    extractLsb'_eq_self, Nat.reduceSub]

theorem build_encBX (op : BitVec 8) (c : BX → Instr) (f : BX) : (Form.bx c).build (encBX op f) = .ok (c f) := by
  simp (disch := decide) only [Form.build, bitAt, encBX, extractLsb'_append_eq_of_le, extractLsb'_append_eq_of_add_le,
    extractLsb'_eq_self, Nat.reduceSub, prOf_bits]
  rfl

/-! ## Words -/

/-- A word of a listed opcode, whose fields make a well-formed instruction, decodes to that instruction. -/
theorem decode_of_build {w : BitVec 32} {op : BitVec 8} {form : Form} {i : Instr} (hop : w.extractLsb' 24 8 = op)
    (hform : formOf op.toNat = some form) (hbuild : form.build w = .ok i) (hwf : i.wf = true) : decode w = .ok i := by
  simp only [decode, hop, hform, hbuild, hwf, if_true]

/-- The word of an instruction, where it has one, has an opcode that the map lists with a format which makes the
instruction of the word (R13, R16). -/
theorem encode_builds {i : Instr} {w : BitVec 32} (h : encode i = some w) :
    ∃ op form, w.extractLsb' 24 8 = op ∧ formOf op.toNat = some form ∧ form.build w = .ok i := by
  cases i with
  | rdg f => cases h; exact ⟨_, _, encRD_opcode _ f, rfl, build_encRD _ _ f⟩
  | wrg f => cases h; exact ⟨_, _, encWR_opcode _ f, rfl, build_encWR _ _ f⟩
  | mov f | add f | sub f | mul f | mulh f | mulhu f | div f | divu f | rem f | remu f | and f | or f | xor f | shl f
  | shr f | sra f | rol f | min f | max f | minu f | maxu f | clz f | popc f | ext f | teq f | tne f | tlt f | tltu f
  | tle f | tleu f | tgt f | tgtu f | tge f | tgeu f | fadd f | fsub f | fmul f | fdiv f | fma f | fmin f | fmax f
  | fcvt f | fteq f | ftlt f | ftle f | fsqrt f =>
    cases h; exact ⟨_, _, encT2_opcode _ f, rfl, build_encT2 _ _ f⟩
  | null f | bwait f => cases h; exact ⟨_, _, encTB_opcode _ f, rfl, build_encTB _ _ f⟩
  | movi f | movhi f | addi f | andi f | ori f | xori f | shli f | shri f | srai f | muli f | teqi f | tnei f | tlti f
  | tgei f | sysr f => cases h; exact ⟨_, _, encTI_opcode _ f, rfl, build_encTI _ _ f⟩
  | cfgl f | cfga f | drain f | tcnt f | spush f | spop f | space f | inj f | cfgw f | bar f | bph f | flgs f | flgc f
  | flgt f | flgw f | tagw f | tagf f | tagc f | depd f | depr f | cpch f | cpst f | cpab f | sysw f | halt f
  | waiti f => cases h; exact ⟨_, _, encTC_opcode _ f, rfl, build_encTC _ _ f⟩
  | ld f | lds f => cases h; exact ⟨_, _, encLS_opcode _ f, rfl, build_encLS _ _ f⟩
  | st f | snul f => cases h; exact ⟨_, _, encST_opcode _ f, rfl, build_encST _ _ f⟩
  | amoadd f | amoswp f | amocas f | amomin f | amomax f | amoand f | amoor f =>
    cases h; exact ⟨_, _, encAM_opcode _ f, rfl, build_encAM _ _ f⟩
  | fence f => cases h; exact ⟨_, _, encFN_opcode _ f, rfl, build_encFN _ _ f⟩
  | br f | bri f | call f | calli f | ret f | jtab f | loop f | scall f | trap f | eret f =>
    cases h; exact ⟨_, _, encBX_opcode _ f, rfl, build_encBX _ _ f⟩
  | _ => cases h

/-! ## Scans of the test access port -/

theorem decodeTap_regaccRead (t : BitVec 8) (id : BitVec 12) :
    decodeTap (t ++ id ++ (0 : BitVec 12) ++ (0 : BitVec 64) ++ (0x20 : BitVec 8)) = .ok (.regaccRead t id) := by
  simp (disch := decide) only [decodeTap, extractLsb'_append_eq_of_le, extractLsb'_append_eq_of_add_le,
    extractLsb'_eq_self, Nat.reduceSub]
  rfl

theorem decodeTap_regaccWrite (t : BitVec 8) (id : BitVec 12) (v : Word) :
    decodeTap (t ++ id ++ (1 : BitVec 12) ++ v ++ (0x20 : BitVec 8)) = .ok (.regaccWrite t id v) := by
  simp (disch := decide) only [decodeTap, extractLsb'_append_eq_of_le, extractLsb'_append_eq_of_add_le,
    extractLsb'_eq_self, Nat.reduceSub]
  rfl

/-- The scan that encodes an instruction of the test access port decodes to it. -/
theorem decodeTap_of_encodeTap {i : Instr} {v : BitVec 104} (h : encodeTap i = some v) : decodeTap v = .ok i := by
  cases i with
  | regaccRead t id => cases h; exact decodeTap_regaccRead t id
  | regaccWrite t id x => cases h; exact decodeTap_regaccWrite t id x
  | extest | idcode | samplePreload | sqhaltStop | sqhaltRelease | bypass => cases h; rfl
  | _ => cases h

end

/-- Settles O54: the opcode of the word selects the format, and the format reads back every field. -/
theorem decodingUndoesEncoding : Obligations.DecodingUndoesEncoding := by
  refine ⟨fun i w hwf h => ?_, fun i v h => decodeTap_of_encodeTap h⟩
  obtain ⟨op, form, hop, hform, hbuild⟩ := encode_builds h
  exact decode_of_build hop hform hbuild hwf

/-- Settles O56, by decoding each word. -/
theorem workedEncodingsDecode : Obligations.WorkedEncodingsDecode := by
  exact ⟨rfl, rfl, rfl, rfl, rfl, rfl, rfl, rfl, rfl, rfl, rfl, rfl⟩

end Sys2Proof
end

section
/-! Facts about the instructions of a block that several statements share: addresses and immediates as integers
(R12, R14, R50), which ids are taken (R19, R132, R136), and which other instructions have fired (R19, R156). -/

namespace Sys2Proof

open Machine

/-! ## Immediates and addresses -/

theorem resultAt_64 (v : Int) : resultAt 64 v = BitVec.ofInt 64 v := BitVec.signExtend_eq _

theorem imm12_eq (i : BitVec 12) : imm12 i = resultAt 64 i.toInt := (resultAt_64 _).symm

/-- A word plus a sign-extended immediate is the word of the integer sum. -/
theorem add_signExtend_eq_ofInt {n : Nat} (l : Word) (i : BitVec n) :
    l + i.signExtend 64 = BitVec.ofInt 64 (l.toInt + i.toInt) := by
  rw [BitVec.ofInt_add, BitVec.ofInt_toInt]
  rfl

theorem loadAddr_eq (l : Word) (f : LS) : l + imm5 f.imm = loadAddr l f := add_signExtend_eq_ofInt l f.imm

theorem storeAddr_eq (l : Word) (f : ST) : l + imm14 f.imm = storeAddr l f := add_signExtend_eq_ofInt l f.imm

/-- The address that an OFF18 names, counted in units of 16 bytes from the header (R12). -/
theorem offTarget_eq (b : Blk) (off : BitVec 18) :
    b.offTarget off = BitVec.ofInt 64 (b.addr.toNat + 16 * off.toInt) := by
  rw [BitVec.ofInt_add, BitVec.ofInt_natCast, BitVec.ofNat_toNat, BitVec.setWidth_eq, Int.mul_comm, BitVec.ofInt_mul]
  rfl

/-- The twelve bits below a shifted operand are free for IMM12, so that setting them adds it (R50). -/
theorem movhiOf_eq (imm : BitVec 12) (l : Word) : movhiOf imm l = resultAt 64 (l.toNat * 2 ^ 12 + imm.toNat) := by
  have hfree : l <<< 12 &&& imm.setWidth 64 = 0 := by
    ext i hi
    by_cases h : i < 12
    · simp [h]
    · simp [BitVec.getLsbD_of_ge imm i (by omega)]
  rw [resultAt_64, movhiOf, ← BitVec.add_eq_or_of_and_eq_zero _ _ hfree]
  apply BitVec.eq_of_toNat_eq
  have := imm.isLt
  simp only [BitVec.toNat_add, BitVec.toNat_shiftLeft, BitVec.toNat_setWidth, BitVec.toNat_ofInt, Nat.shiftLeft_eq]
  omega

/-- RDG in the oldest block reads what the last committed block left (R47). -/
theorem readReg_oldest (x : Seq) (g : Nat) : x.readReg 0 g = some (x.reg g) := rfl

/-! ## Ids that are taken -/

theorem stores_eq_false_iff (e : MemEff) : e.stores = false ↔ ∃ sc p q, e = .fence sc p q := by
  cases e <;> simp [MemEff.stores]

theorem stored_eq_false_iff (b : Blk) (id : Nat) : b.stored id = false ↔ idFree b id := by
  simp only [Blk.stored, List.any_eq_false, Bool.and_eq_true, beq_iff_eq, not_and, Bool.not_eq_true, idFree,
    stores_eq_false_iff]

theorem addMem_of_free {b : Blk} {id : Nat} (h : idFree b id) (ix : Nat) (e : MemEff) :
    b.addMem id ix e = withMem b id ix e := by
  simp only [Blk.addMem, (stored_eq_false_iff b id).2 h]
  rfl

theorem addMem_of_taken {b : Blk} {id : Nat} (h : ¬ idFree b id) (ix : Nat) (e : MemEff) :
    b.addMem id ix e = b.raise ix causeILLINS (BitVec.ofNat 64 ix) := by
  have : b.stored id = true := Bool.not_eq_false _ ▸ mt (stored_eq_false_iff b id).1 h
  simp only [Blk.addMem, this, if_true]
  rfl

/-! ## Other instructions that have fired -/

/-- That another instruction has fired does not depend on whether the one in focus has. -/
theorem otherFired_fire (s : State) (b : Blk) (cls : Nat) (p : Instr → Bool) :
    (b.fire s.curIx cls).otherFired s.curIx p = true ↔ otherFired s b fun i => p i = true := by
  simp [Blk.otherFired, otherFired, Blk.fire, Option.any_eq_true, Blk.instr]

end Sys2Proof
end
section
namespace Sys2Proof

open Machine

/-- R47: RDG in the oldest block. -/
theorem rdg_delivers (s : State) (b : Blk) (f : RD) (h0 : s.curBlk = 0) (h : mayFire s b .always true) :
    exec (.rdg f) s = becomes s (gave s b 0 [f.t1, f.t2] ((s.seq s.cur).reg f.g.toNat)) :=
  fireBlk_fires h (by simp only [h0, readReg_oldest]; rfl)

/-- R49, R50: NULL delivers the null value, MOVI its immediate. -/
theorem null_delivers {s : State} {b : Blk} {f : TB} (h : mayFire s b f.pr false) :
    execNull f s = becomes s ((b.fire s.curIx 0).deliver [f.t1, f.t2] .null) := fireBlk_fires h rfl

theorem movi_delivers {s : State} {b : Blk} {f : TI} (h : mayFire s b f.pr f.a) :
    execMovi f s = becomes s (gave s b 0 [f.t1] (imm12 f.imm)) := fireBlk_fires h rfl

/-- R48: a WRG holds its value for a register that no WRG has written, and raises ILLINS for one that has been. -/
theorem wrg_fires {s : State} {b : Blk} {f : WR} {v : Val} (h : mayFire s b f.pr false)
    (hv : b.slot s.curIx slotL = some v) :
    exec (.wrg f) s = becomes s (if (b.regs.has f.g.toNat) = true then trapped s b 0 causeILLINS (BitVec.ofNat 64 s.curIx)
      else { b.fire s.curIx 0 with regs := b.regs.put f.g.toNat v }) := by
  obtain ⟨hb, hf, hp, ha⟩ := h
  have h' : mayFire s b f.pr (b.wrgAhead s.curIx f.pr) := ⟨hb, hf, hp, .inl (by simpa using ha)⟩
  show execWrg f s = _
  simp only [execWrg, hb]
  refine fireBlk_fires h' ?_
  simp only [hv]
  split <;> rename_i hr <;> simp [Blk.fire] at hr ⊢ <;> simp [hr, trapped, Blk.fire, wd]

/-- Settles O3: each instruction delivers, or holds for its register, the value that its rule gives. -/
theorem movesAndRegisterWrites : Obligations.MovesAndRegisterWrites := by
  refine ⟨⟨rdg_delivers, fun s b f l h hl => fire1_fires h hl, fun s b f h => ?_, fun s b f l h hl => ?_⟩,
    fun s b f v _ h hv => ⟨fun hn => ?_, fun hs => ?_⟩, fun s b f h => null_delivers h⟩
  · exact imm12_eq f.imm ▸ movi_delivers h
  · rw [← movhiOf_eq]
    exact fire1_fires h hl
  · rw [wrg_fires h hv, if_neg (by simp [Tab.has, hn])]
  · rw [wrg_fires h hv, if_pos (by simpa [Tab.has, Option.isSome_iff_ne_none] using hs)]

end Sys2Proof
end

section
/-! Loads, stores, atomics and fences of a block as they fire (R132-R136, R172, R271, R274-R277). -/

namespace Sys2Proof

open Machine

/-- A firing whose operands or checks are not there yet leaves everything. -/
theorem fireWith_waits {s : State} {pr : Pr} {a : Bool} {g : Blk → Option (Blk × (State → State))} {b : Blk}
    (h : mayFire s b pr a) (hg : g b = none) : s.fireWith pr a g = .next s := by
  obtain ⟨hb, -⟩ := h
  simp only [State.fireWith, hb, hg, ite_self]

/-! ## Loads -/

/-- An effect at commit is an atomic's. -/
def Machine.MemEff.isAmo : MemEff → Bool
  | .amo _ _ _ _ _ _ _ _ => true
  | _ => false

theorem isAmo_iff (e : MemEff) : e.isAmo = true ↔ ∃ op va pa k r x ixs ord, e = .amo op va pa k r x ixs ord := by
  cases e <;> simp [MemEff.isAmo]

theorem any_isAmo_iff (b : Blk) (pos a n : Nat) :
    (b.mem.any fun m => m.eff.isAmo && decide (m.lsid < pos) && m.meets a n) = true ↔ lowerAtomicMeets b pos a n := by
  simp only [List.any_eq_true, Bool.and_eq_true, decide_eq_true_eq, isAmo_iff, lowerAtomicMeets, and_assoc]
  exact exists_congr fun m => and_congr_right fun _ => and_left_comm

/-- A FENCE of the block has fired for an id, as a load asks (R19, log entry 18). -/
theorem fenced_load_iff (s : State) (b : Blk) (cls id : Nat) (r : LoadRec) :
    (withLoad (b.fire s.curIx cls) r).fenced s.curIx id false = true ↔ fencedId s b id := by
  refine (otherFired_fire s b cls _).trans ?_
  refine exists_congr fun k => and_congr_right fun _ => and_congr_right fun _ => exists_congr fun i => and_congr_right fun _ => ?_
  cases i <;> simp [loadId, isFence]

/-- What a fired load of a block does where it may deliver: its value, or the trap of check 5, which a run-ahead load
leaves for its block's turn (R134, R147). -/
theorem finishLoad_of_not_ready {s : State} {n : Nat} {b : Blk} {l : LoadRec} (h : s.loadReady b l = false) :
    s.finishLoad n b l = none := by
  simp [State.finishLoad, h]

theorem finishLoad_of_ready {s : State} {n : Nat} {b : Blk} {l : LoadRec} (h : s.loadReady b l = true)
    (hf : s.loadFails b l = false) : s.finishLoad n b l = some (s.deliverLoad b l) := by
  simp [State.finishLoad, h, hf]

theorem finishLoad_of_fails {s : State} {n : Nat} {b : Blk} {l : LoadRec} (h : s.loadReady b l = true)
    (hf : s.loadFails b l = true) :
    s.finishLoad n b l = if n = 0 then some ((b.giveUp l.ix).raise l.ix causeECCU l.va) else none := by
  simp [State.finishLoad, h, hf]

section
variable {s : State} {b : Blk} {f : LS} {sg : Bool} {l : Word} (h : mayFire s b f.pr f.a) (hl : operandAt s b slotL l)
include h hl

theorem fireLoad_traps {e : BitVec 8} (he : s.checkAccess s.cur .read (loadAddr l f) (2 ^ f.wd.toNat) = .error e)
    (h0 : s.curBlk = 0) : s.fireLoad f sg = becomes s (trapped s b 3 e (loadAddr l f)) := by
  have hl : b.operand s.curIx slotL = some l := hl
  exact fireWith_fires (post := id) h (by simp only [hl, loadAddr_eq, he, h0, if_true]; rfl)

theorem fireLoad_error_waits {e : BitVec 8}
    (he : s.checkAccess s.cur .read (loadAddr l f) (2 ^ f.wd.toNat) = .error e) (h0 : s.curBlk ≠ 0) :
    s.fireLoad f sg = .next s := by
  have hl : b.operand s.curIx slotL = some l := hl
  exact fireWith_waits h (by simp only [hl, loadAddr_eq, he, h0, if_false])

variable {pa : Nat} (hpa : accessAt s .read (loadAddr l f) (2 ^ f.wd.toNat) pa)
include hpa

theorem fireLoad_ahead_waits (h0 : s.curBlk ≠ 0)
    (hw : s.aheadWaits s.cur s.curBlk f.lsid.toNat pa (2 ^ f.wd.toNat) = true) : s.fireLoad f sg = .next s := by
  have hl : b.operand s.curIx slotL = some l := hl
  have hpa : s.checkAccess s.cur .read (loadAddr l f) (2 ^ f.wd.toNat) = .ok pa := hpa
  exact fireWith_waits h (by simp [hl, loadAddr_eq, hpa, h0, hw])

/-- A load that need not wait for an older block gives up at an id or bytes that it may not share, and else takes its
place and delivers where it may (R19, R132, R275). -/
theorem fireLoad_passes (hw : s.curBlk = 0 ∨ s.aheadWaits s.cur s.curBlk f.lsid.toNat pa (2 ^ f.wd.toNat) = false) :
    let r := loadRec s f sg (loadAddr l f) pa
    let b' := withLoad (b.fire s.curIx 3) r
    s.fireLoad f sg =
      if (b'.fenced s.curIx f.lsid.toNat false ||
          b'.mem.any fun m => m.eff.isAmo && decide (m.lsid < f.lsid.toNat) && m.meets pa (2 ^ f.wd.toNat)) = true
      then becomes s ((b'.giveUp s.curIx).raise s.curIx causeILLINS (BitVec.ofNat 64 s.curIx))
      else (s.finishLoad s.curBlk b' r).elim (becomes s b') (readsBy s · r) := by
  intro r b'
  have hl : b.operand s.curIx slotL = some l := hl
  have hpa : s.checkAccess s.cur .read (loadAddr l f) (2 ^ f.wd.toNat) = .ok pa := hpa
  have hw : (s.curBlk != 0 && s.aheadWaits s.cur s.curBlk f.lsid.toNat pa (2 ^ f.wd.toNat)) = false := by
    rcases hw with hw | hw <;> simp [hw]
  split
  next hc =>
    refine fireWith_fires (post := id) h ?_
    simp only [hl, loadAddr_eq, hpa, hw, Bool.false_eq_true, if_false]
    exact if_pos hc
  next hc =>
    cases hd : s.finishLoad s.curBlk b' r with
    | none =>
      refine fireWith_fires (post := id) h ?_
      simp only [hl, loadAddr_eq, hpa, hw, Bool.false_eq_true, if_false]
      refine (if_neg hc).trans ?_
      change (match s.finishLoad s.curBlk b' r with | some _ => _ | none => _) = _
      rw [hd]; rfl
    | some d =>
      refine fireWith_fires (post := fun t => (t.countLoad s.cur d r).afterRead s.cur s.curBlk r) h ?_
      simp only [hl, loadAddr_eq, hpa, hw, Bool.false_eq_true, if_false]
      refine (if_neg hc).trans ?_
      change (match s.finishLoad s.curBlk b' r with | some _ => _ | none => _) = _
      rw [hd]; rfl

/-- The id of a fired FENCE, and bytes that a lower atomic changes, are closed to a load. -/
theorem fireLoad_meets (hw : s.curBlk = 0 ∨ s.aheadWaits s.cur s.curBlk f.lsid.toNat pa (2 ^ f.wd.toNat) = false)
    (hm : fencedId s b f.lsid.toNat ∨ lowerAtomicMeets b f.lsid.toNat pa (2 ^ f.wd.toNat)) :
    s.fireLoad f sg = becomes s (((withLoad (b.fire s.curIx 3) (loadRec s f sg (loadAddr l f) pa)).giveUp s.curIx).raise
      s.curIx causeILLINS (BitVec.ofNat 64 s.curIx)) := by
  rw [fireLoad_passes h hl hpa hw, if_pos]
  rw [Bool.or_eq_true]
  exact hm.imp (fenced_load_iff s b 3 _ _).2 (any_isAmo_iff b _ _ _).2

theorem fireLoad_free (hw : s.curBlk = 0 ∨ s.aheadWaits s.cur s.curBlk f.lsid.toNat pa (2 ^ f.wd.toNat) = false)
    (hf : ¬ fencedId s b f.lsid.toNat) (hm : ¬ lowerAtomicMeets b f.lsid.toNat pa (2 ^ f.wd.toNat)) :
    let r := loadRec s f sg (loadAddr l f) pa
    let b' := withLoad (b.fire s.curIx 3) r
    s.fireLoad f sg = (s.finishLoad s.curBlk b' r).elim (becomes s b') (readsBy s · r) := by
  intro r b'
  rw [fireLoad_passes h hl hpa hw, if_neg]
  rw [Bool.or_eq_true]
  exact not_or_intro (mt (fenced_load_iff s b 3 _ _).1 hf) (mt (any_isAmo_iff b _ _ _).1 hm)

end

/-- ACCESS_PERFORMED finishes the load where it may (R311). -/
theorem accessPerformed_eq {s : State} {q n ix : Nat} {b : Blk} {l : LoadRec} (hb : s.blk q n = some b)
    (hl : List.find? (fun (k : LoadRec) => k.ix == ix && !k.done) b.loads = some l) :
    exec (.accessPerformed q n ix) s = .next ((s.finishLoad n b l).elim s fun d =>
      ((s.setBlk q n d).countLoad q b l).afterRead q n l) := by
  show execAccessPerformed q n ix s = _
  simp only [execAccessPerformed, hb, hl]
  cases s.finishLoad n b l <;> rfl

theorem exec_load {c : LS → Instr} {sg : Bool} (hc : c = .ld ∧ sg = false ∨ c = .lds ∧ sg = true) (f : LS) (s : State) :
    exec (c f) s = s.fireLoad f sg := by
  rcases hc with ⟨rfl, rfl⟩ | ⟨rfl, rfl⟩ <;> rfl

/-- Settles O9: the cases of a load's firing, and of its delivery. -/
theorem loadsDeliver : Obligations.LoadsDeliver := by
  refine ⟨fun c sg hc s b f l h hl => ?_, fun s q n ix b l hb hl => ⟨fun hn => ?_, fun d hd => ?_, finishLoad_of_ready⟩⟩
  · rw [exec_load hc]
    refine ⟨fun e he => ⟨fireLoad_traps h hl he, fireLoad_error_waits h hl he⟩, fun pa hpa =>
      ⟨fireLoad_ahead_waits h hl hpa, fun hw => ⟨fireLoad_meets h hl hpa hw, fun hf hm => ?_⟩⟩⟩
    rw [fireLoad_free h hl hpa hw hf hm]
    refine ⟨fun hr => ?_, fun hr => ⟨fun hn => ?_, fun hn => ⟨fun h0 => ?_, fun h0 => ?_⟩⟩⟩
    · rw [finishLoad_of_not_ready hr]; rfl
    · rw [finishLoad_of_ready hr hn]; rfl
    · rw [finishLoad_of_fails hr hn, if_pos h0]; rfl
    · rw [finishLoad_of_fails hr hn, if_neg h0]; rfl
  · rw [accessPerformed_eq hb hl, hn]; rfl
  · rw [accessPerformed_eq hb hl, hd]; rfl

/-! ## Stores and fences -/

section
variable {s : State} {b : Blk} {f : ST} {l r : Word}

theorem st_passes (h : mayFire s b f.pr false) (hl : operandAt s b slotL l) (hr : operandAt s b slotR r) {pa : Nat}
    (hpa : accessAt s .write (storeAddr l f) (2 ^ f.wd.toNat) pa) :
    exec (.st f) s = storesAt s ((b.fire s.curIx 4).addMem f.lsid.toNat s.curIx
      (.store (storeAddr l f) (BitVec.ofNat 64 pa) (bytesOf (2 ^ f.wd.toNat) r.toNat))) pa (2 ^ f.wd.toNat) := by
  have hl : b.operand s.curIx slotL = some l := hl
  have hr : b.operand s.curIx slotR = some r := hr
  have hpa : s.checkAccess s.cur .write (storeAddr l f) (2 ^ f.wd.toNat) = .ok pa := hpa
  exact fireWith_fires (post := fun t => t.afterStore s.cur pa (2 ^ f.wd.toNat)) h
    (by simp only [hl, hr, storeAddr_eq, hpa]; rfl)

theorem st_fails (h : mayFire s b f.pr false) (hl : operandAt s b slotL l) (hr : operandAt s b slotR r) {e : BitVec 8}
    (he : s.checkAccess s.cur .write (storeAddr l f) (2 ^ f.wd.toNat) = .error e) :
    exec (.st f) s = becomes s ((trapped s b 4 e (storeAddr l f)).addMem f.lsid.toNat s.curIx .none) := by
  have hl : b.operand s.curIx slotL = some l := hl
  have hr : b.operand s.curIx slotR = some r := hr
  exact fireWith_fires (post := id) h (by simp only [hl, hr, storeAddr_eq, he]; rfl)

theorem snul_fires (h : mayFire s b f.pr false) :
    execSnul f s = becomes s ((b.fire s.curIx 0).addMem f.lsid.toNat s.curIx .none) := fireBlk_fires h rfl

end

/-- A FENCE or a load of the block has fired for an id, as a FENCE asks (R19, log entry 18). -/
theorem fenced_fence_iff (s : State) (b : Blk) (id : Nat) : b.fenced s.curIx id true = true ↔ loadedId s b id := by
  simp [Blk.fenced, Blk.otherFired, loadedId, otherFired, Option.any_eq_true]

theorem fence_fires {s : State} {b : Blk} {f : FN} (h : mayFire s b .always false) :
    exec (.fence f) s = becomes s (if b.fenced s.curIx f.lsid.toNat true = true
      then trapped s b 8 causeILLINS (BitVec.ofNat 64 s.curIx)
      else withMem (b.fire s.curIx 8) f.lsid.toNat s.curIx (.fence f.scope f.pred f.succ)) := by
  refine fireBlk_fires h ?_
  split <;> rename_i hc <;> simp only [hc, if_true, if_false, Bool.false_eq_true] <;> rfl

/-- Settles O11: each takes its place where its id is free, and raises ILLINS where it is not. -/
theorem storesAreHeld : Obligations.StoresAreHeld := by
  refine ⟨fun s b f l r h hl hr => ⟨fun pa hpa => ⟨fun hi => ?_, fun hi => ?_⟩, fun e he => ⟨fun hi => ?_, fun hi => ?_⟩⟩,
    fun s b f h => ⟨fun hi => ?_, fun hi => ?_⟩, fun s b f h => ⟨fun hi => ?_, fun hi => ?_⟩⟩
  · rw [st_passes h hl hr hpa, addMem_of_free (b := b.fire s.curIx 4) hi]
  · rw [st_passes h hl hr hpa, addMem_of_taken (b := b.fire s.curIx 4) hi]; rfl
  · rw [st_fails h hl hr he, addMem_of_free (b := trapped s b 4 e _) hi]
  · rw [st_fails h hl hr he, addMem_of_taken (b := trapped s b 4 e _) hi]
  · exact (snul_fires h).trans (by rw [addMem_of_free (b := b.fire s.curIx 0) hi])
  · exact (snul_fires h).trans (by rw [addMem_of_taken (b := b.fire s.curIx 0) hi]; rfl)
  · rw [fence_fires h, if_pos ((fenced_fence_iff s b _).2 hi)]
  · rw [fence_fires h, if_neg (mt (fenced_fence_iff s b _).1 hi)]

end Sys2Proof
end

section
/-! Atomics as they fire, and what they write (R271, R274, R275). -/

namespace Sys2Proof

open Machine

/-! ## Firing -/

/-- A fired load of a higher position that an atomic of n bytes overlaps (R275). -/
def amoHits (pos pa n : Nat) (k : LoadRec) : Bool := pos < k.lsid && overlaps pa n k.pa.toNat k.n

/-- A load gives up and raises ILLINS on itself. -/
def giveUpRaise (b : Blk) (k : LoadRec) : Blk := (b.giveUp k.ix).raise k.ix causeILLINS (BitVec.ofNat 64 k.ix)

section
variable {s : State} {b : Blk} {f : AM} {op : AmoOp} {l r x : Word} (h : mayFire s b f.pr false)
  (hl : operandAt s b slotL l) (hr : operandAt s b slotR r) (hx : if op = .cas then operandAt s b slotX x else x = 0)

include hx in
/-- The operand x of an atomic, of CMPSWP alone. -/
theorem amo_third_operand : (if (op == .cas) = true then b.operand s.curIx slotX else some 0) = some x := by
  by_cases hc : op = .cas
  · simpa [hc, operandAt] using hx
  · have : x = 0 := by simpa [hc] using hx
    simp [hc, this]

/-- What an atomic holds for the commit. -/
def amoEff (f : AM) (op : AmoOp) (l r x : Word) (pa : Nat) : MemEff :=
  .amo op l (BitVec.ofNat 64 pa) (if f.w then 8 else 4) r x (if f.t1 = noTarget then [] else [f.t1.toNat / 4]) f.ord

include h hl hr hx

/-- An atomic whose checks pass: the loads that it overlaps give up once it has taken its id. -/
theorem fireAmo_passes {pa : Nat} (hpa : accessAt s .both l (if f.w then 8 else 4) pa) :
    let b' := (b.fire s.curIx 5).addMem f.lsid.toNat s.curIx (amoEff f op l r x pa)
    s.fireAmo f op = storesAt s (((b'.loads.filter (amoHits f.lsid.toNat pa (if f.w then 8 else 4))).foldl giveUpRaise b').deliver
      [f.t1] .null) pa (if f.w then 8 else 4) := by
  intro b'
  have hl : b.operand s.curIx slotL = some l := hl
  have hr : b.operand s.curIx slotR = some r := hr
  have hok : s.checkAccess s.cur .both l (if f.w = true then 8 else 4) = .ok pa := hpa
  refine fireWith_fires (post := fun t => t.afterStore s.cur pa (if f.w = true then 8 else 4)) h ?_
  simp only [hl, hr, amo_third_operand hx, hok, List.foldl_filter]
  rfl

theorem fireAmo_free {pa : Nat} (hpa : accessAt s .both l (if f.w then 8 else 4) pa) (hi : idFree b f.lsid.toNat)
    {hits : List LoadRec} (hh : b.loads.filter (amoHits f.lsid.toNat pa (if f.w then 8 else 4)) = hits) :
    s.fireAmo f op = storesAt s ((hits.foldl giveUpRaise
      (withMem (b.fire s.curIx 5) f.lsid.toNat s.curIx (amoEff f op l r x pa))).deliver [f.t1] .null) pa (if f.w then 8 else 4) := by
  rw [fireAmo_passes h hl hr hx hpa, addMem_of_free (b := b.fire s.curIx 5) hi, ← hh]
  rfl

theorem fireAmo_taken {pa : Nat} (hpa : accessAt s .both l (if f.w then 8 else 4) pa) (hi : ¬ idFree b f.lsid.toNat)
    {hits : List LoadRec} (hh : b.loads.filter (amoHits f.lsid.toNat pa (if f.w then 8 else 4)) = hits) :
    s.fireAmo f op = storesAt s ((hits.foldl giveUpRaise
      (trapped s b 5 causeILLINS (BitVec.ofNat 64 s.curIx))).deliver [f.t1] .null) pa (if f.w then 8 else 4) := by
  rw [fireAmo_passes h hl hr hx hpa, addMem_of_taken (b := b.fire s.curIx 5) hi, ← hh]
  rfl

/-- An atomic whose address fails its check traps, and stores its id all the same (R134, R156). -/
theorem fireAmo_fails {e : BitVec 8} (he : s.checkAccess s.cur .both l (if f.w then 8 else 4) = .error e) :
    s.fireAmo f op = becomes s ((trapped s b 5 e l).addMem f.lsid.toNat s.curIx .none) := by
  have hl : b.operand s.curIx slotL = some l := hl
  have hr : b.operand s.curIx slotR = some r := hr
  refine fireWith_fires (post := id) h ?_
  simp only [hl, hr, amo_third_operand hx, he]
  rfl

end

/-! ## What an atomic writes -/

theorem signedOf_mod (n v : Nat) : signedOf n (v % 2 ^ n) = signedOf n v := by
  simp only [signedOf, Nat.mod_mod]

/-- The pattern of a number's two's complement reading is the number's low bits. -/
theorem patOf_signedOf (n v : Nat) : patOf n (signedOf n v) = v % 2 ^ n := by
  simp only [patOf, signedOf]
  split
  · rw [← Int.natCast_emod, Int.toNat_natCast, Nat.mod_mod]
  · rw [Int.sub_emod_right, ← Int.natCast_emod, Int.toNat_natCast, Nat.mod_mod]

/-- The lesser and the greater of two numbers by their two's complement readings. -/
theorem patOf_min {n a b : Nat} (ha : a < 2 ^ n) :
    patOf n (min (signedOf n a) (signedOf n b)) =
      if signedOf n a ≤ signedOf n (b % 2 ^ n) then a else b % 2 ^ n := by
  rw [signedOf_mod, Int.min_def]
  split
  · rw [patOf_signedOf, Nat.mod_eq_of_lt ha]
  · rw [patOf_signedOf]

theorem patOf_max {n a b : Nat} (ha : a < 2 ^ n) :
    patOf n (max (signedOf n a) (signedOf n b)) =
      if signedOf n a ≤ signedOf n (b % 2 ^ n) then b % 2 ^ n else a := by
  rw [signedOf_mod, Int.max_def]
  split
  · rw [patOf_signedOf]
  · rw [patOf_signedOf, Nat.mod_eq_of_lt ha]

theorem exec_atomic {c : AM → Instr} {op : AmoOp}
    (hc : c = .amoadd ∧ op = .add ∨ c = .amoswp ∧ op = .swp ∨ c = .amocas ∧ op = .cas ∨ c = .amomin ∧ op = .min ∨
      c = .amomax ∧ op = .max ∨ c = .amoand ∧ op = .and ∨ c = .amoor ∧ op = .or) (f : AM) (s : State) :
    exec (c f) s = s.fireAmo f op := by
  rcases hc with ⟨rfl, rfl⟩ | ⟨rfl, rfl⟩ | ⟨rfl, rfl⟩ | ⟨rfl, rfl⟩ | ⟨rfl, rfl⟩ | ⟨rfl, rfl⟩ | ⟨rfl, rfl⟩ <;> rfl

/-- Settles O12: the loads that give up are those of its block that the atomic overlaps, and its result is that of its
operation on the old value and the low bytes of its operands. -/
theorem atomics : Obligations.Atomics := by
  refine ⟨fun c op hc s b f l r x h hl hr hx => ?_, fun n old r x hn hold => ?_⟩
  · intro n ill held hit
    have hex : exec (c f) s = s.fireAmo f op := exec_atomic hc f s
    have hhit (pa : Nat) (k : LoadRec) : amoHits f.lsid.toNat pa n k = true ↔ hit pa k := by
      simp [amoHits, hit]
    refine ⟨fun pa hpa => ⟨fun hno => ?_, fun k before rest hk hhk hrest hi => ?_⟩, fun e he => ?_⟩
    · have hnone : b.loads.filter (amoHits f.lsid.toNat pa n) = [] :=
        List.filter_eq_nil_iff.2 fun k hk => mt (hhit pa k).1 (hno k hk)
      rw [hex]
      exact ⟨fun hi => (fireAmo_free h hl hr hx hpa hi hnone).trans (by rw [List.foldl_nil]; rfl),
        fun hi => (fireAmo_taken h hl hr hx hpa hi hnone).trans (by rw [List.foldl_nil])⟩
    · have hone : b.loads.filter (amoHits f.lsid.toNat pa n) = [k] := by
        have hb : before.filter (amoHits f.lsid.toNat pa n) = [] :=
          List.filter_eq_nil_iff.2 fun j hj => mt (hhit pa j).1 (hrest j (List.mem_append_left _ hj))
        have hr : rest.filter (amoHits f.lsid.toNat pa n) = [] :=
          List.filter_eq_nil_iff.2 fun j hj => mt (hhit pa j).1 (hrest j (List.mem_append_right _ hj))
        rw [hk, List.filter_append, hb, List.filter_cons_of_pos ((hhit pa k).2 hhk), hr, List.nil_append]
      rw [hex, fireAmo_free h hl hr hx hpa hi hone, List.foldl_cons, List.foldl_nil]
      rfl
    · rw [hex, fireAmo_fails h hl hr hx he]
      exact ⟨fun hi => by rw [addMem_of_free (b := trapped s b 5 e l) hi],
        fun hi => by rw [addMem_of_taken (b := trapped s b 5 e l) hi]⟩
  · intro rn
    refine ⟨?_, rfl, rfl, ?_, ?_, ⟨_, rfl, fun i hi => ?_⟩, ⟨_, rfl, fun i hi => ?_⟩⟩
    · simp only [amoResult, rn, Nat.add_mod_mod]
    · exact congrArg some (patOf_min hold)
    · exact congrArg some (patOf_max hold)
    · simp [hi]
    · simp [hi]

end Sys2Proof
end

section
/-! The exits of a block as they fire (R12, R19, R51, R137-R144): the checks of a target, the first exit and a second one,
and the table reads of JTAB. -/

namespace Sys2Proof

open Machine

/-! ## The checks of a target (R137) -/

theorem bitsOf_52_12 (t : Word) : bitsOf t 52 12 = t.toNat / 2 ^ 52 := by
  rw [bitsOf, BitVec.extractLsb'_toNat, Nat.shiftRight_eq_div_pow, Nat.mod_eq_of_lt]
  have := t.isLt
  omega

theorem checkTarget_good {t : Word} (h : goodTarget t) : checkTarget t = none := by
  obtain ⟨ha, hb⟩ := h
  simp only [checkTarget, ha, bitsOf_52_12, Nat.div_eq_of_lt hb, bne_self_eq_false, Bool.false_eq_true, if_false]

theorem checkTarget_unaligned {t : Word} (h : t &&& 0xF ≠ 0) : checkTarget t = some causeALIGN := by
  simp only [checkTarget, bne_iff_ne, ne_eq, h, not_false_eq_true, if_true]

theorem checkTarget_beyond {t : Word} (ha : t &&& 0xF = 0) (hb : 2 ^ 52 ≤ t.toNat) : checkTarget t = some causeACCESS := by
  have : t.toNat / 2 ^ 52 ≠ 0 := by omega
  simp only [checkTarget, ha, bitsOf_52_12, bne_self_eq_false, Bool.false_eq_true, if_false, bne_iff_ne.2 this, if_true]

/-! ## Leaving -/

section
variable {s : State} {b : Blk} (c : Blk) (hf : c.fired = s.curIx :: b.fired) (hw : c.words = b.words)
include hf hw

theorem otherFired_exit_iff : (c.otherFired s.curIx fun i => (exitOf i).isSome) = true ↔ exitFired s b := by
  simp [Blk.otherFired, exitFired, otherFired, hf, Option.any_eq_true, Blk.instr, hw]

/-- The first exit of a block leaves it. -/
theorem leave_first (he : ¬ exitFired s b) (x : BitVec 3) (k : ExitKind) (t : Word) (back : Bool) :
    c.leave ⟨x.toNat, s.curIx, k, t, back⟩ = withExit c x s.curIx k t back :=
  if_neg (mt (otherFired_exit_iff c hf hw).1 he)

/-- A second exit raises ILLINS on itself. -/
theorem leave_second (he : exitFired s b) (x : BitVec 3) (k : ExitKind) (t : Word) (back : Bool) :
    c.leave ⟨x.toNat, s.curIx, k, t, back⟩ = c.raise s.curIx causeILLINS (BitVec.ofNat 64 s.curIx) :=
  if_pos ((otherFired_exit_iff c hf hw).2 he)

end

theorem leaveTo_good {t : Word} (h : goodTarget t) (c : Blk) (x : BitVec 3) (ix : Nat) (k : ExitKind) :
    c.leaveTo x ix k t = c.leave ⟨x.toNat, ix, k, t, false⟩ := by
  simp only [Blk.leaveTo, checkTarget_good h]

theorem leaveTo_bad {t : Word} {e : BitVec 8} (h : checkTarget t = some e) (c : Blk) (x : BitVec 3) (ix : Nat)
    (k : ExitKind) : c.leaveTo x ix k t = c.raise ix e t := by
  simp only [Blk.leaveTo, h]

theorem leaveCall_good {t : Word} (h : goodTarget t) {depth : Nat} (hd : depth < 32) (c : Blk) (x : BitVec 3) (ix : Nat) :
    c.leaveCall depth x ix t = c.leave ⟨x.toNat, ix, .call, t, false⟩ := by
  simp only [Blk.leaveCall, checkTarget_good h, ge_iff_le, Nat.not_le.2 hd, if_false]

theorem leaveCall_deep {t : Word} (h : goodTarget t) {depth : Nat} (hd : 32 ≤ depth) (c : Blk) (x : BitVec 3) (ix : Nat) :
    c.leaveCall depth x ix t = c.raise ix causeCALLDEPTH t := by
  simp only [Blk.leaveCall, checkTarget_good h, ge_iff_le, hd, if_true]

theorem leaveCall_bad {t : Word} {e : BitVec 8} (h : checkTarget t = some e) (depth : Nat) (c : Blk) (x : BitVec 3)
    (ix : Nat) : c.leaveCall depth x ix t = c.raise ix e t := by
  simp only [Blk.leaveCall, h]

/-! ## The instructions -/

section
variable {s : State} {b : Blk} {f : BX} (h : mayFire s b f.pr false)
include h

theorem br_fires : execBr f s = becomes s ((b.fire s.curIx 6).leave
    ⟨f.x.toNat, s.curIx, .go, BitVec.ofInt 64 (b.addr.toNat + 16 * f.off.toInt), false⟩) :=
  offTarget_eq b f.off ▸ fireBlk_fires h rfl

theorem loop_fires : execLoop f s = becomes s ((b.fire s.curIx 6).leave
    ⟨f.x.toNat, s.curIx, .loop, BitVec.ofInt 64 (b.addr.toNat + 16 * f.off.toInt), decide (f.off.toInt ≤ 0)⟩) :=
  offTarget_eq b f.off ▸ fireBlk_fires h rfl

theorem scall_fires : execScall f s = becomes s ((b.fire s.curIx 6).leave
    ⟨f.x.toNat, s.curIx, .scall (f.off.toNat % 4096), 0, false⟩) := fireBlk_fires h rfl

theorem trap_fires : execTrap f s = becomes s ((b.fire s.curIx 6).leave
    ⟨f.x.toNat, s.curIx, .trap (f.off.toNat % 4096), 0, false⟩) := fireBlk_fires h rfl

theorem call_fires : execCall f s = becomes s ((b.fire s.curIx 6).leaveCall (s.seq s.cur).ras.length f.x s.curIx
    (BitVec.ofInt 64 (b.addr.toNat + 16 * f.off.toInt))) :=
  offTarget_eq b f.off ▸ fireBlk_fires h rfl

theorem bri_fires {l : Word} (hl : operandAt s b slotL l) :
    execBri f s = becomes s ((b.fire s.curIx 6).leaveTo f.x s.curIx .go l) := by
  have hl : b.operand s.curIx slotL = some l := hl
  exact fireBlk_fires h (by simp only [hl])

theorem calli_fires {l : Word} (hl : operandAt s b slotL l) : execCalli f s =
    becomes s ((b.fire s.curIx 6).leaveCall (s.seq s.cur).ras.length f.x s.curIx l) := by
  have hl : b.operand s.curIx slotL = some l := hl
  exact fireBlk_fires h (by simp only [hl])

theorem ret_fires {a : Word} {rest : List Word} (ha : (s.seq s.cur).ras = a :: rest) :
    execRet f s = becomes s ((b.fire s.curIx 6).leaveTo f.x s.curIx .ret a) :=
  fireBlk_fires h (by simp only [ha])

theorem ret_empty (ha : (s.seq s.cur).ras = []) : execRet f s = becomes s (trapped s b 6 causeRETEMPTY 0) :=
  fireBlk_fires h (by simp only [ha]; rfl)

theorem eret_fires : execEret f s = becomes s ((b.fire s.curIx 6).leaveTo f.x s.curIx .eret (s.seq s.cur).epc) :=
  fireBlk_fires h rfl

end

/-! ## Jump tables (R141) -/

theorem readTable_of_error {s : State} {b : Blk} {va : Word} {e : BitVec 8}
    (h : s.checkAccess s.cur .read va 8 = .error e) : s.readTable b va = .trap e := by
  simp only [State.readTable, h]

section
variable {s : State} {b : Blk} {va : Word} {pa : Nat} (hpa : accessAt s .read va 8 pa)
include hpa

theorem readTable_of_access : s.readTable b va =
    if s.loadReady b (tableRec s va pa 0) = false then .wait
    else if s.loadFails b (tableRec s va pa 0) = true then .trap causeECCU
    else .ok (tableRec s va pa (BitVec.ofNat 64 (numOf (s.loadBytes b (tableRec s va pa 0))))) := by
  have hpa : s.checkAccess s.cur .read va 8 = .ok pa := hpa
  simp only [State.readTable, hpa, Bool.not_eq_true']
  rfl

end

theorem readTable_of_gives {s : State} {b : Blk} {va : Word} {r : LoadRec} (h : tableGives s b va r) :
    s.readTable b va = .ok r := by
  obtain ⟨pa, hpa, hready, hgood, rfl⟩ := h
  rw [readTable_of_access hpa, if_neg (Bool.not_eq_false _ ▸ hready), if_neg (Bool.not_eq_true _ ▸ hgood)]

section
variable {s : State} {b : Blk} {f : BX} {l r : Word} (h : mayFire s b f.pr false) (hl : operandAt s b slotL l)
  (hr : operandAt s b slotR r)
include h hl hr

theorem jtab_waits (ht : s.readTable b l = .wait) : exec (.jtab f) s = .next s := by
  have hl : b.operand s.curIx slotL = some l := hl
  have hr : b.operand s.curIx slotR = some r := hr
  exact fireWith_waits h (by simp only [hl, hr, ht])

theorem jtab_traps {e : BitVec 8} (ht : s.readTable b l = .trap e) :
    exec (.jtab f) s = becomes s (trapped s b 6 e l) := by
  have hl : b.operand s.curIx slotL = some l := hl
  have hr : b.operand s.curIx slotR = some r := hr
  exact fireWith_fires (post := id) h (by simp only [hl, hr, ht]; rfl)

variable {t1 : LoadRec} (ht : s.readTable b l = .ok t1)
include ht

/-- An index beyond the table takes the exit's own offset. -/
theorem jtab_beyond (hc : t1.value.toNat % 2 ^ 32 ≤ r.toNat) :
    exec (.jtab f) s = becomesThen s ((withLoad (b.fire s.curIx 6) t1).leave
      ⟨f.x.toNat, s.curIx, .go, BitVec.ofInt 64 (b.addr.toNat + 16 * f.off.toInt), false⟩)
      fun t => t.afterRead s.cur 0 t1 := by
  have hl : b.operand s.curIx slotL = some l := hl
  have hr : b.operand s.curIx slotR = some r := hr
  rw [← offTarget_eq]
  exact fireWith_fires (post := fun t => t.afterRead s.cur 0 t1) h (by simp only [hl, hr, ht, ge_iff_le, hc, if_true]; rfl)

variable (hc : r.toNat < t1.value.toNat % 2 ^ 32)
include hc

theorem jtab_entry_traps {e : BitVec 8} (ht2 : s.readTable b (l + 8 + 8 * r) = .trap e) :
    exec (.jtab f) s = becomesThen s ((withLoad (b.fire s.curIx 6) t1).raise s.curIx e (l + 8 + 8 * r))
      fun t => t.afterRead s.cur 0 t1 := by
  have hl : b.operand s.curIx slotL = some l := hl
  have hr : b.operand s.curIx slotR = some r := hr
  exact fireWith_fires (post := fun t => t.afterRead s.cur 0 t1) h
    (by simp only [hl, hr, ht, ge_iff_le, Nat.not_le.2 hc, if_false, ht2]; rfl)

theorem jtab_entry {t2 : LoadRec} (ht2 : s.readTable b (l + 8 + 8 * r) = .ok t2) :
    exec (.jtab f) s = becomesThen s ((withLoad (withLoad (b.fire s.curIx 6) t1) t2).leaveTo f.x s.curIx .go t2.value)
      fun t => (t.afterRead s.cur 0 t1).afterRead s.cur 0 t2 := by
  have hl : b.operand s.curIx slotL = some l := hl
  have hr : b.operand s.curIx slotR = some r := hr
  exact fireWith_fires (post := fun t => (t.afterRead s.cur 0 t1).afterRead s.cur 0 t2) h
    (by simp only [hl, hr, ht, ge_iff_le, Nat.not_le.2 hc, if_false, ht2]; rfl)

end

/-! ## The obligation -/

section
variable {s : State} {b : Blk} {f : BX} (h : mayFire s b f.pr false)
include h

/-- An exit that passes its own checks does to the block what leaving by its target does. -/
theorem exits_leave {out : ExitKind → Word → Bool → Blk}
    (hout : ∀ k t back, (b.fire s.curIx 6).leave ⟨f.x.toNat, s.curIx, k, t, back⟩ = out k t back) :
    let off : Word := BitVec.ofInt 64 (b.addr.toNat + 16 * f.off.toInt)
    let ras := (s.seq s.cur).ras
    exec (.br f) s = becomes s (out .go off false) ∧
    exec (.loop f) s = becomes s (out .loop off (decide (f.off.toInt ≤ 0))) ∧
    exec (.scall f) s = becomes s (out (.scall (f.off.toNat % 4096)) 0 false) ∧
    exec (.trap f) s = becomes s (out (.trap (f.off.toNat % 4096)) 0 false) ∧
    (goodTarget off → ras.length < 32 → exec (.call f) s = becomes s (out .call off false)) ∧
    (∀ l, operandAt s b slotL l → goodTarget l → exec (.bri f) s = becomes s (out .go l false) ∧
      (ras.length < 32 → exec (.calli f) s = becomes s (out .call l false))) ∧
    (∀ a rest, ras = a :: rest → goodTarget a → exec (.ret f) s = becomes s (out .ret a false)) ∧
    (goodTarget (s.seq s.cur).epc → exec (.eret f) s = becomes s (out .eret (s.seq s.cur).epc false)) := by
  intro off ras
  refine ⟨hout _ _ _ ▸ br_fires h, hout _ _ _ ▸ loop_fires h, hout _ _ _ ▸ scall_fires h, hout _ _ _ ▸ trap_fires h,
    fun hg hd => (call_fires h).trans ?_, fun l hl hg => ⟨(bri_fires h hl).trans ?_, fun hd => (calli_fires h hl).trans ?_⟩,
    fun a rest ha hg => (ret_fires h ha).trans ?_, fun hg => (eret_fires h).trans ?_⟩
  · rw [leaveCall_good hg hd, hout]
  · rw [leaveTo_good hg, hout]
  · rw [leaveCall_good hg hd, hout]
  · rw [leaveTo_good hg, hout]
  · rw [leaveTo_good hg, hout]

/-- The target of RET and of ERET that fails a check keeps the exit from leaving. -/
theorem return_bad {i : BX → Instr} {a : Word} {e : BitVec 8}
    (hi : (i = .ret ∧ ∃ rest, (s.seq s.cur).ras = a :: rest) ∨ (i = .eret ∧ a = (s.seq s.cur).epc))
    (ha : checkTarget a = some e) : exec (i f) s = becomes s (trapped s b 6 e a) := by
  rcases hi with ⟨rfl, rest, hr⟩ | ⟨rfl, rfl⟩
  · exact (ret_fires h hr).trans (by rw [leaveTo_bad ha]; rfl)
  · exact (eret_fires h).trans (by rw [leaveTo_bad ha]; rfl)

/-- So does the operand of BRI and of CALLI. -/
theorem branch_bad {l : Word} (hl : operandAt s b slotL l) {e : BitVec 8} (ha : checkTarget l = some e) :
    exec (.bri f) s = becomes s (trapped s b 6 e l) ∧ exec (.calli f) s = becomes s (trapped s b 6 e l) :=
  ⟨(bri_fires h hl).trans (by rw [leaveTo_bad ha]; rfl), (calli_fires h hl).trans (by rw [leaveCall_bad ha]; rfl)⟩

end

/-- Settles O13: a table read or a target that passes its checks leaves, and what does not pass raises its cause. -/
theorem blockExits : Obligations.BlockExits := by
  refine ⟨fun s b f h he => ?_, fun s b f h => ?_⟩
  · intro off out ras
    obtain ⟨hbr, hloop, hscall, htrap, hcall, hbri, hret, heret⟩ := exits_leave h (leave_first (b.fire s.curIx 6) rfl rfl he f.x)
    refine ⟨hbr, hloop, hscall, htrap, hcall, hbri, hret, heret, fun l r t1 hl hr ht => ?_⟩
    intro b1 count
    have ht := readTable_of_gives ht
    refine ⟨fun hc => ?_, fun t2 hc ht2 hg => ?_, fun e hc he => ?_⟩
    · rw [jtab_beyond h hl hr ht hc, leave_first b1 rfl rfl he]
    · rw [jtab_entry h hl hr ht hc (readTable_of_gives ht2), leaveTo_good hg, leave_first (withLoad b1 t2) rfl rfl he]
    · exact jtab_entry_traps h hl hr ht hc (readTable_of_error he)
  · intro tr ras second off
    refine ⟨fun he => exits_leave h (leave_second (b.fire s.curIx 6) rfl rfl he f.x),
      fun hg hd => (call_fires h).trans (by rw [leaveCall_deep hg hd]; rfl),
      fun ha hb => (call_fires h).trans (by rw [leaveCall_bad (checkTarget_beyond ha hb)]; rfl),
      fun i a hi => ⟨fun ha => return_bad h hi (checkTarget_unaligned ha),
        fun ha hb => return_bad h hi (checkTarget_beyond ha hb)⟩,
      fun l r t1 t2 hl hr ht hc ht2 => ?_,
      fun l hl => ⟨fun ha => branch_bad h hl (checkTarget_unaligned ha),
        fun ha hb => branch_bad h hl (checkTarget_beyond ha hb),
        fun hg hd => (calli_fires h hl).trans (by rw [leaveCall_deep hg hd]; rfl)⟩,
      fun l r hl hr => ⟨fun e he => jtab_traps h hl hr (readTable_of_error he), fun pa hpa => ⟨fun hw => ?_, fun hw hf => ?_⟩⟩,
      ret_empty h⟩
    · have entry := jtab_entry h hl hr (readTable_of_gives ht) hc (readTable_of_gives ht2)
      intro stops
      have stop {e : BitVec 8} (hbad : checkTarget t2.value = some e) : stops e := entry.trans (by rw [leaveTo_bad hbad])
      refine ⟨fun he hg => ?_, fun ha => stop (checkTarget_unaligned ha), fun ha hb => stop (checkTarget_beyond ha hb)⟩
      rw [entry, leaveTo_good hg, leave_second (withLoad (withLoad (b.fire s.curIx 6) t1) t2) rfl rfl he]
    · exact jtab_waits h hl hr (by rw [readTable_of_access hpa, if_pos hw])
    · exact jtab_traps h hl hr (by rw [readTable_of_access hpa, if_neg (Bool.not_eq_false _ ▸ hw), if_pos hf])

end Sys2Proof
end

section
/-! The checks of a block (R16, R18): each check of the decoder as the condition on header and words that the spec gives. -/

namespace Sys2Proof

open Machine

/-! ## The header -/

theorem field_toNat (h : BitVec 128) (lo n : Nat) (hn : 0 < n) :
    field h.toNat (lo + n - 1) lo = (h.extractLsb' lo n).toNat := by
  rw [field, BitVec.extractLsb'_toNat, Nat.shiftRight_eq_div_pow, show lo + n - 1 + 1 - lo = n by omega]

theorem field_bne_iff (h : BitVec 128) (lo n : Nat) (hn : 0 < n) (v : BitVec n) :
    (field h.toNat (lo + n - 1) lo != v.toNat) = true ↔ h.extractLsb' lo n ≠ v := by
  rw [field_toNat h lo n hn, bne_iff_ne, ne_eq, BitVec.toNat_inj]

theorem toNat_testBit (h : BitVec 128) (i : Nat) : h.toNat.testBit i = h.getLsbD i := rfl

/-! ## Words as the checks see them -/

theorem decode_of_rawOf_none {w : BitVec 32} (h : rawOf w = none) (i : Instr) : decode w ≠ .ok i := by
  have h : formOf (w.extractLsb' 24 8).toNat = none := by simpa [rawOf] using h
  simp only [decode, h, ne_eq, reduceCtorEq, not_false_eq_true]

theorem ins_of_rawOf {w : BitVec 32} {r : Raw} (h : rawOf w = some r) : r.ins = (decode w).toOption := by
  obtain ⟨f, -, rfl⟩ := Option.map_eq_some_iff.1 h
  rfl

theorem toOption_eq_some_iff {ε α : Type} (x : Except ε α) (a : α) : x.toOption = some a ↔ x = .ok a := by
  cases x <;> simp [Except.toOption]

theorem raws_getD (ws : List (BitVec 32)) (k : Nat) (r : Raw) :
    ((ws.map rawOf)[k]?).getD none = some r ↔ rawAt ws k r := by
  rw [List.getElem?_map, rawAt]
  cases ws[k]? <;> simp

theorem producers_iff (ws : List (BitVec 32)) (k sl : Nat) (p : Raw) :
    p ∈ producers (ws.map rawOf) k sl ↔ producesFor ws k sl p := by
  simp only [producers, List.mem_filterMap, List.mem_map, producesFor]
  constructor
  · rintro ⟨_, ⟨w, hw, rfl⟩, h⟩
    cases hr : rawOf w with
    | none => simp [hr] at h
    | some r =>
      simp only [hr, List.contains_iff_mem, Option.ite_none_right_eq_some, Option.some.injEq] at h
      obtain ⟨ht, rfl⟩ := h
      exact ⟨w, hw, hr, ht⟩
  · rintro ⟨w, hw, hr, ht⟩
    exact ⟨some p, ⟨w, hw, hr⟩, by simp [ht]⟩

theorem badTarget_iff (ws : List (BitVec 32)) (k : Nat) (r : Raw) (t : Nat) :
    badTarget (ws.map rawOf) k r t = true ↔ t / 4 = k ∨ (∀ c, ¬ rawAt ws (t / 4) c) ∨
      ∃ c, rawAt ws (t / 4) c ∧ (t % 4 ∉ c.slots ∨ wrgOnly r.kind = true ∧ ¬ (isWrg c.kind = true ∧ t % 4 = slotL)) := by
  simp only [← raws_getD, badTarget, Bool.or_eq_true, decide_eq_true_eq]
  refine or_congr_right ?_
  cases ((ws.map rawOf)[t / 4]?).getD none with
  | none => simp
  | some c => simp [-not_and, Classical.not_and_iff_not_or_not]

theorem badSlot_iff (ws : List (BitVec 32)) (k : Nat) (r : Raw) (sl : Nat) :
    ((producers (ws.map rawOf) k sl).isEmpty = true ∨
      (r.a && (producers (ws.map rawOf) k sl).any fun p => !(p.a || isRdg p.kind)) = true) ↔
    (∀ p, ¬ producesFor ws k sl p) ∨ r.a = true ∧ ∃ p, producesFor ws k sl p ∧ p.a = false ∧ isRdg p.kind = false := by
  simp only [← producers_iff, List.isEmpty_iff, List.eq_nil_iff_forall_not_mem, Bool.and_eq_true,
    List.any_eq_true, Bool.not_eq_true', Bool.or_eq_false_iff]

/-! ## The checks of one instruction, and of the whole block -/

theorem ownCheckFails_of_decode {ws : List (BitVec 32)} {h : BitVec 128} {svc : Bool} {k : Nat} {w : BitVec 32} {i : Instr}
    {r : Raw} (hw : ws[k]? = some w) (hi : decode w = .ok i) (hr : rawOf w = some r) : ownCheckFails h ws svc k ↔
    (∃ t ∈ r.targets, badTarget (ws.map rawOf) k r t = true) ∨
     (∃ sl ∈ r.slots, (∀ p, ¬ producesFor ws k sl p) ∨
        r.a = true ∧ ∃ p, producesFor ws k sl p ∧ p.a = false ∧ isRdg p.kind = false) ∨
     (∃ f, i = .wrg f ∧ h.getLsbD (64 + f.g.toNat) = false) ∨
     (∃ n, storeId i = some n ∧ h.getLsbD (32 + n) = false) ∨
     (∃ n, loadId i = some n ∧ h.getLsbD (32 + n) = true) ∨
     (∃ x, exitOf i = some x ∧ (h.extractLsb' 16 3).toNat < x) ∨ (svc = false ∧ dieField i ≠ 0) := by
  simp only [ownCheckFails, badTarget_iff, hw, Option.some.injEq, exists_eq_left', hi, hr, Except.ok.injEq,
    forall_eq', ne_eq, false_or]
  simp

theorem failsOwn_iff {ws : List (BitVec 32)} (h : BitVec 128) (svc : Bool) {k : Nat} {w : BitVec 32} (hw : ws[k]? = some w) :
    failsOwn (ws.map rawOf) h.toNat svc k = true ↔ ownCheckFails h ws svc k := by
  have hk : ((ws.map rawOf)[k]?).getD none = rawOf w := by simp [hw]
  simp only [failsOwn, hk]
  cases hr : rawOf w with
  | none => simp only [true_iff]; exact ⟨w, hw, .inl (decode_of_rawOf_none hr)⟩
  | some r =>
    cases hi : decode w with
    | error e => simp only [ins_of_rawOf hr, hi, Except.toOption, true_iff]; exact ⟨w, hw, .inl fun i => by simp [hi]⟩
    | ok i =>
      simp only [ownCheckFails_of_decode hw hi hr, ins_of_rawOf hr, hi, Except.toOption, Bool.or_eq_true, or_assoc,
        List.any_eq_true, badSlot_iff]
      refine or_congr_right (or_congr_right (or_congr ?_ (or_congr ?_ (or_congr ?_ (or_congr ?_ ?_)))))
      · split <;> simp_all [toNat_testBit]
      · simp [Option.any_eq_true, toNat_testBit]
      · simp [Option.any_eq_true, toNat_testBit]
      · simp [Option.any_eq_true, field_toNat h 16 3 (by decide)]
      · simp

/-- The instructions of the words that stand for one. -/
theorem mem_instrs_iff (ws : List (BitVec 32)) (i : Instr) :
    i ∈ (ws.map rawOf).filterMap (fun r => r.bind (·.ins)) ↔ ∃ w ∈ ws, decode w = .ok i := by
  rw [List.filterMap_map, List.mem_filterMap]
  refine exists_congr fun w => and_congr_right fun _ => ?_
  rw [Function.comp_apply]
  cases hr : rawOf w with
  | none => simp [decode_of_rawOf_none hr i]
  | some r => rw [Option.bind_some, ins_of_rawOf hr, toOption_eq_some_iff]

theorem failsBlock_iff (h : BitVec 128) (ws : List (BitVec 32)) :
    failsBlock ((ws.map rawOf).filterMap fun r => r.bind (·.ins)) h.toNat = true ↔ blockCheckFails h ws := by
  have named (p : Instr → Bool) (q : Instr → Prop) (hpq : ∀ i, p i = true ↔ q i) :
      (!((ws.map rawOf).filterMap fun r => r.bind (·.ins)).any p) = true ↔ ¬ ∃ w ∈ ws, ∃ i, decode w = .ok i ∧ q i := by
    simp only [Bool.not_eq_true', ← Bool.not_eq_true, List.any_eq_true, mem_instrs_iff, hpq]
    exact not_congr ⟨fun ⟨i, ⟨w, hw, hi⟩, hq⟩ => ⟨w, hw, i, hi, hq⟩, fun ⟨w, hw, i, hi, hq⟩ => ⟨i, ⟨w, hw, hi⟩, hq⟩⟩
  simp only [failsBlock, blockCheckFails, Bool.or_eq_true, or_assoc, List.any_eq_true, List.mem_range, Bool.and_eq_true,
    toNat_testBit, Nat.lt_succ_iff, show field h.toNat 18 16 = _ from field_toNat h 16 3 (by decide)]
  refine or_congr (exists_congr fun g => and_congr_right fun _ => and_congr_right fun _ => named _ _ fun i => ?_)
    (or_congr (exists_congr fun n => and_congr_right fun _ => and_congr_right fun _ => named _ _ fun i => beq_iff_eq)
      (exists_congr fun x => and_congr_right fun _ => named _ _ fun i => beq_iff_eq))
  split <;> simp_all

/-! ## The order of the checks -/

section
variable (h : BitVec 128) (ws : List (BitVec 32)) (svc : Bool)

/-- The header's own check: MARK and the reserved bits. -/
def badHeader : Prop := h.extractLsb' 0 8 ≠ 0xB5 ∨ h.getLsbD 15 = true ∨ h.extractLsb' 21 11 ≠ 0

/-- AS = 0 beside an instruction with A = 1. -/
def noSlice : Prop := h.getLsbD 20 = false ∧ ∃ k r, rawAt ws k r ∧ r.a = true

theorem badHeader_iff : (field h.toNat 7 0 != 0xB5 || h.toNat.testBit 15 || field h.toNat 31 21 != 0) = true ↔ badHeader h := by
  rw [Bool.or_eq_true, Bool.or_eq_true, or_assoc]
  exact or_congr (field_bne_iff h 0 8 (by decide) 0xB5) (or_congr .rfl (field_bne_iff h 21 11 (by decide) 0))

theorem noSlice_iff : (!h.toNat.testBit 20 && (ws.map rawOf).any fun r => r.any (·.a)) = true ↔ noSlice h ws := by
  simp only [noSlice, Bool.and_eq_true, Bool.not_eq_true', toNat_testBit, List.any_eq_true, List.mem_map, rawAt,
    Option.any_eq_true]
  refine and_congr_right fun _ => ?_
  constructor
  · rintro ⟨_, ⟨w, hw, rfl⟩, r, hr, ha⟩
    obtain ⟨k, hk⟩ := List.getElem?_of_mem hw
    exact ⟨k, r, ⟨w, hk, hr⟩, ha⟩
  · rintro ⟨k, r, ⟨w, hw, hr⟩, ha⟩
    exact ⟨_, ⟨w, List.mem_of_getElem? hw, rfl⟩, r, hr, ha⟩

theorem decodeFault_header (hb : badHeader h ∨ noSlice h ws) : decodeFault h ws svc = some 0xFF := by
  simp only [decodeFault]
  by_cases hbad : badHeader h
  · rw [if_pos ((badHeader_iff h).2 hbad)]
  · rw [if_neg (mt (badHeader_iff h).1 hbad), if_pos ((noSlice_iff h ws).2 (hb.resolve_left hbad))]

theorem decodeFault_words (hb : ¬ (badHeader h ∨ noSlice h ws)) : decodeFault h ws svc =
    ((List.range ws.length).find? (failsOwn (ws.map rawOf) h.toNat svc)).or
      (if failsBlock ((ws.map rawOf).filterMap fun r => r.bind (·.ins)) h.toNat then some 0xFF else none) := by
  simp only [decodeFault]
  rw [if_neg (mt (badHeader_iff h).1 (not_or.1 hb).1), if_neg (mt (noSlice_iff h ws).1 (not_or.1 hb).2)]
  cases (List.range ws.length).find? (failsOwn (ws.map rawOf) h.toNat svc) <;> rfl

theorem ownCheckFails_lt {k : Nat} (hk : ownCheckFails h ws svc k) : k < ws.length := by
  obtain ⟨w, hw, -⟩ := hk
  exact (List.getElem?_eq_some_iff.1 hw).1

theorem ownCheckFails_of_no_instr {k : Nat} {w : BitVec 32} (hw : ws[k]? = some w) (hi : ∀ i, decode w ≠ .ok i) :
    ownCheckFails h ws svc k := ⟨w, hw, .inl hi⟩

theorem firstOwn_eq_some_iff (v : Nat) :
    (List.range ws.length).find? (failsOwn (ws.map rawOf) h.toNat svc) = some v ↔
      ownCheckFails h ws svc v ∧ ∀ k < v, ¬ ownCheckFails h ws svc k := by
  have own {k : Nat} (hk : k < ws.length) : failsOwn (ws.map rawOf) h.toNat svc k = true ↔ ownCheckFails h ws svc k :=
    failsOwn_iff h svc (List.getElem?_eq_getElem hk)
  rw [List.find?_range_eq_some]
  simp only [List.mem_range, Bool.not_eq_true', ← Bool.not_eq_true]
  constructor
  · rintro ⟨hv, hlt, hmin⟩
    exact ⟨(own hlt).1 hv, fun k hk => mt (own (Nat.lt_trans hk hlt)).2 (hmin k hk)⟩
  · rintro ⟨hv, hmin⟩
    have hlt := ownCheckFails_lt h ws svc hv
    exact ⟨(own hlt).2 hv, hlt, fun k hk => mt (own (Nat.lt_trans hk hlt)).1 (hmin k hk)⟩

theorem firstOwn_eq_none_iff :
    (List.range ws.length).find? (failsOwn (ws.map rawOf) h.toNat svc) = none ↔ ∀ k, ¬ ownCheckFails h ws svc k := by
  rw [List.find?_eq_none]
  simp only [List.mem_range]
  exact ⟨fun hn k hk => hn k (ownCheckFails_lt h ws svc hk)
      ((failsOwn_iff h svc (List.getElem?_eq_getElem (ownCheckFails_lt h ws svc hk))).2 hk),
    fun hn k hk => mt (failsOwn_iff h svc (List.getElem?_eq_getElem hk)).1 (hn k)⟩

theorem decodeFault_own (hb : ¬ (badHeader h ∨ noSlice h ws)) {v : Nat} (hv : ownCheckFails h ws svc v)
    (hmin : ∀ k < v, ¬ ownCheckFails h ws svc k) : decodeFault h ws svc = some v := by
  rw [decodeFault_words h ws svc hb, (firstOwn_eq_some_iff h ws svc v).2 ⟨hv, hmin⟩, Option.some_or]

theorem decodeFault_block (hb : ¬ (badHeader h ∨ noSlice h ws)) (ho : ∀ k, ¬ ownCheckFails h ws svc k) :
    (blockCheckFails h ws → decodeFault h ws svc = some 0xFF) ∧ (¬ blockCheckFails h ws → decodeFault h ws svc = none) := by
  rw [decodeFault_words h ws svc hb, (firstOwn_eq_none_iff h ws svc).2 ho, Option.none_or]
  exact ⟨fun hf => if_pos ((failsBlock_iff h ws).2 hf), fun hf => if_neg (mt (failsBlock_iff h ws).1 hf)⟩

/-- Every fault is 0xFF, or the lowest instruction that fails a check of its own. -/
theorem decodeFault_cases {v : Nat} (hv : decodeFault h ws svc = some v) :
    v = 0xFF ∨ ownCheckFails h ws svc v ∧ ∀ k < v, ¬ ownCheckFails h ws svc k := by
  by_cases hb : badHeader h ∨ noSlice h ws
  · rw [decodeFault_header h ws svc hb] at hv
    exact .inl (Option.some.inj hv).symm
  · by_cases ho : ∀ k, ¬ ownCheckFails h ws svc k
    · by_cases hf : blockCheckFails h ws
      · rw [(decodeFault_block h ws svc hb ho).1 hf] at hv
        exact .inl (Option.some.inj hv).symm
      · rw [(decodeFault_block h ws svc hb ho).2 hf] at hv
        cases hv
    · obtain ⟨m, hm⟩ := Option.ne_none_iff_exists'.1 (mt (firstOwn_eq_none_iff h ws svc).1 ho)
      rw [decodeFault_words h ws svc hb, hm, Option.some_or] at hv
      cases hv
      exact .inr ((firstOwn_eq_some_iff h ws svc v).1 hm)

end

/-- Settles O22: the header first, then the lowest instruction by its own checks, then what no instruction names. -/
theorem blockChecksReportTheLowest : Obligations.BlockChecksReportTheLowest := by
  intro h ws svc
  refine ⟨decodeFault_header h ws svc, fun hb => ⟨fun v => decodeFault_own h ws svc hb, decodeFault_block h ws svc hb⟩,
    fun k v hv hne hk => ?_, fun k w hw hi hk => ?_⟩
  · obtain ⟨hown, hmin⟩ := (decodeFault_cases h ws svc hv).resolve_left hne
    have hw := List.getElem?_eq_getElem (Nat.lt_trans hk (ownCheckFails_lt h ws svc hown))
    refine Classical.byContradiction fun hno => ?_
    exact hmin k hk (ownCheckFails_of_no_instr h ws svc hw fun i hi => hno ⟨_, i, hw, hi⟩)
  · have hown := ownCheckFails_of_no_instr h ws svc hw hi
    by_cases hb : badHeader h ∨ noSlice h ws
    · exact ⟨0xFF, decodeFault_header h ws svc hb, .inr rfl⟩
    · obtain ⟨m, hm⟩ := Option.ne_none_iff_exists'.1 (mt (firstOwn_eq_none_iff h ws svc).1 fun ho => ho k hown)
      refine ⟨m, by rw [decodeFault_words h ws svc hb, hm, Option.some_or], .inl (Nat.not_lt.1 fun hlt => ?_)⟩
      exact ((firstOwn_eq_some_iff h ws svc m).1 hm).2 k hlt hown

end Sys2Proof
end

section
/-! The fetch of a block that waits (R153): its state is the same one only where the table of sequencers is canonical. -/

namespace Sys2Proof

open Machine

/-- The service sequencer fetches a block from a BUFW entry that is not full, and the table of sequencers lists a greater
key ahead of its own. -/
def fetchWaiting : State :=
  { State.reset with
    ctxs := [(0, ⟨0, [0], none, [], [(1, Elem.initial ⟨1, 1, 0, 5, [5], [0], [1], [0, 64, 1]⟩)], .run, false, []⟩)]
    regions := [(0, { Region.initial with armed := some 0 })]
    seqs := [(97, Seq.initial), (service, { Seq.initial with cond := .fetch 0x8000000000 })] }

theorem fetchWaiting_waits : fetchWaiting.fetchBlock service 0x8000000000 = .wait := by
  rfl

theorem fetchWaiting_quiet : quiet fetchWaiting service := by
  unfold quiet
  decide +kernel

/-- How many entries a next state's table of sequencers has. -/
def seqEntries : Host.Outcome State Fault Refusal → Option Nat
  | .next t => some t.seqs.length
  | _ => none

/-- The fetch writes the sequencer's entry anew, ahead of the greater key. -/
theorem fetchWaiting_gains_entry : seqEntries (exec (.blockFetch service) fetchWaiting) = some 3 := by decide +kernel

/-- Refutes O21: a waiting BLOCK_FETCH puts its sequencer's entry back into the table, and where that table does not list
its keys in rising order, as a state may have it, the state is not the same one. -/
theorem not_blocksAreReadAndStart : ¬ Obligations.BlocksAreReadAndStart := by
  rintro ⟨-, hfetch, -⟩
  obtain ⟨-, hread⟩ := hfetch fetchWaiting service 0x8000000000 rfl fetchWaiting_quiet
  obtain ⟨-, hwait, -⟩ := hread fun k hk => absurd hk List.not_mem_nil
  have hlen := fetchWaiting_gains_entry
  rw [hwait fetchWaiting_waits] at hlen
  exact absurd hlen (by decide)

end Sys2Proof
end

section
/-! Blocks that trap or hang (R157, R161, R163): taking a trap, logging a rejected context, and the checks of a context's
words (R32). -/

namespace Sys2Proof

open Machine

/-! ## Taking a trap -/

theorem addEnergy_eq (x : Seq) (n : Nat) : ∃ e b, x.addEnergy n = { x with energy := e, esat := b } := by
  unfold Seq.addEnergy
  split
  · exact ⟨_, x.esat, rfl⟩
  · exact ⟨_, _, rfl⟩

theorem countEvents_eq (x : Seq) (ev : Tab Nat) : ∃ e b, x.countEvents ev = { x with energy := e, esat := b } := by
  unfold Seq.countEvents
  split
  · exact addEnergy_eq ..
  · exact ⟨x.energy, x.esat, rfl⟩

theorem foldl_countEvents_eq (bs : List Blk) (x : Seq) :
    ∃ e b, bs.foldl (fun y b => y.countEvents b.reads) x = { x with energy := e, esat := b } := by
  induction bs generalizing x with
  | nil => exact ⟨x.energy, x.esat, rfl⟩
  | cons c bs ih =>
    obtain ⟨e, b, hx⟩ := countEvents_eq x c.reads
    rw [List.foldl_cons, hx]
    exact ih _

theorem dropAhead_eq (x : Seq) (n : Nat) :
    ∃ e b, x.dropAhead n = { x with energy := e, esat := b, blocks := x.blocks.take n } := by
  obtain ⟨e, b, hx⟩ := foldl_countEvents_eq (x.blocks.drop n) x
  exact ⟨e, b, by rw [Seq.dropAhead, hx]⟩

/-- Abandoning a block changes the blocks and the energy counter alone. -/
theorem abandon_eq (x : Seq) : ∃ e b l, x.abandon = { x with energy := e, esat := b, blocks := l } := by
  unfold Seq.abandon
  split
  next => exact ⟨x.energy, x.esat, x.blocks, rfl⟩
  next c younger h =>
    obtain ⟨e, b, hx⟩ := countEvents_eq x c.events
    obtain ⟨e', b', hy⟩ := dropAhead_eq { x.countEvents c.events with blocks := younger } 0
    exact ⟨e', b', [], by rw [hy, hx]; rfl⟩

/-- Taking a trap saves the cause, the address and the value, or is a double trap (R163). -/
theorem enterTrap_taken (x : Seq) (cause : BitVec 8) (epc tval : Word) :
    trapTaken x (x.enterTrap cause epc tval) cause epc tval := by
  obtain ⟨e, b, hx⟩ := dropAhead_eq x 0
  obtain ⟨e', b', hy⟩ : ∃ e' b', (if x.enOn then (x.dropAhead 0).addEnergy ((x.dropAhead 0).enw.getD 6 0).toNat
      else x.dropAhead 0) = { x with energy := e', esat := b', blocks := [] } := by
    rw [hx]
    split
    · obtain ⟨e', b', h⟩ := addEnergy_eq { x with energy := e, esat := b, blocks := x.blocks.take 0 } (x.enw.getD 6 0).toNat
      exact ⟨e', b', h⟩
    · exact ⟨e, b, rfl⟩
  have hen : (x.dropAhead 0).enOn = x.enOn := by rw [hx]
  simp only [Seq.enterTrap, hen, hy]
  by_cases htm : x.tm = true
  · rw [if_pos htm]
    exact ⟨rfl, rfl, rfl, rfl, rfl, fun hf => Bool.noConfusion (hf.symm.trans htm), fun _ => ⟨rfl, rfl, rfl, htm, rfl, rfl, rfl⟩⟩
  · rw [if_neg htm]
    by_cases hv : x.tvec &&& ~~~ 0xF = 0
    · rw [if_pos hv]
      exact ⟨rfl, rfl, rfl, rfl, rfl, fun _ => ⟨rfl, rfl, rfl, rfl, rfl, (if_pos hv).symm⟩, fun ht => absurd ht htm⟩
    · rw [if_neg hv]
      exact ⟨rfl, rfl, rfl, rfl, rfl, fun _ => ⟨rfl, rfl, rfl, rfl, rfl, (if_neg hv).symm⟩, fun ht => absurd ht htm⟩

/-- So does a trap that abandons the block in progress. -/
theorem abandon_enterTrap_taken (x : Seq) (cause : BitVec 8) (epc tval : Word) :
    trapTaken x (x.abandon.enterTrap cause epc tval) cause epc tval := by
  have h := enterTrap_taken x.abandon cause epc tval
  obtain ⟨e, b, l, hx⟩ := abandon_eq x
  rw [hx] at h ⊢
  exact h

/-! ## Abandoning a block -/

theorem dropMarked_of_no_cfgl {s : State} {q : Nat} {b : Blk} (hb : (s.seq q).blocks = [b]) (hc : b.cfglSlots = []) :
    s.dropMarked q = s := by
  simp only [State.dropMarked, State.blk, hb, List.getElem?_cons_zero]
  split
  next h => cases h; simp [State.emptySlots, hc]
  next => rfl

theorem trapBlock_seq {s : State} {q : Nat} {b : Blk} (hb : (s.seq q).blocks = [b]) (hc : b.cfglSlots = [])
    (cause : BitVec 8) (a v : Word) :
    s.trapBlock q cause a v = s.updSeq q fun x => x.abandon.enterTrap cause a v := by
  rw [State.trapBlock, dropMarked_of_no_cfgl hb hc]

theorem onlySeq_updSeq (s : State) (q : Nat) (f : Seq → Seq) : onlySeq q s (s.updSeq q f) :=
  ⟨rfl, rfl, rfl, rfl, rfl, rfl, rfl, rfl, rfl, fun p hp => by rw [seq_updSeq, if_neg (Ne.symm hp)]⟩

/-! ## Logging -/

/-- A state that differs from another in the log of sequencer q, and in what no register of a trap depends on. -/
def loggedTo (q : Nat) (s t : State) : Prop :=
  t.ctxs = s.ctxs ∧ ∃ w d, t.seq q = { s.seq q with flogW := w, flogDrop := d }

theorem loggedTo_refl (q : Nat) (s : State) : loggedTo q s s := ⟨rfl, _, _, rfl⟩

theorem loggedTo_trans {q : Nat} {s t u : State} (h : loggedTo q s t) (h' : loggedTo q t u) : loggedTo q s u := by
  obtain ⟨hc, w, d, hs⟩ := h
  obtain ⟨hc', w', d', hs'⟩ := h'
  exact ⟨hc'.trans hc, w', d', by rw [hs', hs]⟩

/-- What a write of the log itself leaves: the counts of accesses apart, memory and its marks alone. -/
theorem rouse_parts (s : State) (r : Nat) : (s.rouse r).ctxs = s.ctxs ∧ (s.rouse r).seqs = s.seqs := by
  unfold State.rouse
  split <;> exact ⟨rfl, rfl⟩

theorem countHbm_parts (s : State) (a n : Nat) : (s.countHbm a n).ctxs = s.ctxs ∧ (s.countHbm a n).seqs = s.seqs := by
  unfold State.countHbm
  split
  · exact ⟨rfl, rfl⟩
  · split
    · exact ⟨rfl, rfl⟩
    · exact rouse_parts ..

theorem countSeqWalk_parts (s : State) (q a : Nat) :
    (s.countSeqWalk q a).ctxs = s.ctxs ∧ (s.countSeqWalk q a).seqs = s.seqs := by
  unfold State.countSeqWalk
  split <;> exact ⟨rfl, rfl⟩

theorem loggedTo_updSeq {q : Nat} {s t : State} {f : Seq → Seq} (hc : t.ctxs = s.ctxs) (hs : t.seqs = s.seqs)
    (hf : ∃ w d, f (s.seq q) = { s.seq q with flogW := w, flogDrop := d }) : loggedTo q s (t.updSeq q f) := by
  obtain ⟨w, d, hf⟩ := hf
  have ht : t.seq q = s.seq q := by rw [State.seq, State.seq, hs]
  exact ⟨hc, w, d, by rw [seq_updSeq, if_pos rfl, ht, hf]⟩

theorem loggedTo_logAs (s : State) (q region : Nat) (site : Option Nat) (code : Nat) (hdr addr aux : Word) :
    loggedTo q s (s.logAs q region site code hdr addr aux) := by
  unfold State.logAs
  extract_lets x k n drop w0
  clear_value n
  have hdrop : loggedTo q s drop := loggedTo_updSeq rfl rfl ⟨x.flogW, _, rfl⟩
  split
  · exact hdrop
  · split
    · exact hdrop
    · split
      · exact hdrop
      · refine loggedTo_updSeq ?_ ?_ ⟨_, x.flogDrop, rfl⟩
        · exact (countHbm_parts ..).1.trans (countSeqWalk_parts ..).1
        · exact (countHbm_parts ..).2.trans (countSeqWalk_parts ..).2

theorem loggedTo_logRejects (s : State) (q : Nat) (b : Blk) : loggedTo q s (s.logRejects q b) := by
  unfold State.logRejects
  generalize ((s.rejectsOf q b).map (·.tval)).eraseDups = ws
  induction ws generalizing s with
  | nil => exact loggedTo_refl q s
  | cons w ws ih => exact loggedTo_trans (loggedTo_logAs ..) (ih _)

/-! ## The condition that is taken -/

/-- Of several conditions one of the lowest index is taken. -/
theorem lowestTrap_cases (ts : List TrapCond) :
    (lowestTrap ts = none ∧ ts = []) ∨ ∃ t ∈ ts, lowestTrap ts = some t ∧ ∀ u ∈ ts, t.ix ≤ u.ix := by
  induction ts with
  | nil => exact .inl ⟨rfl, rfl⟩
  | cons t ts ih =>
    refine .inr ?_
    simp only [lowestTrap]
    rcases ih with ⟨hn, rfl⟩ | ⟨m, hm, hl, hmin⟩
    · exact ⟨t, List.mem_cons_self, by rw [hn], by simp⟩
    · rw [hl]
      by_cases h : m.ix < t.ix
      · exact ⟨m, List.mem_cons_of_mem _ hm, if_pos h, List.forall_mem_cons.2 ⟨Nat.le_of_lt h, hmin⟩⟩
      · exact ⟨t, List.mem_cons_self, if_neg h,
          List.forall_mem_cons.2 ⟨Nat.le_refl _, fun u hu => Nat.le_trans (Nat.not_lt.1 h) (hmin u hu)⟩⟩

theorem lowestTrap_eq {ts : List TrapCond} {c : TrapCond} (hc : c ∈ ts) (hlow : ∀ u ∈ ts, u = c ∨ c.ix < u.ix) :
    lowestTrap ts = some c := by
  rcases lowestTrap_cases ts with ⟨-, rfl⟩ | ⟨t, ht, hl, hmin⟩
  · exact absurd hc List.not_mem_nil
  · rcases hlow t ht with rfl | h
    · exact hl
    · exact absurd (hmin c hc) (Nat.not_le.2 h)

/-! ## The checks of a context's words -/

theorem checkRegion_eq_none_iff (plan : Plan) (x : Nat × CtxSlot) :
    plan.checkRegion [] x = none ↔ ∀ i < 96, wordPasses plan [] x.1 x.2 i := by
  simp only [Plan.checkRegion, List.findSome?_eq_none_iff, List.mem_range]
  refine forall_congr' fun i => imp_congr_right fun _ => ?_
  rw [wordPasses]
  cases checkSite (x.2.site i) i (rectOf x.2.mxmode.toNat) with
  | some f => simp
  | none =>
    cases checkSwitch (plan.map (·.1)) x.1 i (x.2.site i) (Tab.getD [] i 0) (x.2.switch i) <;> simp

theorem wordReject_eq_none_iff (plan : Plan) : plan.wordReject (plan.map fun _ => []) = none ↔
    ∀ x ∈ plan, rectHolds plan x.1 x.2 ∧ ∀ i < 96, wordPasses plan [] x.1 x.2 i := by
  have hzip : ((plan.map fun _ => ([] : List (Nat × Word))).zip plan) = plan.map fun x => ([], x) := by
    induction plan with
    | nil => rfl
    | cons x plan ih => exact congrArg (([], x) :: ·) ih
  simp only [Plan.wordReject, hzip, List.findSome?_eq_none_iff, List.forall_mem_map]
  refine forall_congr' fun x => imp_congr_right fun _ => ?_
  rw [← checkRegion_eq_none_iff, rectHolds]
  cases rectBroken (plan.map fun y => (y.1, y.2.mxmode.toNat)) x.1 x.2.mxmode.toNat <;> simp

theorem slotReject_eq_none_iff (plan : Plan) (live : Tab SBuf) : plan.slotReject live = none ↔
    (∀ x ∈ plan, rectHolds plan x.1 x.2 ∧ ∀ i < 96, wordPasses plan [] x.1 x.2 i) ∧ plan.graphReject live = none := by
  rw [← wordReject_eq_none_iff, Plan.slotReject, Plan.reject]
  cases plan.wordReject (plan.map fun _ => []) <;> simp

/-! ## The obligation -/

/-- A block that is abandoned for a trap in a state which differs in its log alone. -/
theorem trapBlock_loggedTo {s t : State} {q : Nat} {b : Blk} (h : loggedTo q s t) (hb : (s.seq q).blocks = [b])
    (hc : b.cfglSlots = []) (cause : BitVec 8) (a v : Word) :
    trapTaken (s.seq q) ((t.trapBlock q cause a v).seq q) cause a v ∧ (t.trapBlock q cause a v).ctxs = s.ctxs := by
  obtain ⟨hctxs, w, d, hseq⟩ := h
  have htaken := abandon_enterTrap_taken (t.seq q) cause a v
  rw [trapBlock_seq (by rw [hseq]; exact hb) hc, seq_updSeq, if_pos rfl]
  rw [hseq] at htaken ⊢
  exact ⟨htaken, hctxs⟩

/-- Where no context is rejected nothing is logged. -/
theorem logRejects_of_no_rejects {s : State} {q : Nat} {b : Blk} (h : s.rejectsOf q b = []) : s.logRejects q b = s := by
  rw [State.logRejects, h]
  rfl

theorem blk_zero {s : State} {q : Nat} {b : Blk} (hb : (s.seq q).blocks = [b]) : s.blk q 0 = some b := by
  rw [State.blk, hb]
  rfl

theorem execBlockResolve_lowest {s : State} {q : Nat} {b : Blk} {c : TrapCond} (hrun : (s.seq q).cond = .run)
    (hb : (s.seq q).blocks = [b]) (hset : b.settled = true) (hnow : s.now < b.deadline)
    (hc : lowestTrap (s.trapsOf q b) = some c) :
    execBlockResolve q s = .next ((s.logRejects q b).trapBlock q c.cause b.addr c.tval) := by
  simp [execBlockResolve, hrun, blk_zero hb, hset, hnow, hc]

/-- Settles O24: the condition of the lowest index is taken, or BLKHANG once the time is out. -/
theorem blocksThatTrap : Obligations.BlocksThatTrap := by
  refine ⟨fun s q b c hrun hb hset hnow hcfg hc hlow => ?_, fun s q ix slot b w he hw => ?_,
    fun s q ix slot site p v b w he => ?_, slotReject_eq_none_iff, fun s q b hrun hb => ⟨fun hnow => ?_, fun hnow => ?_⟩⟩
  · obtain ⟨htaken, hctxs⟩ := trapBlock_loggedTo (loggedTo_logRejects s q b) hb hcfg c.cause b.addr c.tval
    refine ⟨_, execBlockResolve_lowest hrun hb hset hnow (lowestTrap_eq hc hlow), htaken, hctxs, fun hno => ?_⟩
    rw [logRejects_of_no_rejects hno, trapBlock_seq hb hcfg]
    exact onlySeq_updSeq ..
  · exact List.mem_append_right _ (List.mem_filterMap.2 ⟨_, he, by simp only [hw, Option.map_some]⟩)
  · intro plan hw hnone
    exact List.mem_append_right _ (List.mem_filterMap.2 ⟨_, he, by simp only [plan] at hw hnone; simp [hw, hnone]⟩)
  · simp [exec, execBlkhang, hrun, blk_zero hb, hnow]
  · have hlate : ¬ s.now < b.deadline := Nat.not_lt.2 hnow
    refine ⟨?_, ?_, fun hcfg => ?_⟩
    · simp [exec, execBlockCommit, hrun, blk_zero hb, hlate]
    · simp [exec, execBlockResolve, hrun, blk_zero hb, hlate]
    · refine ⟨s.trapBlock q causeBLKHANG b.addr b.lacks, by simp [exec, execBlkhang, hrun, blk_zero hb, hlate],
        (trapBlock_loggedTo (loggedTo_refl q s) hb hcfg ..).1, ?_⟩
      rw [trapBlock_seq hb hcfg]
      exact onlySeq_updSeq ..

end Sys2Proof
end

section
/-! The passage of tokens and of control tokens (R89, R90, R94, R95, R357): arrivals along an arc, stray control tokens,
parking under a SLUICE, and the passing of WEIR and SLUICE element by element. -/

namespace Sys2Proof

open Machine

/-! ## Arrivals along an arc -/

/-- What each step of a fold keeps, the fold keeps. -/
theorem foldl_keeps {α σ β : Type} (g : σ → β) (f : σ → α → σ) (h : ∀ s a, g (f s a) = g s) (l : List α) (s : σ) :
    g (l.foldl f s) = g s := by
  induction l generalizing s with
  | nil => rfl
  | cons a l ih => rw [List.foldl_cons, ih, h]

theorem arcTo_dst {c : Ctx} {d : Nat} {a : Arc} (h : c.arcTo d = some a) : a.dst = d :=
  eq_of_beq (List.find?_some (p := fun b : Arc => b.dst == d) h)

theorem arcTo_mem {c : Ctx} {d : Nat} {a : Arc} (h : c.arcTo d = some a) : a ∈ c.arcs := List.mem_of_find?_eq_some h

/-- The arc that takes another's place is the arc that ends there. -/
theorem arcTo_setArc {c : Ctx} {a b : Arc} (h : c.arcTo b.dst = some a) : (c.setArc b).arcTo b.dst = some b := by
  simp only [Ctx.arcTo, Ctx.setArc] at h ⊢
  generalize c.arcs = l at h
  induction l with
  | nil => simp at h
  | cons k ks ih =>
    by_cases hk : k.dst = b.dst
    · simp [hk]
    · simp only [List.map_cons, List.find?_cons, beq_eq_false_iff_ne.2 hk, Bool.false_eq_true, if_false] at h ⊢
      exact ih h

theorem arriveFirst_append {pre post : List Flying} {f : Flying} (hpre : ∀ g ∈ pre, g.vis = true) (hf : f.vis = false) :
    arriveFirst (pre ++ f :: post) = pre ++ { f with vis := true } :: post := by
  induction pre with
  | nil => simp [arriveFirst, hf]
  | cons g pre ih =>
    obtain ⟨hg, hpre⟩ := List.forall_mem_cons.1 hpre
    simp [arriveFirst, hg, ih hpre]

theorem find_unseen {pre post : List Flying} {f : Flying} (hpre : ∀ g ∈ pre, g.vis = true) (hf : f.vis = false) :
    List.find? (fun f : Flying => !f.vis) (pre ++ f :: post) = some f := by
  rw [List.find?_append, List.find?_eq_none.2 (by simpa using hpre)]
  simp [hf]

theorem arcFrozen_eq_false {s : State} {a : Arc} (h : ∀ r ∈ a.src / 384 :: a.dst / 384 :: a.via, (s.seq r).frozen = false) :
    s.arcFrozen a = false :=
  List.any_eq_false.2 fun r hr => by simp [h r hr]

/-- Where no region of a context has halt points and no token of it carries a release, no arc settles. -/
theorem refreshHalts_of_no_halts {s : State} {cid : Nat} {c : Ctx} (hc : s.ctxs.find? cid = some c)
    (hen : ∀ q ∈ c.regions, (s.seq q).hen = false ∧ (s.seq q).heldPrev = 0)
    (hrel : ∀ a ∈ c.arcs, ∀ f ∈ a.toks, f.rel = 0) : s.refreshHalts cid = s := by
  have hregions : (c.regions.any fun r => (s.seq r).hen || (s.seq r).heldPrev != 0) = false :=
    List.any_eq_false.2 fun r hr => by simp [hen r hr]
  have htoks : (c.arcs.any fun a => a.toks.any fun f => f.rel != 0) = false :=
    List.any_eq_false.2 fun a ha => by simpa using hrel a ha
  simp only [State.refreshHalts, hc, hregions, htoks, Bool.or_self, Bool.false_eq_true, if_false]

/-- The movements and the energy of a token's way along an arc leave memory, sequencers and contexts as they are. -/
def alongArc (s : State) (p : Port) (a : Arc) (n : Nat) : State :=
  a.cross.foldl (fun s b => s.addEnergy 3 b (n * 64 * 3150))
    ((a.src / 384 :: p.r :: a.via).foldl State.moved (s.addEnergy 0 p.r (6 * n * a.hops * 900)))

theorem alongArc_keeps {β : Type} (g : State → β) (henergy : ∀ (s : State) k i n, g (s.addEnergy k i n) = g s)
    (hmoved : ∀ (s : State) r, g (s.moved r) = g s) (s : State) (p : Port) (a : Arc) (n : Nat) :
    g (alongArc s p a n) = g s := by
  rw [alongArc, foldl_keeps g _ (fun s b => henergy s 3 b _), foldl_keeps g _ hmoved, henergy]

theorem execTokenVisible_arrives {s : State} {p : Port} {cid : Nat} {c : Ctx} {a : Arc} {f : Flying}
    (harm : (s.region p.r).armed = some cid) (hc : s.ctxs.find? cid = some c) (ha : c.arcTo (p.r * 384 + p.p) = some a)
    (hf : List.find? (fun f : Flying => !f.vis) a.toks = some f) (hfrozen : s.arcFrozen a = false) :
    execTokenVisible p s = .next ((alongArc
      { s with ctxs := s.ctxs.put cid (c.setArc { a with toks := arriveFirst a.toks }) } p a (f.tok.beats + 1)).refreshHalts cid) := by
  simp only [execTokenVisible, harm, hc, ha, hf, hfrozen, Bool.false_eq_true, if_false]
  rfl

theorem mem_setArc {c : Ctx} {a b : Arc} (h : b ∈ (c.setArc a).arcs) : b = a ∨ b ∈ c.arcs := by
  obtain ⟨k, hk, rfl⟩ := List.mem_map.1 h
  split
  · exact .inl rfl
  · exact .inr hk

/-- The oldest token on its way arrives, and where nothing is halted nothing else changes of the fabric. -/
theorem tokenVisible_completes {s : State} {p : Port} {cid : Nat} {c : Ctx} {a : Arc} {pre post : List Flying} {f : Flying}
    (harm : (s.region p.r).armed = some cid) (hc : s.ctxs.find? cid = some c) (ha : c.arcTo (p.r * 384 + p.p) = some a)
    (htoks : a.toks = pre ++ f :: post) (hpre : ∀ g ∈ pre, g.vis = true) (hf : f.vis = false)
    (hfrozen : ∀ r ∈ a.src / 384 :: a.dst / 384 :: a.via, (s.seq r).frozen = false)
    (hhalts : ∀ q ∈ c.regions, (s.seq q).hen = false ∧ (s.seq q).heldPrev = 0)
    (hrel : ∀ k ∈ c.arcs, ∀ g ∈ k.toks, g.rel = 0) :
    completes (.tokenVisible p) s fun t => t.mem = s.mem ∧ t.seqs = s.seqs ∧ ∃ c', t.ctxs.find? cid = some c' ∧
      c'.elems = c.elems ∧ c'.arcTo a.dst = some { a with toks := pre ++ { f with vis := true } :: post } := by
  let a' : Arc := { a with toks := pre ++ { f with vis := true } :: post }
  let u : State := { s with ctxs := s.ctxs.put cid (c.setArc a') }
  have harrive : arriveFirst a.toks = a'.toks := by rw [htoks, arriveFirst_append hpre hf]
  have hrel' : ∀ k ∈ (c.setArc a').arcs, ∀ g ∈ k.toks, g.rel = 0 := by
    intro k hk
    rcases mem_setArc hk with rfl | hk
    · have harel := hrel a (arcTo_mem ha)
      rw [htoks, List.forall_mem_append, List.forall_mem_cons] at harel
      exact List.forall_mem_append.2 ⟨harel.1, List.forall_mem_cons.2 harel.2⟩
    · exact hrel k hk
  have hctxs : (alongArc u p a (f.tok.beats + 1)).ctxs = u.ctxs :=
    alongArc_keeps _ (fun _ _ _ _ => rfl) (fun _ _ => rfl) ..
  have hseqs : (alongArc u p a (f.tok.beats + 1)).seqs = u.seqs :=
    alongArc_keeps _ (fun _ _ _ _ => rfl) (fun _ _ => rfl) ..
  have hfind : (alongArc u p a (f.tok.beats + 1)).ctxs.find? cid = some (c.setArc a') := by
    rw [hctxs]
    exact Tab.find_put_same ..
  have hexec := execTokenVisible_arrives harm hc ha (htoks ▸ find_unseen hpre hf) (arcFrozen_eq_false hfrozen)
  rw [harrive, refreshHalts_of_no_halts hfind (fun q hq => by rw [State.seq, hseqs]; exact hhalts q hq) hrel'] at hexec
  refine ⟨_, hexec, ?_, hseqs, c.setArc a', hfind, rfl, ?_⟩
  · exact alongArc_keeps (·.mem) (fun _ _ _ _ => rfl) (fun _ _ => rfl) u p a _
  · exact arcTo_setArc (b := a') (a := a) ((congrArg c.arcTo (arcTo_dst ha)).trans ha)

theorem requestArrival_completes {s : State} {p : Port} {cid : Nat} {c : Ctx} {a : Arc}
    (harm : (s.region p.r).armed = some cid) (hc : s.ctxs.find? cid = some c) (ha : c.arcTo (p.r * 384 + p.p) = some a)
    (hreq : a.reqFly ≠ 0) (hmove : s.canMove p.r = true)
    (hfrozen : ∀ r ∈ a.src / 384 :: a.dst / 384 :: a.via, (s.seq r).frozen = false) :
    completes (.requestArrival p) s fun t => t.mem = s.mem ∧ t.seqs = s.seqs ∧ ∃ c', t.ctxs.find? cid = some c' ∧
      c'.elems = c.elems ∧ c'.arcTo a.dst = some { a with req := a.req + 1, reqFly := a.reqFly - 1 } := by
  let a' : Arc := { a with req := a.req + 1, reqFly := a.reqFly - 1 }
  refine ⟨{ s with ctxs := s.ctxs.put cid (c.setArc a') }, ?_, rfl, rfl, c.setArc a', Tab.find_put_same .., rfl, ?_⟩
  · simp [exec, execRequestArrival, harm, hc, ha, hreq, hmove, arcFrozen_eq_false hfrozen, a']
  · exact arcTo_setArc (b := a') (a := a) ((congrArg c.arcTo (arcTo_dst ha)).trans ha)

/-! ## Stray control tokens, and parking -/

theorem strayControlDiscard_discards {s : State} {p : Port} {cid : Nat} {c : Ctx} {el : Elem} {x : Token}
    (hel : s.elemAt p.r (p.p / 4) = some (cid, c, el))
    (hx : s.headOf c (siteKey p.r (p.p / 4)) (p.p % 4) = some x) (hmove : s.canMove p.r = true)
    (hstray : x.kind = .xch ∧ takesXch el.cfg (p.p % 4) = false ∨ x.kind = .req ∧ takesReq el.cfg = false) :
    exec (.strayControlDiscard p) s = .next (s.applyFiring p.r (p.p / 4) cid c el
      ⟨[p.p % 4], [], el, [⟨0x03, x.hdr, x.hdr, 0⟩], 0, id⟩) := by
  rcases hstray with ⟨hk, ht⟩ | ⟨hk, ht⟩ <;>
  · simp only [exec, execStrayControlDiscard, hel, hx, hk, ht, hmove]
    rfl

theorem sum_map_eq_zero {α : Type} {f : α → Nat} {l : List α} (h : ∀ a ∈ l, f a = 0) : (l.map f).sum = 0 := by
  induction l with
  | nil => rfl
  | cons a l ih =>
    obtain ⟨ha, hl⟩ := List.forall_mem_cons.1 h
    rw [List.map_cons, List.sum_cons, ha, ih hl]

theorem parked_of_no_back {c : Ctx} (hback : ∀ a ∈ c.arcs, a.back = []) (key i : Nat) (el : Elem) :
    c.parked key i el = el.park.length := by
  have hsum : (c.arcs.map fun a => if a.dst / 4 = key then a.back.length else 0).sum = 0 :=
    sum_map_eq_zero fun a ha => by simp [hback a ha]
  have hany : (c.arcs.any fun a => a.dst == key * 4 + i && !a.back.isEmpty) = false :=
    List.any_eq_false.2 fun a ha => by simp [hback a ha]
  simp [Ctx.parked, hsum, hany]

/-- The open heads that decide what a firing needs. -/
def usedHeads (s : State) (c : Ctx) (el : Elem) (key : Nat) : Nat → Option Token :=
  fun k => if el.cfg.uses k then s.headOf c key k else none

theorem sluicePark_parks {s : State} {p : Port} {cid : Nat} {c : Ctx} {el : Elem} {x : Token}
    (hel : s.elemAt p.r (p.p / 4) = some (cid, c, el))
    (hx : s.headOf c (siteKey p.r (p.p / 4)) (p.p % 4) = some x) (hmove : s.canMove p.r = true)
    (hmode : c.mode = .save) (hopen : el.passage = .open) (hclosed : x.closed = false) (hback : ∀ a ∈ c.arcs, a.back = [])
    (hpark : el.park.length < 8) (huses : el.cfg.uses (p.p % 4) = true)
    (hwaits : ∃ k < 4, el.cfg.uses k = true ∧
      k ∈ el.needs (usedHeads s c el (siteKey p.r (p.p / 4))) (p.p % 4) ∧
      ∃ y, s.headOf c (siteKey p.r (p.p / 4)) k = some y ∧ y.kind = .sluice) :
    exec (.sluicePark p) s = .next (s.applyFiring p.r (p.p / 4) cid c el
      ⟨[p.p % 4], [], { el with park := el.park ++ [(p.p % 4, x)] }, [], 0, id⟩) := by
  obtain ⟨k, hk, huk, hneeds, y, hy, hsluice⟩ := hwaits
  let closed (k : Nat) : Bool := (usedHeads s c el (siteKey p.r (p.p / 4)) k).any fun t => t.kind == .sluice
  have hclose : closed k = true := by simp [closed, usedHeads, huk, hy, hsluice]
  have hsome : (List.range 4).any closed = true := List.any_eq_true.2 ⟨k, List.mem_range.2 hk, hclose⟩
  have hneed : (el.needs (usedHeads s c el (siteKey p.r (p.p / 4))) (p.p % 4)).any closed = true :=
    List.any_eq_true.2 ⟨k, hneeds, hclose⟩
  have hlt : ¬ el.park.length ≥ 8 := Nat.not_le.2 hpark
  have hnot : (Passage.open == Passage.half) = false := rfl
  unfold closed usedHeads at hsome hneed
  simp only [exec, execSluicePark, hel, huses, if_true, hx, hmode, hmove, hopen, hclosed, hnot, Bool.false_eq_true,
    if_false, hsome, hneed, parked_of_no_back hback, hlt]
  rfl

/-! ## The passing of control tokens -/

/-- The site in focus may pass a control token: its region moves, and it owes no token of its own. -/
def mayPass (s : State) (cid : Nat) (c : Ctx) (el : Elem) : Prop :=
  s.elemAt s.site.r s.site.s = some (cid, c, el) ∧ s.canMove s.site.r = true ∧ el.owes = false ∧ el.hasPorts = true ∧
    el.passage ≠ .passed

theorem outputs_room {s : State} {c : Ctx} {el : Elem} (h : ∀ o ∈ el.cfg.outputs, roomOn s c o) :
    (el.cfg.outputs.all fun o => c.room (siteKey s.site.r s.site.s) o false) = true :=
  List.all_eq_true.2 fun o ho => room_mono false (h o ho)

theorem received_hdr (cfg : SiteCfg) (i : Nat) (x : Token) :
    (received cfg i x).hdr = if malformed cfg i x = true then hSetPsn x.hdr true else x.hdr := by
  unfold received
  split <;> rfl

theorem moves_pass {s : State} {cid : Nat} {c : Ctx} {el el' : Elem} {ins : List Nat} {out : List (Nat × Token)}
    (h : execControlTokenPassage s = .next (s.applyFiring s.site.r s.site.s cid c el (Firing.of ins out el' 0))) :
    moves .controlTokenPassage s cid c el ins out el' [] :=
  ⟨0, id, h, fun u => ⟨u.free, rfl⟩⟩

/-- An ingress element closes its stream. -/
theorem ingress_passes {s : State} {cid : Nat} {c : Ctx} {el : Elem} (h : mayPass s cid c el)
    (hin : el.cfg.ingress = true) (hmode : c.mode = .save ∨ c.mode = .drain ∧ el.closing .drain = true)
    (hroom : ∀ o ∈ el.cfg.outputs, roomOn s c o) :
    moves .controlTokenPassage s cid c el [] (el.cfg.outputs.map fun o => (o, s.closer s.site.r el c.mode))
      (el.afterPassage (c.mode == .drain)) [] := by
  obtain ⟨hel, hmove, howes, hports, hpass⟩ := h
  refine moves_pass ?_
  rcases hmode with hm | ⟨hm, hc⟩
  · simp [execControlTokenPassage, hel, hmove, howes, hports, hpass, hin, outputs_room hroom, hm]
  · simp [execControlTokenPassage, hel, hmove, howes, hports, hpass, hin, outputs_room hroom, hm, hc]

/-- An element whose closing inputs all hold a control token passes it, with the header of the lowest. -/
theorem closed_passes {s : State} {cid : Nat} {c : Ctx} {el : Elem} (h : mayPass s cid c el)
    (hin : el.cfg.ingress = false) {i : Nat} {ins : List Nat} {x : Token} (hcl : el.closers = i :: ins)
    (hx : s.headOf c (siteKey s.site.r s.site.s) i = some x) (hxc : x.closed = true)
    (hins : ∀ j ∈ ins, ∃ y, s.headOf c (siteKey s.site.r s.site.s) j = some y ∧ y.closed = true)
    (hroom : el.passage = .half ∨ ∀ o ∈ el.cfg.outputs, roomOn s c o) :
    moves .controlTokenPassage s cid c el (i :: ins)
      (if el.passage = .half then [] else el.cfg.outputs.map fun o => (o, ctlTok (received el.cfg i x).hdr))
      (el.afterPassage (x.kind == .weir)) [] := by
  obtain ⟨hel, hmove, howes, hports, hpass⟩ := h
  have hall : (((i :: ins).map fun i => (i, s.headOf c (siteKey s.site.r s.site.s) i)).all
      fun x => x.2.any (·.closed)) = true := by
    simp only [List.all_map, List.all_cons, Function.comp_apply, hx, Option.any_some, hxc, Bool.true_and, List.all_eq_true]
    intro j hj
    obtain ⟨y, hy, hyc⟩ := hins j hj
    simp [hy, hyc]
  refine moves_pass ?_
  simp only [execControlTokenPassage, hel, hcl, hall]
  rcases hroom with hhalf | hroom
  · simp [hmove, howes, hports, hin, hx, hhalf]
  · simp [hmove, howes, hports, hpass, hin, hx, outputs_room hroom]

/-- A CARRY that has emitted awaits the control token on i2 alone. -/
theorem closers_of_half {el : Elem} (hk : el.cfg.kind = 5) (hop : el.cfg.op = 1) (hhalf : el.passage = .half)
    (h2 : 2 ∈ el.cfg.inputs) : el.closers = [2] := by
  have huses : el.cfg.uses 2 = true := (List.mem_filter.1 h2).2
  have hins : el.cfg.inputs.filter (· == 2) = [2] := by
    rw [List.filter_beq, SiteCfg.inputs, List.count_filter huses]
    rfl
  simp [Elem.closers, hk, hop, hhalf, hins]

theorem ingress_eq_false {cfg : SiteCfg} {i : Nat} (h : i ∈ cfg.inputs) : cfg.ingress = false := by
  simp [SiteCfg.ingress, List.ne_nil_of_mem h]

/-- Under a WEIR, a CARRY that has emitted discards the data at i2. -/
theorem half_discards {s : State} {cid : Nat} {c : Ctx} {el : Elem} (h : mayPass s cid c el) (hk : el.cfg.kind = 5)
    (hop : el.cfg.op = 1) (hhalf : el.passage = .half) (h2 : 2 ∈ el.cfg.inputs) {x : Token}
    (hx : s.headOf c (siteKey s.site.r s.site.s) 2 = some x) (hmode : c.mode = .drain) (hdata : x.isData = true) :
    moves .controlTokenPassage s cid c el [2] [] el [] := by
  obtain ⟨hel, hmove, howes, hports, hpass⟩ := h
  have hkind : x.kind = .data := eq_of_beq hdata
  have hopen : x.closed = false := by simp [Token.closed, hkind]
  refine moves_pass ?_
  simp [execControlTokenPassage, hel, hmove, howes, hports, hhalf, ingress_eq_false h2, closers_of_half hk hop hhalf h2,
    hx, hopen, hmode, hdata]

/-- An element that passes awaits nothing more, but for a CARRY that has still to emit. -/
theorem afterPassage_passed {el : Elem} (h : el.cfg.kind = 5 → el.cfg.op = 1 → el.passage = .open → el.cfg.uses 2 = false)
    (weir : Bool) : el.afterPassage weir = if weir then
      { Elem.initial el.cfg with
        passage := .passed, desc := if el.desc = .fetching then .bad else el.desc, wq := el.wq, wdone := el.wdone
        rdone := el.rdone + el.readsDue, lsSeen := el.lsSeen }
    else { el with passage := .passed } := by
  have hp : (el.cfg.kind = 5 && el.cfg.op = 1 && el.passage == .open && el.cfg.uses 2) = false := by
    refine Bool.eq_false_iff.2 fun hne => ?_
    simp only [Bool.and_eq_true, decide_eq_true_eq, beq_iff_eq] at hne
    obtain ⟨⟨⟨hk, hop⟩, hpass⟩, huses⟩ := hne
    exact absurd huses (by rw [h hk hop hpass]; decide)
  simp [Elem.afterPassage, hp]

/-- A CARRY with an i2 that passes awaits the control token there. -/
theorem afterPassage_half {el : Elem} (hk : el.cfg.kind = 5) (hop : el.cfg.op = 1) (hpass : el.passage = .open)
    (huses : el.cfg.uses 2 = true) (weir : Bool) : el.afterPassage weir = if weir then
      { Elem.initial el.cfg with
        passage := .half, desc := if el.desc = .fetching then .bad else el.desc, wq := el.wq, wdone := el.wdone
        rdone := el.rdone + el.readsDue, lsSeen := el.lsSeen }
    else { el with passage := .half } := by
  simp [Elem.afterPassage, hk, hop, hpass, huses]

theorem inputs_of_ingress {cfg : SiteCfg} (h : cfg.ingress = true) : cfg.inputs = [] := by
  simp only [SiteCfg.ingress, Bool.and_eq_true, List.isEmpty_iff] at h
  exact h.1

theorem uses_eq_false_of_ingress {cfg : SiteCfg} (h : cfg.ingress = true) {i : Nat} (hi : i < 4) : cfg.uses i = false := by
  refine Bool.eq_false_iff.2 fun hu => ?_
  have hmem : i ∈ cfg.inputs := List.mem_filter.2 ⟨List.mem_range.2 hi, hu⟩
  rw [inputs_of_ingress h] at hmem
  exact absurd hmem List.not_mem_nil

theorem closers_of_open_carry {el : Elem} (hk : el.cfg.kind = 5) (hop : el.cfg.op = 1) (hpass : el.passage = .open)
    (hins : el.cfg.inputs = [0, 1, 2]) : el.closers = [0, 1] := by
  simp [Elem.closers, hk, hop, hpass, hins]

theorem closers_of_not_carry {el : Elem} (h : ¬ (el.cfg.kind = 5 ∧ el.cfg.op = 1)) : el.closers = el.cfg.inputs :=
  if_neg (by simpa using h)

/-! ## The obligation -/

/-- Settles O43: each clause is the way of one token, and an element passes a control token once those at its closing
inputs have come. -/
theorem tokensAndControlTokensPass : Obligations.TokensAndControlTokensPass := by
  refine ⟨fun s p cid c a harm hc ha => ⟨fun pre f post htoks hpre hf hfrozen hhalts hrel =>
      tokenVisible_completes harm hc ha htoks hpre hf hfrozen hhalts hrel, fun hreq hmove hfrozen =>
      requestArrival_completes harm hc ha hreq hmove hfrozen⟩,
    fun s p cid c el x hel hx hmove => ⟨fun hstray => ⟨_, strayControlDiscard_discards hel hx hmove hstray, rfl⟩,
      fun hmode hopen hclosed hback hpark huses hwaits =>
        ⟨_, sluicePark_parks hel hx hmove hmode hopen hclosed hback hpark huses hwaits, rfl⟩⟩,
    fun s cid c el hel hmove howes hports => ?_⟩
  intro key carry weired after closes onward
  have hpass (p : Passage) (hp : el.passage = p) (hne : p ≠ .passed) : mayPass s cid c el :=
    ⟨hel, hmove, howes, hports, hp ▸ hne⟩
  have honward (i : Nat) (x : Token) :
      onward i x = el.cfg.outputs.map fun o => (o, ctlTok (received el.cfg i x).hdr) := by
    simp only [onward, received_hdr, ctlTok]
  refine ⟨fun ⟨hk, hop⟩ hhalf h2 x hx => ⟨fun hxc => ?_, fun hmode hdata => ?_⟩, fun hopen hroom => ?_⟩
  · have h := closed_passes (hpass _ hhalf nofun) (ingress_eq_false h2) (closers_of_half hk hop hhalf h2) hx hxc
      (fun _ hj => absurd hj List.not_mem_nil) (.inl hhalf)
    rw [if_pos hhalf, afterPassage_passed (fun _ _ ho => absurd (hhalf.symm.trans ho) nofun)] at h
    simpa [after, weired] using h
  · exact half_discards (hpass _ hhalf nofun) hk hop hhalf h2 hx hmode hdata
  · have hmay := hpass _ hopen nofun
    have hnot : ¬ el.passage = .half := by rw [hopen]; nofun
    refine ⟨fun x ⟨hk, hop⟩ hins hx hxc h1 => ?_, fun hin hmode hcl => ?_, fun hin hmode => ?_,
      fun i ins x hno hin hins hx hxc hj => ?_⟩
    · have h2 : 2 ∈ el.cfg.inputs := by simp [hins]
      have h := closed_passes hmay (ingress_eq_false h2) (closers_of_open_carry hk hop hopen hins) hx hxc
        (fun j hj => List.mem_singleton.1 hj ▸ h1) (.inr hroom)
      rw [if_neg hnot, afterPassage_half hk hop hopen (List.mem_filter.1 h2).2, ← honward] at h
      simpa [after, weired] using h
    · have h := ingress_passes hmay hin (.inr ⟨hmode, hcl⟩) hroom
      rw [afterPassage_passed fun _ _ _ => uses_eq_false_of_ingress hin (by decide)] at h
      simpa [hmode, State.closer, ctlTok, weired] using h
    · have h := ingress_passes hmay hin (.inl hmode) hroom
      rw [afterPassage_passed fun _ _ _ => uses_eq_false_of_ingress hin (by decide)] at h
      simpa [hmode, State.closer, ctlTok] using h
    · have h := closed_passes hmay hin ((closers_of_not_carry hno).trans hins) hx hxc hj (.inr hroom)
      rw [if_neg hnot, afterPassage_passed fun hk hop _ => absurd ⟨hk, hop⟩ hno, ← honward] at h
      simpa [after, weired] using h

end Sys2Proof
end

section
/-! Blocks run ahead, traps from outside and hung regions (R112, R114, R115, R159, R170): what the counting of accesses
and writes of a cadastre leave, the asynchronous trap that is taken, and the declaration of a hang. -/

namespace Sys2Proof

open Machine

/-! ## Accesses -/

/-- Two states that differ in memory and in what marks and counts its accesses alone. -/
def accessed (s t : State) : Prop :=
  ∃ m p w e b r, t = { s with mem := m, poison := p, written := w, energy := e, energySat := b, roused := r }

theorem accessed_refl (s : State) : accessed s s := ⟨_, _, _, _, _, _, rfl⟩

theorem accessed_trans {s t u : State} (h : accessed s t) (h' : accessed t u) : accessed s u := by
  obtain ⟨m, p, w, e, b, r, rfl⟩ := h
  obtain ⟨m', p', w', e', b', r', rfl⟩ := h'
  exact ⟨m', p', w', e', b', r', rfl⟩

theorem accessed_store (s : State) (a : Nat) (bs : List Byte) : accessed s (s.store a bs) := ⟨_, _, _, _, _, _, rfl⟩

theorem accessed_countBehind (s : State) (ks : List Nat) (a : Nat) : accessed s (s.countBehind ks a) :=
  ⟨_, _, _, _, _, _, rfl⟩

theorem accessed_rouse (s : State) (r : Nat) : accessed s (s.rouse r) := by
  unfold State.rouse
  split
  · exact ⟨_, _, _, _, _, _, rfl⟩
  · exact accessed_refl s

theorem accessed_countHbm (s : State) (a n : Nat) : accessed s (s.countHbm a n) := by
  unfold State.countHbm
  split
  · exact accessed_refl s
  · split
    · exact ⟨_, _, _, _, _, _, rfl⟩
    · exact accessed_rouse ..

theorem accessed_countSeqWalk (s : State) (q a : Nat) : accessed s (s.countSeqWalk q a) := by
  unfold State.countSeqWalk
  split
  · exact accessed_refl s
  · exact accessed_countBehind ..

theorem accessed_countCached (s : State) (q va pa : Nat) : accessed s (s.countCached q va pa) := by
  unfold State.countCached
  refine accessed_trans (accessed_countSeqWalk s q va) ?_
  dsimp only
  split
  · exact accessed_countBehind ..
  · exact accessed_countHbm ..

theorem accessed_countFetch (s : State) (q a : Nat) : accessed s (s.countFetch q a) := by
  unfold State.countFetch
  split
  · split
    · exact accessed_countBehind ..
    · exact accessed_countCached ..
  · exact accessed_countSeqWalk ..

theorem countFetch_mem (s : State) (q a : Nat) : (s.countFetch q a).mem = s.mem := by
  unfold State.countFetch
  split
  · split
    · exact countBehind_mem ..
    · exact countCached_mem ..
  · exact countSeqWalk_mem ..

theorem accessed_storeRuns (s : State) (ps : List (Nat × Nat)) (bs : List Byte) : accessed s (s.storeRuns ps bs) := by
  induction ps generalizing s bs with
  | nil => exact accessed_refl s
  | cons p ps ih => exact accessed_trans (accessed_trans (accessed_store ..) (accessed_countHbm ..)) (ih _ _)

theorem accessed_of_writeVia {s t : State} {tr : Perm → Nat → Except AccErr Nat} {va : Nat} {bs : List Byte}
    (h : s.writeVia tr va bs = .ok t) : accessed s t := by
  unfold State.writeVia State.writeAt at h
  cases hr : s.runAt tr .write va bs.length with
  | error e =>
    simp only [hr] at h
    cases h
  | ok ps =>
    simp only [hr, Except.ok.injEq] at h
    subst h
    exact accessed_trans (accessed_storeRuns s ps bs) (accessed_countBehind ..)

theorem accessed_writePieces (s : State) (tr : Perm → Nat → Except AccErr Nat) (a : Nat) (ps : List (List Word)) :
    accessed s (s.writePieces tr a ps).1 := by
  induction ps generalizing s a with
  | nil => exact accessed_refl s
  | cons p ps ih =>
    unfold State.writePieces
    split
    next => exact accessed_refl s
    next t h => exact accessed_trans (accessed_of_writeVia h) (ih _ _)

/-- The cadastre is a write to memory (R116). -/
theorem accessed_writeCadastre (s : State) (r : Nat) : accessed s (s.writeCadastre r).1 := by
  unfold State.writeCadastre
  dsimp only
  split
  · exact accessed_refl s
  · split
    · exact accessed_refl s
    · split <;> next h => exact congrArg Prod.fst h ▸ accessed_writePieces ..

theorem accessed_seq {s t : State} (h : accessed s t) (q : Nat) : t.seq q = s.seq q := by
  obtain ⟨m, p, w, e, b, r, rfl⟩ := h
  rfl

theorem accessed_ctxs {s t : State} (h : accessed s t) : t.ctxs = s.ctxs := by
  obtain ⟨m, p, w, e, b, r, rfl⟩ := h
  rfl

theorem accessed_taskOf {s t : State} (h : accessed s t) (r : Nat) : t.taskOf r = s.taskOf r := by
  obtain ⟨m, p, w, e, b, r, rfl⟩ := h
  rfl

/-! ## Run-ahead -/

theorem onlySeq_updSeq_of_accessed {s t : State} (h : accessed s t) (hmem : t.mem = s.mem) (q : Nat) (f : Seq → Seq) :
    onlySeq q s (t.updSeq q f) := by
  obtain ⟨m, p, w, e, b, r, rfl⟩ := h
  obtain rfl : m = s.mem := hmem
  exact onlySeq_updSeq _ q f

theorem runaheadBlockStart_starts {s : State} {q : Nat} {b : Blk} {a : Word} {k : Copy} (hrun : (s.seq q).cond = .run)
    (hlast : (s.seq q).blocks.getLast? = some b) (hon : (s.seq q).raen = true) (hroom : (s.seq q).blocks.length ≤ 4)
    (hnext : (s.seq q).predicted b = some a) (hread : s.fetchBlock q a = .ok k)
    (hgood : decodeFault k.hdr k.words (decide (q = service)) = none) (hslice : k.hdr.getLsbD 20 = true) :
    exec (.runaheadBlockStart q) s = .next ((s.countFetch q a.toNat).updSeq q fun x =>
      { x with blocks := x.blocks ++ [Blk.fresh k (s.now + x.btime.toNat)] }) := by
  have hfull : ¬ (s.seq q).blocks.length > 4 := Nat.not_lt.2 hroom
  show execRunaheadBlockStart q s = _
  simp only [execRunaheadBlockStart, hrun, hlast, hon, hfull, hnext, hread, hgood, hslice, Option.isSome_none, Bool.not_true,
    decide_false, Bool.or_self, Bool.false_eq_true, if_false]

/-! ## Taking an asynchronous trap -/

theorem takeAsync_seq (s : State) (q : Nat) : (s.takeAsync q).seq q = (s.seq q).takeAsync := by
  unfold State.takeAsync
  dsimp only
  split
  next h => exact (eq_of_beq h).symm
  next => rw [seq_setSeq, if_pos rfl]

theorem emptySlots_ctxs (s : State) (rs : List (Nat × Nat)) : (s.emptySlots rs).ctxs = s.ctxs := by
  induction rs generalizing s with
  | nil => rfl
  | cons p rs ih => exact ih _

theorem takeAsync_ctxs (s : State) (q : Nat) : (s.takeAsync q).ctxs = s.ctxs := by
  have hdrop : (s.dropMarked q).ctxs = s.ctxs := by
    unfold State.dropMarked
    split
    · exact emptySlots_ctxs ..
    · rfl
  unfold State.takeAsync
  dsimp only
  split
  · rfl
  · exact hdrop

theorem dropMarked_between_blocks {s : State} {q : Nat} (h : (s.seq q).cond ≠ .run) : s.dropMarked q = s := by
  unfold State.dropMarked
  split
  next hrun _ => exact absurd hrun h
  next => rfl

/-- Between blocks the trap changes the sequencer alone. -/
theorem onlySeq_takeAsync {s : State} {q : Nat} (h : (s.seq q).cond ≠ .run) : onlySeq q s (s.takeAsync q) := by
  unfold State.takeAsync
  dsimp only
  rw [dropMarked_between_blocks h]
  split
  · exact ⟨rfl, rfl, rfl, rfl, rfl, rfl, rfl, rfl, rfl, fun _ _ => rfl⟩
  · exact onlySeq_updSeq s q fun _ => (s.seq q).takeAsync

/-- What has come from outside meanwhile, and FROZEN, stand through the taking of a trap. -/
theorem enterTrap_leaves (x : Seq) (cause : BitVec 8) (epc tval : Word) :
    (x.enterTrap cause epc tval).asyncDbg = x.asyncDbg ∧ (x.enterTrap cause epc tval).frozen = x.frozen := by
  obtain ⟨e, b, hx⟩ := dropAhead_eq x 0
  obtain ⟨e', b', hy⟩ := addEnergy_eq (x.dropAhead 0) ((x.dropAhead 0).enw.getD 6 0).toNat
  rw [hx] at hy
  unfold Seq.enterTrap
  rw [hx]
  dsimp only
  rw [hy]
  constructor <;> (repeat' split) <;> rfl

theorem abandon_frozen (x : Seq) : x.abandon.frozen = x.frozen := by
  obtain ⟨e, b, l, hx⟩ := abandon_eq x
  rw [hx]

theorem seqTakeAsync_frozen (x : Seq) : x.takeAsync.frozen = x.frozen := by
  unfold Seq.takeAsync
  split
  · rfl
  · split
    · rfl
    · split
      · exact (enterTrap_leaves ..).2.trans (abandon_frozen _)
      · exact (enterTrap_leaves ..).2.trans (abandon_frozen _)
      · split
        · rfl
        · exact (enterTrap_leaves ..).2
      · rfl

theorem seqTakeAsync_hang {x : Seq} {e v : Word} (htm : x.tm = false) (hat : x.resumeAt = some e)
    (hhang : x.asyncHang = some v) : x.takeAsync = ({ x with asyncHang := none }.abandon).enterTrap causeHANG e v := by
  simp only [Seq.takeAsync, htm, hat, hhang, Bool.false_eq_true, if_false]

/-- DBGHALT is taken between blocks, where nothing else is held (R112, R164). -/
theorem seqTakeAsync_dbghalt {x : Seq} {e v : Word} {vs : List Word} (htm : x.tm = false) (hat : x.resumeAt = some e)
    (hhang : x.asyncHang = none) (hpre : x.asyncPreempt = none) (hdbg : x.asyncDbg = v :: vs) (hcond : x.cond ≠ .run) :
    x.takeAsync = { x with asyncDbg := vs }.enterTrap causeDBGHALT e v := by
  simp only [Seq.takeAsync, htm, hat, hhang, hpre, hdbg, Bool.false_eq_true, if_false]
  exact if_neg (mt eq_of_beq hcond)

/-! ## Debug halts -/

/-- Where a sequencer stands between blocks: a fetch, a hold or a decode of the block at a. -/
def standsBefore (c : Cond) (a : Word) : Prop := (c = .fetch a ∨ c = .held a) ∨ ∃ k, c = .decode k ∧ k.addr = a

theorem standsBefore_ne_run {c : Cond} {a : Word} (h : standsBefore c a) : c ≠ .run := by
  rintro rfl
  obtain (h | h) | ⟨k, h, -⟩ := h <;> cases h

theorem resumeAt_of_standsBefore {x : Seq} {a : Word} (h : standsBefore x.cond a) : x.resumeAt = some a := by
  unfold Seq.resumeAt
  obtain (h | h) | ⟨k, h, rfl⟩ := h <;> rw [h]

theorem dbghalt_takes {s : State} {q : Nat} {v : Word} {vs : List Word} (hdbg : (s.seq q).asyncDbg = v :: vs)
    (hcond : (s.seq q).cond ≠ .run) : exec (.dbghalt q) s = .next (s.takeAsync q) := by
  show execDbghalt q s = _
  rw [execDbghalt, hdbg, List.isEmpty_cons, Bool.false_or]
  exact if_neg (mt eq_of_beq hcond)

/-- A decode that a trap forestalls does nothing more (R112, R154). -/
theorem blockDecode_forestalled {s : State} {q : Nat} (h : ∀ k, (s.seq q).takeAsync.cond ≠ .decode k) :
    exec (.blockDecode q) s = .next (s.takeAsync q) := by
  show execBlockDecode q s = _
  unfold execBlockDecode
  dsimp only
  rw [takeAsync_seq]
  split
  next k hk => exact absurd hk (h k)
  next => rfl

/-- A sequencer that has taken a trap does not decode. -/
theorem trapTaken_ne_decode {x y : Seq} {cause : BitVec 8} {epc tval : Word} (h : trapTaken x y cause epc tval)
    (k : Copy) : y.cond ≠ .decode k := by
  obtain ⟨-, -, -, -, -, hfirst, hdouble⟩ := h
  cases htm : x.tm with
  | true =>
    obtain ⟨-, -, -, -, -, -, hcond⟩ := hdouble htm
    rw [hcond]
    nofun
  | false =>
    obtain ⟨-, -, -, -, -, hcond⟩ := hfirst htm
    rw [hcond]
    split <;> nofun

/-! ## Hung regions -/

/-- The trap of a declared hang is raised, and taken where the sequencer can take it (R115). -/
def Machine.State.raiseHang (s : State) (q : Nat) (v : Word) : State :=
  (s.updSeq q fun x => { x with asyncHang := some v }).takeAsync q

theorem onFreeze_of_no_task {s : State} {r : Nat} (h : s.taskOf r = none) (reported : Bool) : s.onFreeze r reported = s := by
  rw [State.onFreeze, h]

/-- A trap that is raised and taken at once changes no context, and leaves the region frozen. -/
theorem raiseHang_leaves (u : State) (q : Nat) (v : Word) :
    ((u.raiseHang q v).seq q).frozen = (u.seq q).frozen ∧ (u.raiseHang q v).ctxs = u.ctxs := by
  refine ⟨?_, takeAsync_ctxs ..⟩
  rw [State.raiseHang, takeAsync_seq, seqTakeAsync_frozen, seq_updSeq, if_pos rfl]

/-- HANG is taken before anything else that is held (R164). -/
theorem raiseHang_taken {u : State} {q : Nat} {e : Word} (htm : (u.seq q).tm = false)
    (hat : (u.seq q).resumeAt = some e) (v : Word) :
    trapTaken (u.seq q) ((u.raiseHang q v).seq q) causeHANG e v := by
  have htake : { u.seq q with asyncHang := some v }.takeAsync =
      ({ u.seq q with asyncHang := none }.abandon).enterTrap causeHANG e v := seqTakeAsync_hang htm hat rfl
  rw [State.raiseHang, takeAsync_seq, seq_updSeq, if_pos rfl, htake]
  exact abandon_enterTrap_taken { u.seq q with asyncHang := none } causeHANG e v

/-- A hung region that no task holds freezes, its cadastre is written, and the trap comes where HANGTRAP asks for it. -/
theorem hangDeclaration_freezes {s : State} {q : Nat} (hhung : s.hung q = true) (hfree : s.taskOf q = none) :
    ∃ d u v, accessed (s.updSeq q fun x => { x with frozen := true, drainw := d }) u ∧
      exec (.hangDeclaration q) s = .next (if (s.seq q).hangTrap = true then u.raiseHang q v else u) := by
  show ∃ d u v, _ ∧ execHangDeclaration q s = _
  unfold execHangDeclaration
  rw [hhung]
  extract_lets d t
  have hwrite := accessed_writeCadastre t q
  have htask : (t.writeCadastre q).1.taskOf q = none := (accessed_taskOf hwrite q).trans hfree
  have htrap : ((t.writeCadastre q).1.seq q).hangTrap = (s.seq q).hangTrap := by
    rw [accessed_seq hwrite, seq_updSeq, if_pos rfl]
  refine ⟨d, (t.writeCadastre q).1, (t.writeCadastre q).2, hwrite, ?_⟩
  dsimp only
  rw [onFreeze_of_no_task htask, htrap]
  rfl

/-! ## The obligation -/

/-- Settles O27: the block joins the youngest, a trap from outside is taken where the sequencer stands, and a declaration
freezes before it traps. -/
theorem runAheadAndDebugHalts : Obligations.RunAheadAndDebugHalts := by
  refine ⟨fun s q b a k hrun hlast hon hroom hnext hread hgood hslice => ?_,
    fun s q a v vs i hi htm hhang hpre hdbg _ => ?_, fun s q _ hhung hfree => ?_⟩
  · have hcount := accessed_countFetch s q a.toNat
    refine ⟨_, runaheadBlockStart_starts hrun hlast hon hroom hnext hread hgood hslice, ?_, ?_,
      onlySeq_updSeq_of_accessed hcount (countFetch_mem ..) q _⟩ <;>
    rw [seq_updSeq, if_pos rfl, accessed_seq hcount]
  · have hstands : standsBefore (s.seq q).cond a := hi.imp And.right And.right
    have hcond := standsBefore_ne_run hstands
    have htake := seqTakeAsync_dbghalt htm (resumeAt_of_standsBefore hstands) hhang hpre hdbg hcond
    have htaken : trapTaken (s.seq q) (s.seq q).takeAsync causeDBGHALT a v := htake ▸ enterTrap_taken _ causeDBGHALT a v
    have hexec : exec i s = .next (s.takeAsync q) := by
      obtain rfl | rfl : i = .dbghalt q ∨ i = .blockDecode q := hi.elim (fun h => .inl h.1) And.left
      · exact dbghalt_takes hdbg hcond
      · exact blockDecode_forestalled (trapTaken_ne_decode htaken)
    refine ⟨_, hexec, ?_, ?_, onlySeq_takeAsync hcond⟩
    · rwa [takeAsync_seq]
    · rw [takeAsync_seq, htake]
      exact (enterTrap_leaves ..).1
  · obtain ⟨d, u, v, hu, hexec⟩ := hangDeclaration_freezes hhung hfree
    have hseq : u.seq q = { s.seq q with frozen := true, drainw := d } := by
      rw [accessed_seq hu, seq_updSeq, if_pos rfl]
    have hctxs : u.ctxs = s.ctxs := (accessed_ctxs hu).trans (updSeq_ctxs ..)
    by_cases htrap : (s.seq q).hangTrap = true
    · rw [if_pos htrap] at hexec
      obtain ⟨hfrozen, hkept⟩ := raiseHang_leaves u q v
      refine ⟨_, hexec, hfrozen.trans (by rw [hseq]), hkept.trans hctxs, fun e _ htm hat => ?_⟩
      have htm' : (u.seq q).tm = false := by rw [hseq]; exact htm
      have hat' : (u.seq q).resumeAt = some e := by rw [hseq]; exact hat
      obtain ⟨-, -, -, -, -, hfirst, -⟩ := raiseHang_taken htm' hat' v
      obtain ⟨hcause, hepc, -, hset, -, -⟩ := hfirst htm'
      exact ⟨hcause, hset, hepc⟩
    · rw [if_neg htrap] at hexec
      exact ⟨u, hexec, by rw [hseq], hctxs, fun _ h => absurd h htrap⟩

end Sys2Proof
end

section
/-! What the registers read right after reset (R109, R119, R160, R173-R175, R367, R368, R378, R400): first where the
registers of the map lie and what those read that follow other state, then each value. -/

namespace Sys2Proof

open Machine

/-! ## The register map -/

theorem readReg_of_shared {s : State} {q id : Nat} {v : Word} (h : s.readShared q id = some v) :
    s.readReg q id = some v := by
  rw [State.readReg, h]

theorem readReg_of_region {s : State} {r id : Nat} (hr : r ≠ service) (h : s.readShared r id = none) :
    s.readReg r id = s.readRegion r id := by
  rw [State.readReg, h]
  exact if_neg hr

theorem inBank_iff (id lo hi : Nat) : (lo ≤ id && id < hi) = true ↔ lo ≤ id ∧ id < hi := by
  rw [Bool.and_eq_true, decide_eq_true_eq, decide_eq_true_eq]

/-- Between and after the registers that every sequencer has one by one stand the banks of sq.enw and sq.ras. -/
theorem readShared_bank (s : State) (q : Nat) {id : Nat} (h : 0x011 < id ∧ id < 0x044 ∨ 0x046 < id) :
    s.readShared q id =
      if 0x070 ≤ id && id < 0x080 then some (((s.seq q).enw.getD (id - 0x070) 0).setWidth 64)
      else if 0x080 ≤ id && id < 0x0A0 then some ((s.seq q).rasAt (id - 0x080)) else none := by
  unfold State.readShared
  split
  case h_15 => rfl
  all_goals omega

/-- sq.enw (R381): sixteen registers from 0x070 on. -/
theorem readReg_enw (s : State) (q : Nat) {k : Nat} (hk : k < 16) :
    s.readReg q (0x070 + k) = some (((s.seq q).enw.getD k 0).setWidth 64) := by
  refine readReg_of_shared ?_
  rw [readShared_bank _ _ (by omega), if_pos ((inBank_iff ..).2 (by omega)), Nat.add_sub_cancel_left]

/-- The return-address store (R166): thirty-two registers from 0x080 on. -/
theorem readReg_ras (s : State) (q : Nat) {k : Nat} (hk : k < 32) :
    s.readReg q (0x080 + k) = some ((s.seq q).rasAt k) := by
  refine readReg_of_shared ?_
  rw [readShared_bank _ _ (by omega), if_neg (mt (inBank_iff ..).1 (by omega)), if_pos ((inBank_iff ..).2 (by omega)),
    Nat.add_sub_cancel_left]

/-- The halt points (R109): sixteen registers from 0x021 on, of a region's sequencer alone. -/
theorem readReg_halt (s : State) {r : Nat} (hr : r ≠ service) {k : Nat} (hk : k < 16) :
    s.readReg r (0x021 + k) = some (s.haltWord r k) := by
  have hnone : s.readShared r (0x021 + k) = none := by
    rw [readShared_bank _ _ (by omega), if_neg (mt (inBank_iff ..).1 (by omega)), if_neg (mt (inBank_iff ..).1 (by omega))]
  rw [readReg_of_region hr hnone]
  unfold State.readRegion
  split
  case h_10 => rw [if_pos ((inBank_iff ..).2 (by omega)), Nat.add_sub_cancel_left]
  all_goals omega

/-! ## Registers that follow other state -/

theorem heldMask_of_halts_off {s : State} {r : Nat} (h : (s.seq r).hen = false) : s.heldMask r = 0 := by
  rw [State.heldMask, h]
  rfl

theorem satTo_zero (lim : Nat) : satTo lim 0 = 0 := if_pos (Nat.zero_le lim)

/-- REL and COUNT of a halt point are 0 where no context is armed (R109). -/
theorem haltWord_of_disarmed {s : State} {r : Nat} (hoff : (s.seq r).hen = false) (harm : (s.region r).armed = none)
    (k : Nat) : s.haltWord r k = wd (s.halt r k).toNat := by
  have harcs : s.arcsOf r = [] := by
    rw [State.arcsOf, harm]
    rfl
  simp only [State.haltWord, hoff, harcs, List.any_nil, bitOf, satTo_zero, Bool.false_and, Bool.false_eq_true, if_false,
    Nat.add_zero, Nat.zero_mul]

theorem staticMw_of_no_task {s : State} {q : Nat} (h : s.taskOf q = none) : s.staticMw q = 0 := by
  rw [State.staticMw, h]
  exact satTo_zero _

/-! ## Reset -/

theorem reset_seq (q : Nat) : State.reset.seq q = Seq.initial := rfl

theorem reset_dbgCtl (r : Nat) : State.reset.dbgCtl r = 0 := by
  have hheld : State.reset.heldMask r = 0 := heldMask_of_halts_off rfl
  rw [State.dbgCtl, hheld, reset_seq]
  decide

theorem reset_encfg (q : Nat) : State.reset.encfg q = 0 := by
  have hfree : State.reset.taskOf q = none := rfl
  rw [State.encfg, staticMw_of_no_task hfree]
  rfl

theorem initial_flogCtl : Seq.initial.flogCtl = 0 := by decide

/-- sq.status has RAEN and LBEN set, and bit 5 at the service sequencer (R173). -/
theorem reset_status (q : Nat) : State.reset.readReg q 0x000 = some (if q = 96 then 0x38 else 0x18) := by
  have hstatus : State.reset.readReg q 0x000 = some (Seq.initial.status (q = service)) := readReg_of_shared rfl
  rw [hstatus, service]
  by_cases hq : q = 96
  · rw [decide_eq_true hq, if_pos hq]
    rfl
  · rw [decide_eq_false hq, if_neg hq]
    rfl

/-- Settles O58: no table lists anything, so that every party reads as its initial value. -/
theorem resetLeavesTheStatedValues : Obligations.ResetLeavesTheStatedValues := by
  refine ⟨fun q _ => ⟨?_, reset_status q, rfl, fun _ hk => readReg_enw _ q hk, fun _ hk => readReg_ras _ q hk⟩,
    fun r hr => ?_, rfl, ?_, fun _ => rfl, fun _ => rfl, fun _ => rfl, rfl, Memory.wf_nil⟩
  · have hencfg : State.reset.readReg q 0x011 = some 0 := readReg_of_shared (congrArg some (reset_encfg q))
    have hflog : State.reset.readReg q 0x045 = some 0 := readReg_of_shared (congrArg some initial_flogCtl)
    simp only [List.forall_mem_cons]
    exact ⟨rfl, rfl, rfl, rfl, rfl, rfl, rfl, rfl, hencfg, rfl, hflog, rfl, fun _ h => absurd h List.not_mem_nil⟩
  · have hregion : r ≠ service := Nat.ne_of_lt hr
    have hread {id : Nat} (h : State.reset.readShared r id = none) := readReg_of_region hregion h
    refine ⟨hread rfl, fun k hk => ?_, ?_⟩
    · rw [readReg_halt _ hregion hk, haltWord_of_disarmed rfl rfl]
      rfl
    · simp only [List.forall_mem_cons]
      exact ⟨(hread rfl).trans (congrArg some (reset_dbgCtl r)), hread rfl, hread rfl, hread rfl, hread rfl,
        fun _ h => absurd h List.not_mem_nil⟩
  · simp only [List.forall_mem_cons]
    exact ⟨rfl, rfl, rfl, rfl, rfl, fun _ h => absurd h List.not_mem_nil⟩

end Sys2Proof
end

section
/-! Entering a trap (R163). -/

namespace Sys2Proof

/-- Settles O23: the energy of what is discarded aside, entering a trap writes the trap registers alone. -/
theorem trapEntry : Obligations.TrapEntry := fun x cause epc tval => enterTrap_taken x cause epc tval

end Sys2Proof
end

section
/-! Repeats (R172, R273, R310): what a repeat takes back in a block, then in the blocks of a sequencer and in the state,
and the loads that an acquire and a store repeat. -/

namespace Sys2Proof

open Machine

/-! ## What fires again with some instructions -/

theorem wrgRegs_nil (b : Blk) : b.wrgRegs [] = [] := rfl

theorem readersOf_nil (b : Blk) : b.readersOf [] = [] := by
  refine List.filter_eq_nil_iff.2 fun k _ => ?_
  split
  · exact Bool.false_ne_true
  · exact Bool.false_ne_true

theorem again_subset_fired (b : Blk) (ks : List Nat) : b.again ks ⊆ b.fired := List.filter_sublist.subset

theorem mem_again_of_mem {b : Blk} {ks : List Nat} {k : Nat} (hf : k ∈ b.fired) (hk : k ∈ ks) : k ∈ b.again ks :=
  List.mem_filter.2 ⟨hf, by simp only [List.contains_iff_mem.2 hk, Bool.true_or]⟩

theorem mem_again_of_fed {b : Blk} {ks : List Nat} {k t : Nat} (hk : k ∈ ks) (ht : t ∈ b.targetsOf k)
    (hf : t / 4 ∈ b.fired) : t / 4 ∈ b.again ks := by
  have hfed : (ks.flatMap b.targetsOf).any (fun u => u / 4 == t / 4) = true :=
    List.any_eq_true.2 ⟨t, List.mem_flatMap.2 ⟨k, hk, ht⟩, beq_self_eq_true _⟩
  exact List.mem_filter.2 ⟨hf, by simp only [hfed, Bool.or_true, Bool.true_or]⟩

/-- Firings chosen from those of a block, in their order, are among those that fire again with them. -/
theorem filter_sublist_again (b : Blk) (p : Nat → Bool) :
    (b.fired.filter p).Sublist (b.again (b.fired.filter p)) := by
  have hchosen : (b.again (b.fired.filter p)).filter p = b.fired.filter p := by
    rw [Blk.again, List.filter_filter]
    refine List.filter_congr fun k hk => ?_
    by_cases hp : p k = true
    · have hmem : (b.fired.filter p).contains k = true := List.contains_iff_mem.2 (List.mem_filter.2 ⟨hk, hp⟩)
      simp only [hp, hmem, Bool.true_or, Bool.and_self]
    · rw [Bool.eq_false_iff.2 hp, Bool.false_and]
  have hsub : ((b.again (b.fired.filter p)).filter p).Sublist (b.again (b.fired.filter p)) := List.filter_sublist
  rwa [hchosen] at hsub

theorem subset_closure {b : Blk} {n : Nat} {ks : List Nat} (h : ks ⊆ b.fired) : ks ⊆ b.closure n ks := by
  induction n generalizing ks with
  | zero => exact List.Subset.refl ks
  | succ n ih =>
    rw [Blk.closure]
    split
    · exact List.Subset.refl ks
    · have hagain : ks ⊆ b.again ks := fun k hk => mem_again_of_mem (h hk) hk
      exact List.Subset.trans hagain (ih (again_subset_fired b ks))

/-- The first round already reaches what the chosen firings have fed. -/
theorem fed_mem_closure {b : Blk} {p : Nat → Bool} {n k t : Nat} (hk : k ∈ b.fired.filter p) (ht : t ∈ b.targetsOf k)
    (hf : t / 4 ∈ b.fired) : t / 4 ∈ b.closure (n + 1) (b.fired.filter p) := by
  have hfed := mem_again_of_fed hk ht hf
  rw [Blk.closure]
  split
  next hlen => exact (filter_sublist_again b p).eq_of_length hlen.symm ▸ hfed
  next => exact subset_closure (again_subset_fired b _) hfed

/-! ## A block with firings taken back -/

/-- The firings of a block that are taken back where some instructions are named. -/
def repeatedOf (b : Blk) (named : List Nat) : List Nat :=
  let ks := b.fired.filter named.contains
  if ks.isEmpty then [] else b.closure (b.words.length + 1) ks

/-- The block without them. -/
def retaken (b : Blk) (named : List Nat) : Blk :=
  if (repeatedOf b named).isEmpty then b else b.unfire (repeatedOf b named)

theorem repeatedOf_nil (b : Blk) : repeatedOf b [] = [] := by
  have hnone : b.fired.filter ([] : List Nat).contains = [] := List.filter_eq_nil_iff.2 fun _ _ => Bool.false_ne_true
  rw [repeatedOf, hnone]
  rfl

theorem retaken_nil (b : Blk) : retaken b [] = b := by rw [retaken, repeatedOf_nil]; rfl

theorem unfire_find_target {b : Blk} {ks : List Nat} {k t : Nat} (hk : k ∈ ks) (ht : t ∈ b.targetsOf k) :
    (b.unfire ks).slots.find? t = none := by
  refine Option.eq_none_iff_forall_ne_some.2 fun v hv => ?_
  have hkept : (!(ks.flatMap b.targetsOf).contains t) = true := (List.mem_filter.1 (Tab.mem_of_find hv)).2
  have htaken : t ∈ ks.flatMap b.targetsOf := List.mem_flatMap.2 ⟨k, hk, ht⟩
  rw [List.contains_iff_mem.2 htaken] at hkept
  exact Bool.false_ne_true hkept

theorem not_mem_unfire_fired {b : Blk} {ks : List Nat} {k : Nat} (hk : k ∈ ks) : k ∉ (b.unfire ks).fired := fun h => by
  have hkept : (!ks.contains k) = true := (List.mem_filter.1 h).2
  rw [List.contains_iff_mem.2 hk] at hkept
  exact Bool.false_ne_true hkept

/-- A named firing is taken back with the values that it delivered and the firings that took them. -/
theorem retaken_unfires {b : Blk} {named : List Nat} {k : Nat} (hk : k ∈ named) (hf : k ∈ b.fired) :
    k ∉ (retaken b named).fired ∧
      ∀ t ∈ b.targetsOf k, (retaken b named).slots.find? t = none ∧ t / 4 ∉ (retaken b named).fired := by
  have hchosen : k ∈ b.fired.filter named.contains := List.mem_filter.2 ⟨hf, List.contains_iff_mem.2 hk⟩
  have hsome : ¬ (b.fired.filter named.contains).isEmpty = true := fun h =>
    List.ne_nil_of_mem hchosen (List.isEmpty_iff.1 h)
  have hrep : repeatedOf b named = b.closure (b.words.length + 1) (b.fired.filter named.contains) := if_neg hsome
  have hmem : k ∈ repeatedOf b named := hrep ▸ subset_closure (List.filter_sublist.subset) hchosen
  have hret : retaken b named = b.unfire (repeatedOf b named) :=
    if_neg fun h => List.ne_nil_of_mem hmem (List.isEmpty_iff.1 h)
  rw [hret]
  refine ⟨not_mem_unfire_fired hmem, fun t ht => ⟨unfire_find_target hmem ht, fun hfired => ?_⟩⟩
  have hfed : t / 4 ∈ repeatedOf b named := hrep ▸ fed_mem_closure hchosen ht (List.mem_filter.1 hfired).1
  exact not_mem_unfire_fired hfed hfired

/-! ## The blocks of a sequencer -/

section
variable (sel : Nat → Blk → List Nat)

/-- The registers whose values the blocks up to and with b have taken back, given those of the blocks before it. -/
def regsTakenBack (gs : List Nat) (b : Blk) (named : List Nat) : List Nat :=
  (gs.filter fun g => match b.regs.find? g with
    | some (.word _) => false
    | _ => true) ++ b.wrgRegs (repeatedOf b named)

theorem unfireFrom_cons (n : Nat) (gs : List Nat) (b : Blk) (rest : List Blk) :
    unfireFrom sel n gs (b :: rest) = retaken b (sel n b ++ b.readersOf gs) ::
      unfireFrom sel (n + 1) (regsTakenBack gs b (sel n b ++ b.readersOf gs)) rest := rfl

theorem unfireFrom_length (n : Nat) (gs : List Nat) (bs : List Blk) : (unfireFrom sel n gs bs).length = bs.length := by
  induction bs generalizing n gs with
  | nil => rfl
  | cons b bs ih => rw [unfireFrom_cons, List.length_cons, ih, List.length_cons]

theorem unfireFrom_getElem? {n m : Nat} {gs : List Nat} {bs : List Blk} {b : Blk} (hb : bs[n]? = some b) :
    ∃ named, sel (m + n) b ⊆ named ∧ (unfireFrom sel m gs bs)[n]? = some (retaken b named) := by
  induction bs generalizing n m gs with
  | nil => cases hb
  | cons c bs ih =>
    rw [unfireFrom_cons]
    cases n with
    | zero =>
      cases hb
      exact ⟨_, List.subset_append_left _ _, rfl⟩
    | succ n =>
      obtain ⟨named, hsub, hget⟩ := ih (m := m + 1) hb
      exact ⟨named, by rwa [Nat.add_right_comm] at hsub, hget⟩

theorem unfireFrom_eq_self {m : Nat} {bs : List Blk} (h : ∀ n b, bs[n]? = some b → sel (m + n) b = []) :
    unfireFrom sel m [] bs = bs := by
  induction bs generalizing m with
  | nil => rfl
  | cons b bs ih =>
    have hnamed : sel m b ++ b.readersOf [] = [] := by rw [readersOf_nil, List.append_nil]; exact h 0 b rfl
    have hregs : regsTakenBack [] b [] = [] := by rw [regsTakenBack, repeatedOf_nil, wrgRegs_nil]; rfl
    have hrest : ∀ n c, bs[n]? = some c → sel (m + 1 + n) c = [] := fun n c hc => by
      rw [Nat.add_assoc, Nat.add_comm 1]
      exact h (n + 1) c hc
    rw [unfireFrom_cons, hnamed, hregs, retaken_nil, ih hrest]

theorem unfireFrom_head? (h : ∀ b, sel 0 b = []) (bs : List Blk) : (unfireFrom sel 0 [] bs).head? = bs.head? := by
  cases bs with
  | nil => rfl
  | cons b bs =>
    have hnamed : sel 0 b ++ b.readersOf [] = [] := by rw [readersOf_nil, h b]; rfl
    rw [unfireFrom_cons, hnamed, retaken_nil]
    rfl

end

/-! ## The state -/

theorem emptySlots_keeps {β : Type} (g : State → β)
    (h : ∀ (s : State) (p : Nat × Nat), g (s.updRegion p.1 fun x => { x with slots := x.slots.del p.2 }) = g s)
    (s : State) (rs : List (Nat × Nat)) : g (s.emptySlots rs) = g s := foldl_keeps g _ h rs s

theorem emptySlots_region (s : State) (rs : List (Nat × Nat)) (r : Nat) :
    { (s.emptySlots rs).region r with slots := (s.region r).slots } = s.region r := by
  refine congrArg (fun x : Region => { x with slots := (s.region r).slots })
    (emptySlots_keeps (fun t => { t.region r with slots := [] }) (fun t p => ?_) s rs)
  dsimp only
  rw [region_updRegion]
  split
  next hp => rw [hp]
  next => rfl

section
variable (s : State) (q : Nat) (sel : Nat → Blk → List Nat)

/-- A repeat that takes nothing back changes nothing; any other empties slots and replaces the blocks. -/
theorem retake_cases :
    (s.retake q sel = s ∧ unfireFrom sel 0 [] (s.seq q).blocks = (s.seq q).blocks) ∨
      ∃ rs, s.retake q sel = (s.emptySlots rs).updSeq q fun x =>
        { x with blocks := unfireFrom sel 0 [] (s.seq q).blocks } := by
  by_cases h : (unfireFrom sel 0 [] (s.seq q).blocks == (s.seq q).blocks) = true
  · exact .inl ⟨if_pos h, eq_of_beq h⟩
  · exact .inr ⟨_, if_neg h⟩

theorem retake_seq : (s.retake q sel).seq q = { s.seq q with blocks := unfireFrom sel 0 [] (s.seq q).blocks } := by
  obtain ⟨hsame, hbs⟩ | ⟨rs, hnext⟩ := retake_cases s q sel
  · rw [hsame, hbs]
  · rw [hnext, seq_updSeq, if_pos rfl, emptySlots_keeps (fun t => t.seq q) fun _ _ => rfl]

/-- What neither the slots of a region nor the blocks of a sequencer are in, a repeat keeps. -/
theorem retake_keeps {β : Type} (g : State → β)
    (hslots : ∀ (s : State) (p : Nat × Nat), g (s.updRegion p.1 fun x => { x with slots := x.slots.del p.2 }) = g s)
    (hblocks : ∀ (s : State) bs, g (s.updSeq q fun x => { x with blocks := bs }) = g s) : g (s.retake q sel) = g s := by
  obtain ⟨hsame, -⟩ | ⟨rs, hnext⟩ := retake_cases s q sel
  · rw [hsame]
  · rw [hnext, hblocks, emptySlots_keeps g hslots]

theorem retake_seq_other {p : Nat} (hp : p ≠ q) : (s.retake q sel).seq p = s.seq p :=
  retake_keeps s q sel (fun t => t.seq p) (fun _ _ => rfl) fun t bs => by rw [seq_updSeq, if_neg hp.symm]

theorem retake_region (r : Nat) : { (s.retake q sel).region r with slots := (s.region r).slots } = s.region r := by
  obtain ⟨hsame, -⟩ | ⟨rs, hnext⟩ := retake_cases s q sel
  · rw [hsame]
  · rw [hnext]
    exact emptySlots_region s rs r

end

/-- A repeat takes back the firings that are named and what they have fed. -/
theorem retake_unfires {s : State} {q n k : Nat} {sel : Nat → Blk → List Nat} {b : Blk}
    (hb : (s.seq q).blocks[n]? = some b) (hk : k ∈ sel n b) (hf : k ∈ b.fired) :
    ∃ b', ((s.retake q sel).seq q).blocks[n]? = some b' ∧ k ∉ b'.fired ∧
      ∀ t ∈ b.targetsOf k, b'.slots.find? t = none ∧ t / 4 ∉ b'.fired := by
  obtain ⟨named, hsub, hget⟩ := unfireFrom_getElem? sel (m := 0) (gs := []) hb
  rw [Nat.zero_add] at hsub
  rw [retake_seq]
  exact ⟨_, hget, retaken_unfires (hsub hk) hf⟩

theorem retake_eq_self {s : State} {q : Nat} {sel : Nat → Blk → List Nat}
    (h : ∀ n b, (s.seq q).blocks[n]? = some b → sel n b = []) : s.retake q sel = s :=
  if_pos (beq_iff_eq.2 (unfireFrom_eq_self sel fun n b hb => by rw [Nat.zero_add]; exact h n b hb))

theorem retake_head? {s : State} {q : Nat} {sel : Nat → Blk → List Nat} (h : ∀ b, sel 0 b = []) :
    ((s.retake q sel).seq q).blocks.head? = (s.seq q).blocks.head? := by
  rw [retake_seq]
  exact unfireFrom_head? sel h _

/-! ## The loads that an acquire and a store repeat -/

theorem overlaps_iff (a n c m : Nat) : overlaps a n c m = true ↔ a < c + m ∧ c < a + n ∧ n ≠ 0 ∧ m ≠ 0 := by
  simp only [overlaps, Bool.and_eq_true, decide_eq_true_eq, bne_iff_ne, and_assoc]

/-- The loads of younger blocks for which p holds, by their instructions. -/
def youngerLoads (p : Blk → LoadRec → Bool) (n : Nat) (b : Blk) : List Nat :=
  if n = 0 then [] else (b.loads.filter (p b)).map (·.ix)

theorem afterAcquire_eq (s : State) (q : Nat) : s.afterAcquire q = s.retake q (youngerLoads (s.outdated q)) := rfl

theorem afterStore_eq (s : State) (q pa k : Nat) :
    s.afterStore q pa k = s.retake q (youngerLoads fun _ l => l.done && overlaps l.pa.toNat l.n pa k) := rfl

theorem mem_youngerLoads {p : Blk → LoadRec → Bool} {n : Nat} {b : Blk} {l : LoadRec} (hn : n ≠ 0) (hl : l ∈ b.loads)
    (hp : p b l = true) : l.ix ∈ youngerLoads p n b := by
  rw [youngerLoads, if_neg hn]
  exact List.mem_map_of_mem (List.mem_filter.2 ⟨hl, hp⟩)

theorem youngerLoads_eq_nil {p : Blk → LoadRec → Bool} {n : Nat} {b : Blk} (h : n ≠ 0 → ∀ l ∈ b.loads, p b l = false) :
    youngerLoads p n b = [] := by
  by_cases hn : n = 0
  · exact if_pos hn
  · have hnone : b.loads.filter (p b) = [] := List.filter_eq_nil_iff.2 fun l hl => Bool.not_eq_true _ ▸ h hn l hl
    rw [youngerLoads, if_neg hn, hnone]
    rfl

theorem youngerLoads_oldest (p : Blk → LoadRec → Bool) (b : Blk) : youngerLoads p 0 b = [] := if_pos rfl

/-- Settles O28: by what a repeat does with the firings that are named, where an acquire and a store name loads of
younger blocks alone. -/
theorem repeatsTakeBackYoungerLoads : Obligations.RepeatsTakeBackYoungerLoads := by
  refine ⟨fun s q sel => ?_, fun s q n b l hn hb hl hf hout => ?_, fun s q pa k n b l hn hb hl hf hd hln hk hlo hhi => ?_,
    fun s q pa k h => ?_, fun s q h => ?_, fun s q pa n => ⟨?_, ?_⟩⟩
  · have hkept := retake_keeps s q sel (fun t => (t.mem, t.flags, t.tasks, t.chans, t.ctxs, t.sbufs, t.energy))
      (fun _ _ => rfl) fun _ _ => rfl
    simp only [Prod.mk.injEq] at hkept
    obtain ⟨hmem, hflags, htasks, hchans, hctxs, hsbufs, henergy⟩ := hkept
    exact ⟨hmem, hflags, htasks, hchans, hctxs, hsbufs, henergy, fun p hp => retake_seq_other s q sel hp,
      ⟨_, retake_seq s q sel, unfireFrom_length ..⟩, retake_region s q sel⟩
  · rw [afterAcquire_eq]
    exact retake_unfires hb (mem_youngerLoads hn hl hout) hf
  · have hmeet : overlaps l.pa.toNat l.n pa k = true := (overlaps_iff ..).2 ⟨hlo, hhi, Nat.ne_of_gt hln, Nat.ne_of_gt hk⟩
    rw [afterStore_eq]
    exact retake_unfires hb (mem_youngerLoads hn hl (by rw [hd, hmeet]; rfl)) hf
  · rw [afterStore_eq]
    refine retake_eq_self fun n b hb => youngerLoads_eq_nil fun hn l hl => ?_
    by_cases hd : l.done = true
    · have happart : ¬ overlaps l.pa.toNat l.n pa k = true := fun ho => by
        obtain ⟨hlo, hhi, -, -⟩ := (overlaps_iff ..).1 ho
        have := h n b hn hb l hl hd
        omega
      rw [Bool.eq_false_iff.2 happart, Bool.and_false]
    · rw [Bool.eq_false_iff.2 hd, Bool.false_and]
  · rw [afterAcquire_eq]
    exact retake_eq_self fun n b hb => youngerLoads_eq_nil fun hn => h n b hn hb
  · rw [afterStore_eq]
    exact retake_head? (youngerLoads_oldest _)
  · rw [afterAcquire_eq]
    exact retake_head? (youngerLoads_oldest _)

end Sys2Proof
end

section
/-! Rounding (R238, R243): to nearest even the rounded number is within half a unit of the value, and a finite number of
an IEEE format is a whole number of its own units, so that every mode rounds it to its own code. -/

namespace Sys2Proof

open Machine

/-! ## Rounding to units -/

/-- Rounding to nearest even takes the next number of units past the half, and at the half from an odd one. -/
theorem roundUnits_rne (neg : Bool) (m : Nat) {e q : Int} (h : e < q) :
    roundUnits .rne neg m e q =
      m / 2 ^ (q - e).toNat + if 2 ^ (q - e).toNat < 2 * (m % 2 ^ (q - e).toNat) ∨
        2 * (m % 2 ^ (q - e).toNat) = 2 ^ (q - e).toNat ∧ m / 2 ^ (q - e).toNat % 2 = 1 then 1 else 0 := by
  simp only [roundUnits, if_neg (Int.not_le.2 h), Bool.or_eq_true, Bool.and_eq_true, decide_eq_true_eq, beq_iff_eq]
  split <;> rfl

/-- No mode changes a value that is in its units already. -/
theorem roundUnits_self (r : Round) (neg : Bool) (m : Nat) (q : Int) : roundUnits r neg m q q = m := by
  simp [roundUnits]

/-- A number rounded to the nearest multiple of D, and at the half to the even multiple. -/
theorem nearestEven_bounds {D m k x n : Nat} (hm : D * k + x = m) (hx : x < D)
    (hn : n = k + if D < 2 * x ∨ 2 * x = D ∧ k % 2 = 1 then 1 else 0) :
    2 * n * D ≤ 2 * m + D ∧ 2 * m ≤ 2 * n * D + D ∧
      (2 * n * D = 2 * m + D ∨ 2 * m = 2 * n * D + D → n % 2 = 0) := by
  subst hn hm
  split
  case isTrue hup =>
    have hD : 2 * (k + 1) * D = 2 * (D * k) + 2 * D := by
      rw [Nat.mul_assoc, Nat.succ_mul k, Nat.mul_add, Nat.mul_comm k]
    omega
  case isFalse hdown =>
    have hD : 2 * (k + 0) * D = 2 * (D * k) := by rw [Nat.add_zero, Nat.mul_assoc, Nat.mul_comm k]
    omega

/-! ## Finite codes of an IEEE layout -/

/-- A value whose leading bit, or the least subnormal, sets the unit that it is in already keeps its digits. -/
theorem roundMag_of_unit (f : FloatFmt) (r : Round) (neg : Bool) {m : Nat} {e : Int} (hm : m ≠ 0)
    (hq : max (e + m.log2 - f.mb) f.emin = e) (hmax : (e - f.emin).toNat * 2 ^ f.mb + m ≤ f.maxCode) :
    f.roundMag r neg m e = (e - f.emin).toNat * 2 ^ f.mb + m := by
  simp only [FloatFmt.roundMag, if_neg hm, hq, roundUnits_self, if_pos hmax]

/-- A subnormal is in units of the least subnormal. -/
theorem roundMag_subnormal (f : FloatFmt) (r : Round) (neg : Bool) {fr : Nat} (hfr : fr < 2 ^ f.mb)
    (hmax : fr ≤ f.maxCode) : f.roundMag r neg fr f.emin = fr := by
  by_cases h0 : fr = 0
  · simp [FloatFmt.roundMag, h0]
  · have hlog : fr.log2 < f.mb := (Nat.log2_lt h0).2 hfr
    rw [roundMag_of_unit f r neg h0 (by omega) (by simpa using hmax)]
    simp

/-- A normal number is in units of the last bit of its fraction. -/
theorem roundMag_normal (f : FloatFmt) (r : Round) (neg : Bool) {ex fr : Nat} (hex : ex ≠ 0) (hfr : fr < 2 ^ f.mb)
    (hmax : 2 ^ f.mb * ex + fr ≤ f.maxCode) :
    f.roundMag r neg (2 ^ f.mb + fr) (f.emin + (ex - 1 : Nat)) = 2 ^ f.mb * ex + fr := by
  have hpos := Nat.two_pow_pos f.mb
  have hlog : (2 ^ f.mb + fr).log2 = f.mb := (Nat.log2_eq_iff (by omega)).2 ⟨by omega, by rw [Nat.pow_succ]; omega⟩
  obtain ⟨k, rfl⟩ := Nat.exists_eq_succ_of_ne_zero hex
  have hcode : (f.emin + (k.succ - 1 : Nat) - f.emin).toNat * 2 ^ f.mb + (2 ^ f.mb + fr) = 2 ^ f.mb * k.succ + fr := by
    rw [Int.add_comm, Int.add_sub_cancel, Int.toNat_natCast, Nat.succ_sub_one, Nat.mul_succ, Nat.mul_comm, Nat.add_assoc]
  rw [roundMag_of_unit f r neg (by omega) (by omega) (hcode ▸ hmax), hcode]

/-- A code of an IEEE layout whose exponent field is not full lies below the infinity. -/
theorem code_le_maxCode {f : FloatFmt} (hf : f.sp = .ieee) {ex fr : Nat} (hex : ex < 2 ^ f.eb - 1)
    (hfr : fr < 2 ^ f.mb) : 2 ^ f.mb * ex + fr ≤ f.maxCode := by
  have hle : 2 ^ f.mb * (ex + 1) ≤ 2 ^ f.mb * (2 ^ f.eb - 1) := Nat.mul_le_mul_left _ hex
  rw [Nat.mul_succ] at hle
  simp only [FloatFmt.maxCode, hf]
  rw [Nat.mul_comm (2 ^ f.eb - 1)]
  omega

/-- A finite value of an IEEE layout is a subnormal or a normal number, by its exponent field. -/
theorem value_fin {f : FloatFmt} (hf : f.sp = .ieee) {code m : Nat} {n : Bool} {e : Int}
    (h : f.value code = .fin n m e) :
    let mag := code % 2 ^ (f.eb + f.mb)
    n = (code / 2 ^ (f.eb + f.mb) % 2 == 1) ∧ mag / 2 ^ f.mb ≠ 2 ^ f.eb - 1 ∧
      (mag / 2 ^ f.mb = 0 ∧ m = mag % 2 ^ f.mb ∧ e = f.emin ∨
        mag / 2 ^ f.mb ≠ 0 ∧ m = 2 ^ f.mb + mag % 2 ^ f.mb ∧ e = f.emin + (mag / 2 ^ f.mb - 1 : Nat)) := by
  intro mag
  simp only [FloatFmt.value, hf, decide_true, Bool.true_and, decide_eq_true_eq, reduceCtorEq, decide_false,
    Bool.false_and, Bool.false_eq_true, if_false] at h
  split at h
  case isTrue => split at h <;> cases h
  case isFalse hfull =>
    split at h
    case isTrue hsub =>
      obtain ⟨rfl, rfl, rfl⟩ := ExactVal.fin.inj h
      exact ⟨rfl, hfull, .inl ⟨hsub, rfl, rfl⟩⟩
    case isFalse hnorm =>
      obtain ⟨rfl, rfl, rfl⟩ := ExactVal.fin.inj h
      exact ⟨rfl, hfull, .inr ⟨hnorm, rfl, rfl⟩⟩

/-- Every mode rounds a finite number of an IEEE layout to the magnitude of its own code. -/
theorem roundMag_value {f : FloatFmt} (hf : f.sp = .ieee) (r : Round) {code m : Nat} {n : Bool} {e : Int}
    (h : f.value code = .fin n m e) : f.roundMag r n m e = code % 2 ^ (f.eb + f.mb) := by
  obtain ⟨-, hfull, hfin⟩ := value_fin hf h
  generalize hmag : code % 2 ^ (f.eb + f.mb) = mag at hfull hfin ⊢
  have hlt : mag < 2 ^ f.mb * 2 ^ f.eb := by
    rw [← hmag, ← Nat.pow_add, Nat.add_comm f.mb]
    exact Nat.mod_lt _ (Nat.two_pow_pos _)
  have hex : mag / 2 ^ f.mb < 2 ^ f.eb := Nat.div_lt_of_lt_mul hlt
  have hfr : mag % 2 ^ f.mb < 2 ^ f.mb := Nat.mod_lt _ (Nat.two_pow_pos _)
  have hsplit : 2 ^ f.mb * (mag / 2 ^ f.mb) + mag % 2 ^ f.mb = mag := Nat.div_add_mod _ _
  have hmax := code_le_maxCode hf (by omega : mag / 2 ^ f.mb < 2 ^ f.eb - 1) hfr
  obtain ⟨hsub, rfl, rfl⟩ | ⟨hnorm, rfl, rfl⟩ := hfin
  · rw [hsub, Nat.mul_zero, Nat.zero_add] at hsplit hmax
    rw [roundMag_subnormal f r n hfr hmax, hsplit]
  · rw [roundMag_normal f r n hnorm hfr hmax, hsplit]

/-- The sign of a finite number is the highest bit of its code. -/
theorem sign_value {f : FloatFmt} (hf : f.sp = .ieee) {code m : Nat} {n : Bool} {e : Int}
    (hcode : code < 2 ^ (f.eb + f.mb + 1)) (h : f.value code = .fin n m e) :
    f.sign n = 2 ^ (f.eb + f.mb) * (code / 2 ^ (f.eb + f.mb)) := by
  obtain ⟨rfl, -⟩ := value_fin hf h
  have hbit : code / 2 ^ (f.eb + f.mb) < 2 := Nat.div_lt_of_lt_mul hcode
  obtain h0 | h1 := Nat.le_one_iff_eq_zero_or_eq_one.1 (Nat.le_of_lt_succ hbit)
  · simp [FloatFmt.sign, h0]
  · simp [FloatFmt.sign, h1]

/-! ## The IEEE formats -/

/-- The codes of the four IEEE formats have an IEEE layout, which fills their bits (R24, R238). -/
theorem isIeee_layout {fmt : Nat} (h : isIeee fmt = true) :
    isInt fmt = false ∧ fmt ≠ 0x15 ∧ (floatFmt fmt).sp = .ieee ∧
      fmtBits fmt = (floatFmt fmt).eb + (floatFmt fmt).mb + 1 := by
  simp only [isIeee, Bool.and_eq_true, decide_eq_true_eq] at h
  obtain ⟨hlo, hhi⟩ := h
  obtain rfl | rfl | rfl | rfl : fmt = 0x09 ∨ fmt = 0x0A ∨ fmt = 0x0B ∨ fmt = 0x0C := by omega
  all_goals decide

theorem valueOf_ieee {fmt : Nat} (h : isIeee fmt = true) (code : Nat) :
    valueOf fmt code = (floatFmt fmt).value code := by
  obtain ⟨hint, hmx, -⟩ := isIeee_layout h
  simp [valueOf, hint, hmx]

theorem roundTo_ieee_fin {fmt : Nat} (h : isIeee fmt = true) (r : Round) (n : Bool) (m : Nat) (e : Int) :
    roundTo fmt r (.fin n m e) = (floatFmt fmt).sign n + (floatFmt fmt).roundMag r n m e := by
  obtain ⟨hint, hmx, -⟩ := isIeee_layout h
  simp [roundTo, hint, hmx]

/-- A finite number of an IEEE format is rounded to its own code: its sign bit, then its magnitude. -/
theorem roundTo_valueOf {fmt code : Nat} (h : isIeee fmt = true) (r : Round) (hcode : code < 2 ^ fmtBits fmt)
    {n : Bool} {m : Nat} {e : Int} (hv : valueOf fmt code = .fin n m e) : roundTo fmt r (valueOf fmt code) = code := by
  obtain ⟨-, -, hf, hbits⟩ := isIeee_layout h
  rw [hbits] at hcode
  rw [hv, roundTo_ieee_fin h]
  rw [valueOf_ieee h] at hv
  rw [sign_value hf hcode hv, roundMag_value hf r hv, Nat.div_add_mod]

/-- Settles O7: the nearest multiple of the unit, and a finite code's own sign and magnitude. -/
theorem rounding : Obligations.Rounding :=
  ⟨fun neg m _ _ h =>
      nearestEven_bounds (Nat.div_add_mod m _) (Nat.mod_lt m (Nat.two_pow_pos _)) (roundUnits_rne neg m h),
    fun _ _ r h hcode ⟨_, _, _, hv⟩ => roundTo_valueOf h r hcode hv⟩

end Sys2Proof
end

section
/-! Accumulator lanes (R250-R255, R401): what a lane holds is its number of units of 2^q, q below the unit of its image.
A rebase and the entry of finite contributions keep that number exact while no bit is dropped, and a special state
stays. -/

namespace Sys2Proof

open Machine

/-! ## Numbers in units -/

/-- What a lane at base exponent b holds, in units of 2^q. -/
def Machine.Lane.units (b q : Int) (l : Lane) : Int := l.v * 2 ^ (b - 56 - q).toNat

theorem two_pow_toNat_add {x y z : Int} (hx : 0 ≤ x) (hy : 0 ≤ y) (h : z = x + y) :
    (2 : Int) ^ z.toNat = 2 ^ x.toNat * 2 ^ y.toNat := by
  rw [h, Int.toNat_add hx hy, Int.pow_add]

theorem unitsAt_eq (n : Bool) (m : Nat) (e q : Int) :
    unitsAt n m e q = (if n = true then -(m : Int) else m) * 2 ^ (e - q).toNat := by
  cases n with
  | false => rfl
  | true => exact (Int.neg_mul ..).symm

/-- A value that leaves no remainder is its floor (R252). -/
theorem floorUnits_exact {n : Bool} {m : Nat} {e u q : Int} (h : (floorUnits n m e u).2 = false) (hu : q ≤ u)
    (he : q ≤ e) : (floorUnits n m e u).1 * 2 ^ (u - q).toNat = unitsAt n m e q := by
  unfold floorUnits at h ⊢
  split at h
  case isTrue hue =>
    rw [if_pos hue, unitsAt_eq, unitsAt_eq, Int.mul_assoc,
      ← two_pow_toNat_add (by omega) (by omega) (by omega : e - q = e - u + (u - q))]
  case isFalse hue =>
    simp only [bne_eq_false_iff_eq] at h
    rw [if_neg hue, unitsAt_eq, two_pow_toNat_add (by omega) (by omega) (by omega : u - q = u - e + (e - q)), ← Int.mul_assoc,
      Int.ediv_mul_cancel (Int.dvd_of_emod_eq_zero h)]

theorem unitsSum_cons_fin (q : Int) (n : Bool) (m : Nat) (e : Int) (ps : List ExactVal) :
    unitsSum q (.fin n m e :: ps) = unitsAt n m e q + unitsSum q ps := List.sum_cons

/-! ## Special states -/

@[simp] theorem spec_of_fin (n : Bool) (m : Nat) (e : Int) : ExactVal.spec (.fin n m e) = .fin := rfl

theorem join_eq_fin_iff (a b : Spec) : Spec.join a b = .fin ↔ a = .fin ∧ b = .fin := by cases a <;> cases b <;> decide

theorem join_fin (a : Spec) : Spec.join a .fin = a := by cases a <;> rfl

theorem foldl_join_eq_fin_iff (ss : List Spec) (s : Spec) : ss.foldl Spec.join s = .fin ↔ s = .fin ∧ ∀ x ∈ ss, x = .fin := by
  induction ss generalizing s with
  | nil => simp
  | cons x ss ih => rw [List.foldl_cons, ih, join_eq_fin_iff, List.forall_mem_cons, and_assoc]

/-! ## One lane -/

/-- A lane at another base exponent has the state of the lane it comes from, and without its sticky bit the number. -/
def carried (b : Int) (l : Lane) (b' : Int) (l' : Lane) : Prop :=
  l'.spec = l.spec ∧ (l.spec ≠ .fin → l' = l) ∧
    (l.spec = .fin → l'.sticky = false → l.sticky = false ∧ ∀ q, q ≤ b - 56 → l'.units b' q = l.units b q)

theorem carried_refl (b : Int) (l : Lane) : carried b l b l := ⟨rfl, fun _ => rfl, fun _ hs => ⟨hs, fun _ _ => rfl⟩⟩

theorem rebase_of_special {l : Lane} (h : l.spec ≠ .fin) (d : Nat) : l.rebase d = l := by simp [Lane.rebase, h]

theorem rebase_of_fin {l : Lane} (h : l.spec = .fin) (d : Nat) :
    l.rebase d = ⟨l.v / 2 ^ d, 0, l.sticky || l.v % 2 ^ d != 0, .fin⟩ := by simp [Lane.rebase, h]

/-- A rebase divides by 2^d, and sets the sticky bit where it drops a bit (R253). -/
theorem rebase_carried (b : Int) (l : Lane) (d : Nat) : carried b l (b + d) (l.rebase d) := by
  by_cases h : l.spec = .fin
  · rw [rebase_of_fin h]
    refine ⟨h.symm, fun h' => absurd h h', fun _ hs => ?_⟩
    simp only [Bool.or_eq_false_iff, bne_eq_false_iff_eq] at hs
    obtain ⟨hs, hrem⟩ := hs
    refine ⟨hs, fun q hq => ?_⟩
    simp only [Lane.units]
    rw [two_pow_toNat_add (by omega) (by omega) (by omega : b + d - 56 - q = d + (b - 56 - q)), Int.toNat_natCast,
      ← Int.mul_assoc, Int.ediv_mul_cancel (Int.dvd_of_emod_eq_zero hrem)]
  · rw [rebase_of_special h]
    exact ⟨rfl, fun _ => rfl, fun h' => absurd h' h⟩

@[simp] theorem enter_spec (b : Int) (l : Lane) (p : ExactVal) : (l.enter b p).spec = l.spec.join p.spec := by
  cases p with
  | nan | inf => rfl
  | fin n m e =>
    rw [spec_of_fin, join_fin]
    simp only [Lane.enter]
    split <;> rfl

/-- A lane that is in a special state after a contribution holds nothing else (R250, R254). -/
theorem enter_special {b : Int} {l : Lane} {p : ExactVal} (hl : l.spec ≠ .fin → l = .special l.spec)
    (h : (l.enter b p).spec ≠ .fin) : l.enter b p = .special (l.enter b p).spec := by
  cases p with
  | nan | inf => rfl
  | fin n m e =>
    rw [enter_spec, spec_of_fin, join_fin] at h ⊢
    simpa [Lane.enter, h] using hl h

/-- A finite contribution that drops nothing adds its own number (R252). -/
theorem enter_units {b q : Int} {l : Lane} {n : Bool} {m : Nat} {e : Int} (hl : l.spec = .fin)
    (hs : (l.enter b (.fin n m e)).sticky = false) (hb : q ≤ b - 56) (he : q ≤ e) :
    l.sticky = false ∧ (l.enter b (.fin n m e)).units b q = l.units b q + unitsAt n m e q := by
  simp only [Lane.enter, hl, bne_self_eq_false, Bool.false_eq_true, if_false, Bool.or_eq_false_iff, Lane.units] at hs ⊢
  obtain ⟨hsl, hrem⟩ := hs
  exact ⟨hsl, by rw [Int.add_mul, floorUnits_exact hrem hb he]⟩

theorem foldl_enter_spec (b : Int) (ps : List ExactVal) (l : Lane) :
    (ps.foldl (Lane.enter b) l).spec = (ps.map ExactVal.spec).foldl Spec.join l.spec := by
  induction ps generalizing l with
  | nil => rfl
  | cons p ps ih => rw [List.foldl_cons, ih, enter_spec, List.map_cons, List.foldl_cons]

theorem foldl_enter_special {b : Int} (ps : List ExactVal) {l : Lane} (hl : l.spec ≠ .fin → l = .special l.spec)
    (h : (ps.foldl (Lane.enter b) l).spec ≠ .fin) :
    ps.foldl (Lane.enter b) l = .special (ps.foldl (Lane.enter b) l).spec := by
  induction ps generalizing l with
  | nil => exact hl h
  | cons p ps ih => exact ih (enter_special hl) h

/-- A lane that is finite and without its sticky bit after a step was so before it, and holds the exact sum. -/
theorem foldl_enter_units {b q : Int} {ps : List ExactVal} {l : Lane} (hf : finiteAbove q ps) (hb : q ≤ b - 56)
    (hl : l.spec = .fin) (hs : (ps.foldl (Lane.enter b) l).sticky = false) :
    l.sticky = false ∧ (ps.foldl (Lane.enter b) l).units b q = l.units b q + unitsSum q ps := by
  induction ps generalizing l with
  | nil => exact ⟨hs, (Int.add_zero _).symm⟩
  | cons p ps ih =>
    obtain ⟨⟨n, m, e, rfl, he⟩, hfs⟩ := List.forall_mem_cons.1 hf
    have hspec : (l.enter b (.fin n m e)).spec = .fin := by rw [enter_spec, hl]; rfl
    obtain ⟨hs', hrest⟩ := ih hfs hspec hs
    obtain ⟨hsl, hone⟩ := enter_units hl hs' hb he
    exact ⟨hsl, by rw [List.foldl_cons, hrest, hone, unitsSum_cons_fin, Int.add_assoc]⟩

/-! ## The top of the range of base exponents -/

/-- A contribution at the highest base exponent: infinite where it breaks its bound there (R401). -/
def clipped (p : ExactVal) : ExactVal :=
  if p.inBound 2047 then p else match p with
    | .fin n _ _ => .inf n
    | p => p

/-- A lane at the highest base exponent: infinite where it breaks its bound there (R401). -/
def Machine.Lane.saturated (l : Lane) : Lane :=
  if l.inBound then l else .special (if l.v < 0 then .negInf else .posInf)

theorem clipped_of_fin {p : ExactVal} (h : (clipped p).spec = .fin) : clipped p = p := by
  unfold clipped at h ⊢
  split
  case isTrue => rfl
  case isFalse hb =>
    rw [if_neg hb] at h
    cases p with
    | nan => rfl
    | inf => rfl
    | fin n m e => cases n <;> cases h

theorem saturated_of_special {l : Lane} (h : l.spec ≠ .fin) : l.saturated = l := by
  simp [Lane.saturated, Lane.inBound, h]

theorem saturated_of_fin {l : Lane} (h : l.saturated.spec = .fin) : l.saturated = l := by
  unfold Lane.saturated at h ⊢
  split
  case isTrue => rfl
  case isFalse hb =>
    rw [if_neg hb] at h
    split at h <;> cases h

/-- Contributions that leave a lane finite are entered as they are. -/
theorem foldl_enter_clipped {b : Int} {ps : List ExactVal} {l : Lane}
    (h : ((ps.map clipped).foldl (Lane.enter b) l).spec = .fin) : ps.map clipped = ps := by
  rw [foldl_enter_spec, foldl_join_eq_fin_iff] at h
  obtain ⟨-, hps⟩ := h
  calc ps.map clipped
      _ = ps.map id := List.map_congr_left fun p hp => clipped_of_fin (hps _ (List.mem_map_of_mem (List.mem_map_of_mem hp)))
      _ = ps := List.map_id ps

/-! ## Contributions enter an image -/

theorem le_findRebase (ok : Nat → Bool) (f d : Nat) : d ≤ findRebase ok f d := by
  induction f generalizing d with
  | zero => exact Nat.le_refl d
  | succ f ih =>
    rw [findRebase]
    split
    · exact Nat.le_refl d
    · exact Nat.le_trans (Nat.le_succ d) (ih (d + 1))

theorem satTo_eq_min (lim v : Nat) : satTo lim v = min lim v := by
  unfold satTo
  split <;> omega

/-- An image keeps its base exponent, is rebased, or stands at the highest one (R253, R401). -/
theorem image_enter_cases (g : Image) (ps : List (List ExactVal)) :
    ((g.enter ps).b = g.b ∧ (g.enter ps).reb = g.reb ∧ (g.enter ps).lanes = entered g.b g.lanes ps 0) ∨
    (∃ d : Nat, 1 ≤ d ∧ g.b + d ≤ 2047 ∧ (g.enter ps).b = g.b + d ∧ (g.enter ps).reb = satTo 255 (g.reb + 1) ∧
      (g.enter ps).lanes = entered g.b g.lanes ps d) ∨
    ((g.enter ps).b = 2047 ∧ (g.enter ps).reb = (if (2047 - g.b).toNat = 0 then g.reb else satTo 255 (g.reb + 1)) ∧
      (g.enter ps).lanes = (entered g.b g.lanes (ps.map (List.map clipped)) (2047 - g.b).toNat).map Lane.saturated) := by
  unfold Image.enter
  extract_lets all ok need d d' clip lanes
  split
  case isTrue => exact .inl ⟨rfl, rfl, rfl⟩
  case isFalse =>
    split
    case isTrue hd => exact .inr (.inl ⟨d, Nat.le_trans (Nat.le_max_left 1 need) (le_findRebase ok 200 _), hd, rfl, rfl, rfl⟩)
    case isFalse => exact .inr (.inr ⟨rfl, rfl, rfl⟩)

theorem entered_getElem? {b : Int} {ls : List Lane} {ps : List (List ExactVal)} {d k : Nat} {l : Lane} {p : List ExactVal}
    (hl : ls[k]? = some l) (hp : ps[k]? = some p) :
    (entered b ls ps d)[k]? = some (p.foldl (Lane.enter (b + d)) (l.rebase d)) := by
  rw [entered, List.getElem?_map, List.getElem?_zip_eq_some (z := (l, p)) |>.2 ⟨hl, hp⟩]
  rfl

section
variable {g : Image} {ps : List (List ExactVal)} {k : Nat} {l l' : Lane} {p : List ExactVal}
  (hl : g.lanes[k]? = some l) (hp : ps[k]? = some p)
include hl hp

/-- A lane takes its contributions at the new base exponent, at the highest one where it stays finite. -/
theorem image_enter_lane : ∃ l', (g.enter ps).lanes[k]? = some l' ∧
    ((g.enter ps).b < 2047 ∨ g.b ≤ 2047 ∧ l'.spec = .fin →
      ∃ d : Nat, (g.enter ps).b = g.b + d ∧ l' = p.foldl (Lane.enter (g.b + d)) (l.rebase d)) := by
  obtain ⟨hb, -, hls⟩ | ⟨d, -, -, hb, -, hls⟩ | ⟨hb, -, hls⟩ := image_enter_cases g ps
  · exact ⟨_, by rw [hls, entered_getElem? hl hp], fun _ => ⟨0, by omega, rfl⟩⟩
  · exact ⟨_, by rw [hls, entered_getElem? hl hp], fun _ => ⟨d, hb, rfl⟩⟩
  · have hp' : (ps.map (List.map clipped))[k]? = some (p.map clipped) := by rw [List.getElem?_map, hp]; rfl
    refine ⟨_, by rw [hls, List.getElem?_map, entered_getElem? hl hp']; rfl, fun h => ⟨(2047 - g.b).toNat, by omega, ?_⟩⟩
    have hfin := (h.resolve_left (by omega)).2
    have hsat := saturated_of_fin hfin
    rw [hsat] at hfin ⊢
    rw [foldl_enter_clipped hfin]

/-- The exact sum in a lane of an image, over every rebase (R252, R253). -/
theorem image_enter_units {q : Int} (hl' : (g.enter ps).lanes[k]? = some l') (hfin : l'.spec = .fin)
    (hs : l'.sticky = false) (hf : finiteAbove q p) (hq : q ≤ g.b - 56) (hb : g.b ≤ 2047) :
    g.b ≤ (g.enter ps).b ∧ l.spec = .fin ∧ l.sticky = false ∧
      l'.units (g.enter ps).b q = l.units g.b q + unitsSum q p := by
  obtain ⟨m, hm, hlane⟩ := image_enter_lane hl hp
  obtain rfl := Option.some.inj (hl'.symm.trans hm)
  obtain ⟨d, hb', rfl⟩ := hlane (.inr ⟨hb, hfin⟩)
  obtain ⟨hspec, -, hkeep⟩ := rebase_carried g.b l d
  rw [foldl_enter_spec, foldl_join_eq_fin_iff] at hfin
  obtain ⟨hfin, -⟩ := hfin
  obtain ⟨hs', hsum⟩ := foldl_enter_units hf (by omega) hfin hs
  obtain ⟨hsl, hunits⟩ := hkeep (hspec ▸ hfin) hs'
  exact ⟨by omega, hspec ▸ hfin, hsl, by rw [hb', hsum, hunits q hq]⟩

/-- The special state of a lane of an image joins those of its contributions (R254). -/
theorem image_enter_spec (hspecial : l.spec ≠ .fin → l = .special l.spec) (hb : (g.enter ps).b < 2047) :
    ∃ l', (g.enter ps).lanes[k]? = some l' ∧ l'.spec = (p.map ExactVal.spec).foldl Spec.join l.spec ∧
      (l'.spec ≠ .fin → l' = .special l'.spec) := by
  obtain ⟨_, hl', hlane⟩ := image_enter_lane hl hp
  obtain ⟨d, -, rfl⟩ := hlane (.inl hb)
  obtain ⟨hspec, hsame, -⟩ := rebase_carried g.b l d
  refine ⟨_, hl', by rw [foldl_enter_spec, hspec], foldl_enter_special p fun h => ?_⟩
  rw [hspec] at h ⊢
  rw [hsame h]
  exact hspecial h

end

/-- A rebase is counted, and only a rebase (R253). -/
theorem image_enter_reb (g : Image) (ps : List (List ExactVal)) (hb : g.b ≤ 2047) :
    (g.enter ps).reb = if (g.enter ps).b = g.b then g.reb else min 255 (g.reb + 1) := by
  obtain ⟨hb', hr, -⟩ | ⟨d, hd, -, hb', hr, -⟩ | ⟨hb', hr, -⟩ := image_enter_cases g ps
  · rw [hr, if_pos hb']
  · rw [hr, if_neg (by omega), satTo_eq_min]
  · rw [hr, hb', satTo_eq_min]
    by_cases h : g.b = 2047
    · rw [if_pos (by omega), if_pos h.symm]
    · rw [if_neg (by omega), if_neg (Ne.symm h)]

/-! ## The sum of two images -/

/-- The alignment of two images is counted where their base exponents differ, up to 255 (R255). -/
theorem alignTo_reb_add (x y : Image) : satTo 255 ((x.alignTo (max x.b y.b)).reb + (y.alignTo (max x.b y.b)).reb) =
    min 255 (x.reb + y.reb + if x.b = y.b then 0 else 1) := by
  simp only [Image.alignTo, satTo_eq_min]
  obtain h | h | h := Int.lt_trichotomy x.b y.b
  · rw [if_pos (by omega), if_neg (by omega), if_neg (by omega)]
    show min 255 (min 255 (x.reb + 1) + y.reb) = _
    omega
  · rw [if_neg (by omega), if_neg (by omega), if_pos h, Nat.add_zero]
  · rw [if_neg (by omega), if_pos (by omega), if_neg (by omega)]
    show min 255 (x.reb + min 255 (y.reb + 1)) = _
    omega

/-- An alignment carries each lane to the higher base exponent (R255). -/
theorem alignTo_carried {x : Image} {b : Int} {k : Nat} {l : Lane} (hb : x.b ≤ b) (hl : x.lanes[k]? = some l) :
    ∃ l', (x.alignTo b).lanes[k]? = some l' ∧ carried x.b l b l' := by
  unfold Image.alignTo
  split
  case isTrue =>
    refine ⟨l.rebase (b - x.b).toNat, by rw [List.getElem?_map, hl]; rfl, ?_⟩
    have h := rebase_carried x.b l (b - x.b).toNat
    rwa [show x.b + ((b - x.b).toNat : Int) = b by omega] at h
  case isFalse => exact ⟨l, hl, (by omega : x.b = b) ▸ carried_refl x.b l⟩

/-- The lanes of two images aligned to a base exponent, added. -/
def lanesPlus (x y : Image) (b : Int) : List Lane :=
  ((x.alignTo b).lanes.zip (y.alignTo b).lanes).map fun p => p.1.plus p.2

/-- The sum of two images stands at the greater base exponent, or is rebased from there (R255, R401). -/
theorem image_plus_cases (x y : Image) :
    let b := max x.b y.b
    let reb := min 255 (x.reb + y.reb + if x.b = y.b then 0 else 1)
    ((x.plus y).b = b ∧ (x.plus y).reb = reb ∧
      ((x.plus y).lanes = lanesPlus x y b ∨ (x.plus y).lanes = (lanesPlus x y b).map Lane.saturated)) ∨
    ∃ d : Nat, 1 ≤ d ∧ (x.plus y).b = b + d ∧ (x.plus y).reb = satTo 255 (reb + 1) ∧
      (x.plus y).lanes = (lanesPlus x y b).map (Lane.rebase d) := by
  intro b reb
  have hreb : reb = _ := (alignTo_reb_add x y).symm
  rw [hreb]
  unfold Image.plus
  extract_lets x' y' ls r d
  split
  case isTrue => exact .inl ⟨rfl, rfl, .inl rfl⟩
  case isFalse =>
    split
    case isTrue => exact .inr ⟨d, le_findRebase _ 4 1, rfl, rfl, rfl⟩
    case isFalse => exact .inl ⟨rfl, rfl, .inr rfl⟩

theorem le_image_plus_b (x y : Image) : max x.b y.b ≤ (x.plus y).b := by
  obtain ⟨hb, -⟩ | ⟨d, -, hb, -⟩ := image_plus_cases x y
  · exact Int.le_of_eq hb.symm
  · omega

/-- Rebases and alignments add up, up to 255 (R255). -/
theorem image_plus_reb (x y : Image) :
    (x.plus y).reb = min 255 (x.reb + y.reb + (if x.b = y.b then 0 else 1) +
      (if (x.plus y).b = max x.b y.b then 0 else 1)) := by
  obtain ⟨hb, hr, -⟩ | ⟨d, hd, hb, hr, -⟩ := image_plus_cases x y
  · rw [hr, if_pos hb, Nat.add_zero]
  · have hne : (x.plus y).b ≠ max x.b y.b := by omega
    rw [hr, if_neg hne, satTo_eq_min]
    omega

theorem plus_of_fin {a b : Lane} (ha : a.spec = .fin) (hb : b.spec = .fin) :
    a.plus b = ⟨a.v + b.v, 0, a.sticky || b.sticky, .fin⟩ := by simp [Lane.plus, ha, hb]

theorem plus_of_special {a b : Lane} (h : a.spec ≠ .fin ∨ b.spec ≠ .fin) : a.plus b = .special (a.spec.join b.spec) := by
  rw [Lane.plus, if_neg]
  rw [Bool.and_eq_true, beq_iff_eq, beq_iff_eq]
  exact fun ⟨ha, hb⟩ => h.elim (· ha) (· hb)

section
variable {x y : Image} {k : Nat} {a b l : Lane} (ha : x.lanes[k]? = some a) (hb : y.lanes[k]? = some b)
include ha hb

/-- A lane of the sum of two images is the sum of the aligned lanes, carried on where the sum is rebased, unless it is
finite and becomes infinite at the highest base exponent. -/
theorem image_plus_lane (hl : (x.plus y).lanes[k]? = some l) :
    ∃ a' b', carried x.b a (max x.b y.b) a' ∧ carried y.b b (max x.b y.b) b' ∧
      ((a'.plus b').spec ≠ .fin ∨ l.spec = .fin → carried (max x.b y.b) (a'.plus b') (x.plus y).b l) := by
  obtain ⟨a', ha', hca⟩ := alignTo_carried (Int.le_max_left x.b y.b) ha
  obtain ⟨b', hb', hcb⟩ := alignTo_carried (Int.le_max_right x.b y.b) hb
  have hsum : (lanesPlus x y (max x.b y.b))[k]? = some (a'.plus b') := by
    rw [lanesPlus, List.getElem?_map, List.getElem?_zip_eq_some (z := (a', b')) |>.2 ⟨ha', hb'⟩]
    rfl
  refine ⟨a', b', hca, hcb, fun h => ?_⟩
  obtain ⟨hmax, -, hls | hls⟩ | ⟨d, -, hmax, -, hls⟩ := image_plus_cases x y
  · rw [hls, hsum] at hl
    rw [hmax, ← Option.some.inj hl]
    exact carried_refl _ _
  · rw [hls, List.getElem?_map, hsum] at hl
    obtain rfl := Option.some.inj hl
    rw [hmax, h.elim saturated_of_special saturated_of_fin]
    exact carried_refl _ _
  · rw [hls, List.getElem?_map, hsum] at hl
    rw [hmax, ← Option.some.inj hl]
    exact rebase_carried _ _ d

/-- Finite lanes whose sum stays finite and without its sticky bit add exactly (R255). -/
theorem image_plus_units {q : Int} (hl : (x.plus y).lanes[k]? = some l) (hfa : a.spec = .fin) (hfb : b.spec = .fin)
    (hfin : l.spec = .fin) (hs : l.sticky = false) (hq : q ≤ min x.b y.b - 56) :
    a.sticky = false ∧ b.sticky = false ∧ l.units (x.plus y).b q = a.units x.b q + b.units y.b q := by
  obtain ⟨a', b', ⟨hspa, -, hca⟩, ⟨hspb, -, hcb⟩, hsum⟩ := image_plus_lane ha hb hl
  obtain ⟨-, -, hcl⟩ := hsum (.inr hfin)
  rw [plus_of_fin (hspa.trans hfa) (hspb.trans hfb)] at hcl
  obtain ⟨hst, hul⟩ := hcl rfl hs
  obtain ⟨hsa, hsb⟩ := Bool.or_eq_false_iff.1 hst
  obtain ⟨hsa, hua⟩ := hca hfa hsa
  obtain ⟨hsb, hub⟩ := hcb hfb hsb
  refine ⟨hsa, hsb, ?_⟩
  rw [hul q (by omega), ← hua q (by omega), ← hub q (by omega)]
  exact Int.add_mul ..

/-- Special states of two lanes combine, and displace what is finite (R254, R255). -/
theorem image_plus_special (hl : (x.plus y).lanes[k]? = some l) (h : a.spec ≠ .fin ∨ b.spec ≠ .fin) :
    l = .special (a.spec.join b.spec) := by
  obtain ⟨a', b', ⟨hspa, -, -⟩, ⟨hspb, -, -⟩, hsum⟩ := image_plus_lane ha hb hl
  rw [← hspa, ← hspb] at h ⊢
  have hspecial : Spec.join a'.spec b'.spec ≠ .fin := fun hj => by
    obtain ⟨h1, h2⟩ := (join_eq_fin_iff ..).1 hj
    exact h.elim (· h1) (· h2)
  rw [plus_of_special h] at hsum
  obtain ⟨-, hsame, -⟩ := hsum (.inl hspecial)
  exact hsame hspecial

end

/-- Settles O35: a rebase and the entry of contributions keep what a lane holds while no sticky bit is set, and so does
the alignment of two images that are added. -/
theorem accumulatorLanes : Obligations.AccumulatorLanes := by
  refine ⟨fun g ps k l l' p q _ hl hp => image_enter_units hl hp, fun g ps k l p _ hl hp hspecial hb => ?_,
    fun g ps hb => ?_,
    fun g h k a b l q ha hb hl hfa hfb hfin hs hq =>
      ⟨le_image_plus_b g h, image_plus_units ha hb hl hfa hfb hfin hs hq⟩,
    fun g h k a b l ha hb => image_plus_special ha hb, image_plus_reb, fun a b => ?_⟩
  · obtain ⟨l', hl', hspec, hsp⟩ := image_enter_spec hl hp hspecial hb
    exact ⟨l', hl', hspec, hspec ▸ hsp⟩
  · rw [image_enter_reb g ps hb]
    exact ⟨fun h => if_pos h, fun h => if_neg h⟩
  · exact ⟨join_eq_fin_iff a b, by cases a <;> cases b <;> rfl, by cases a <;> rfl, by rintro rfl; rfl,
      by rintro rfl; cases b <;> rfl, by rintro rfl rfl; rfl⟩

end Sys2Proof
end

section
/-! What keeps memory in canonical form (log entry 2): an outcome, the work of a firing outside the fabric, and the
firings that an entry of the fabric gives; then the firings of every kind of element. -/

namespace Sys2Proof

open Machine

/-! ## Outcomes, and the work of firings -/

/-- The next state, where an outcome is one, has memory in canonical form. -/
def nextWf (o : Host.Outcome State Fault Refusal) : Prop := ∀ t, o = .next t → Memory.wf t.mem = true

@[simp] theorem nextWf_next (t : State) : nextWf (.next t) ↔ Memory.wf t.mem = true :=
  ⟨fun h => h t rfl, fun h u e => by cases e; exact h⟩

/-- A change of the state that keeps memory in canonical form. -/
def postWf (p : State → State) : Prop := ∀ u : State, Memory.wf u.mem = true → Memory.wf (p u).mem = true

@[simp] theorem postWf_id : postWf id := fun _ h => h

@[simp] theorem postWf_setSbuf (p : State → State) (h : Nat) (b : SBuf) :
    postWf (fun u => (p u).setSbuf h b) ↔ postWf p := .rfl

@[simp] theorem postWf_of_mem {p : State → State} (h : ∀ u, (p u).mem = u.mem) : postWf p := fun u hu => by rwa [h u]

@[simp] theorem postWf_pushed (h : Nat) (b : SBuf) (t : Token) (off : Option Nat) :
    postWf fun u => u.pushed h b t off := fun u hu => pushed_wf u h b t off hu

/-- What the firings of a list do outside the fabric keeps memory in canonical form. -/
def firingsWf (fs : List Firing) : Prop := ∀ f ∈ fs, postWf f.post

@[simp] theorem firingsWf_nil : firingsWf [] := List.forall_mem_nil _

@[simp] theorem firingsWf_cons (f : Firing) (fs : List Firing) :
    firingsWf (f :: fs) ↔ postWf f.post ∧ firingsWf fs := List.forall_mem_cons

@[simp] theorem firingsWf_append (fs gs : List Firing) : firingsWf (fs ++ gs) ↔ firingsWf fs ∧ firingsWf gs :=
  List.forall_mem_append

@[simp] theorem firingsWf_ite (c : Prop) [Decidable c] (fs gs : List Firing) :
    firingsWf (if c then fs else gs) ↔ (c → firingsWf fs) ∧ (¬ c → firingsWf gs) := by
  split <;> simp [*]

/-- The firing that an element takes is one of those its entry gives. -/
theorem fireElem_wf {s : State} {kind op : Nat} {g : Elem → (Nat → Option Token) → List Firing}
    (wf : Memory.wf s.mem = true) (hg : ∀ el h, firingsWf (g el h)) : nextWf (s.fireElem kind op g) := by
  unfold State.fireElem
  dsimp only
  split
  · exact (nextWf_next s).2 wf
  · split
    · exact (nextWf_next s).2 wf
    · split
      · exact (nextWf_next s).2 wf
      next f hf =>
        exact (nextWf_next _).2 (applyFiring_wf _ _ _ _ _ _ _ (hg _ _ f (List.mem_of_find?_eq_some hf)) wf)

/-- A firing without work outside the fabric. -/
@[simp] theorem applyFiring_id_wf (s : State) (r site cid : Nat) (c : Ctx) (el : Elem) (f : Firing) (hf : f.post = id)
    (wf : Memory.wf s.mem = true) : Memory.wf (s.applyFiring r site cid c el f).mem = true :=
  applyFiring_wf s r site cid c el f (hf ▸ postWf_id) wf

/-! ## Firings that several elements share -/

@[simp] theorem postWf_free (n : Nat) : postWf fun u => { u with free := u.free + n } := fun _ h => h

@[simp] theorem of_post (ins : List Nat) (emits : List (Nat × Token)) (el : Elem) (e : Nat) :
    (Firing.of ins emits el e).post = id := (rfl)

@[simp] theorem logging_post (f : Firing) (ls : List LogRec) : (f.logging ls).post = f.post := (rfl)

@[simp] theorem emit1_post (el : Elem) (ins : List Nat) (o : Nat) (t : Token) (own : Bool) (e : Nat) :
    (el.emit1 ins o t own e).post = id := by
  unfold Elem.emit1
  split <;> rfl

@[simp] theorem marker_post (el : Elem) : (marker el).post = id := (rfl)

@[simp] theorem vecOut_postWf (el : Elem) (ins : List Nat) (t : Token) (own : Bool) (e : Nat) :
    postWf (el.vecOut ins t own e).post := postWf_free 16

@[simp] theorem mismatch_postWf (el : Elem) (s : State) (ins : List Nat) (ts : List Token) (cost : Nat → Nat) :
    postWf (el.mismatch s ins ts cost).post := postWf_free 16

/-- A firing that reads what is good does what the firing of the token does. -/
@[simp] theorem reading_postWf_iff (s : State) (bad : Bool) (a : Nat) (t : Token) (f : Token → Firing) :
    postWf (s.reading bad a t f).post ↔ (bad = false → postWf (f t).post) := by
  cases bad
  · exact ⟨fun h _ => h, fun h => h rfl⟩
  · exact ⟨fun _ => nofun, fun _ => postWf_free 16⟩

@[simp] theorem storeEntry_postWf (s : State) (el : Elem) (t : Token) (e : Nat) (el' : Elem) :
    postWf (storeEntry s el t e el').post := by
  unfold storeEntry
  dsimp only
  split <;> exact fun u hu => store_wf u _ _ hu

@[simp] theorem fillEntry_wf (s : State) (el : Elem) (h : Nat → Option Token) : firingsWf (fillEntry s el h) := by
  unfold fillEntry
  (repeat' split) <;> simp

@[simp] theorem startWalk_wf (s : State) (el : Elem) (h : Nat → Option Token) (i : Nat) :
    firingsWf (startWalk s el h i) := by
  unfold startWalk
  (repeat' split) <;> simp

@[simp] theorem badWalk_wf (el : Elem) (h : Nat → Option Token) (fmt cols : Nat) :
    firingsWf (badWalk el h fmt cols) := by
  unfold badWalk
  (repeat' split) <;> simp

@[simp] theorem repeatFirings_wf (el : Elem) (h : Nat → Option Token) (count : Option (List Nat × Nat)) :
    firingsWf (repeatFirings el h count) := by
  unfold repeatFirings
  (repeat' split) <;> simp

@[simp] theorem generate_wf (el : Elem) (h : Nat → Option Token) (m : Nat) (v : Nat → Nat) :
    firingsWf (generate el h m v) := by
  unfold generate
  (repeat' split) <;> simp

@[simp] theorem noFlag_wf (el : Elem) (t : Token) : firingsWf (noFlag el t) := by simp [noFlag]

/-! ## Read-modify-writes of an address generator -/

theorem atoms_step_wf (tr : Perm → Nat → Except AccErr Nat) (m fmt : Nat) {a : Atoms} (va x : Nat)
    (h : Memory.wf a.s.mem = true) : Memory.wf (a.step tr m fmt va x).s.mem = true := by
  unfold Atoms.step Atoms.skip
  dsimp only
  (repeat' split) <;> simp [h]

theorem postWf_atoms {α : Type} {f : State → Atoms → α → Atoms}
    (hf : ∀ u a j, Memory.wf a.s.mem = true → Memory.wf (f u a j).s.mem = true) (l : List α) :
    postWf fun u => { (l.foldl (f u) ⟨u, [], [], false⟩).s with free := u.free + 16 } := fun u hu =>
  List.foldlRecOn (motive := fun a : Atoms => Memory.wf a.s.mem = true) l (f u) hu fun a ha j _ => hf u a j ha

/-! ## The elements -/

section
variable {s : State} (wf : Memory.wf s.mem = true)
include wf

theorem vec_wf (op : Nat) (ins : List Nat) (per : Elem → Nat) (shape : List Token → Nat × Nat)
    (g : Elem → List Token → Option Token) : nextWf (s.vec op ins per shape g) := by
  refine fireElem_wf wf fun el h => ?_
  (repeat' split) <;> simp

theorem trans_wf (op : Nat) (f : ExactVal → ExactVal) : nextWf (s.trans op f) := by
  refine fireElem_wf wf fun el h => ?_
  split <;> simp

theorem rowOp_wf (op : Nat) (g : SiteCfg → List Nat → Nat) : nextWf (s.rowOp op g) := by
  refine fireElem_wf wf fun el h => ?_
  split <;> simp

theorem reduce_wf (rd : Nat) : nextWf (s.reduce rd) := by
  refine fireElem_wf wf fun el h => ?_
  dsimp only
  (repeat' split) <;> simp

theorem flagWrite_wf (op : Nat) (v : Bool) : nextWf (s.flagWrite op v) := by
  refine fireElem_wf wf fun el h => ?_
  (repeat' split) <;> simp

theorem execTilePortWrite_wf : nextWf (execTilePortWrite s) := by
  unfold execTilePortWrite
  split
  · exact (nextWf_next s).2 wf
  · refine fireElem_wf wf fun el h => ?_
    (repeat' split) <;> simp

theorem execTileExchange_wf : nextWf (execTileExchange s) := by
  unfold execTileExchange
  split
  · exact (nextWf_next s).2 wf
  · refine fireElem_wf wf fun el h => ?_
    (repeat' split) <;> simp

theorem execMma_wf : nextWf (execMma s) := by
  refine fireElem_wf wf fun el h => ?_
  split
  · split
    · exact firingsWf_nil
    · extract_lets
      split
      · exact firingsWf_nil
      · extract_lets
        split <;> exact (firingsWf_cons ..).2 ⟨postWf_free 16, firingsWf_nil⟩
  · exact firingsWf_nil

theorem execSysm_wf : nextWf (execSysm s) := by
  refine fireElem_wf wf fun el h => ?_
  split
  · exact firingsWf_nil
  · iterate 2
      split
      · exact firingsWf_nil
    extract_lets
    exact (firingsWf_cons ..).2 ⟨postWf_free 16, firingsWf_nil⟩

theorem execScrw_wf : nextWf (execScrw s) := by
  unfold execScrw
  refine fireElem_wf wf fun el h => ?_
  dsimp only
  (repeat' split) <;> simp
  exact fun u hu => foldl_wf _ _ _ (fun t x ht => store_wf t _ _ ht) hu

theorem execAgatm_wf : nextWf (execAgatm s) := by
  unfold execAgatm
  refine fireElem_wf wf fun el h => ?_
  dsimp only
  split
  · simp
  · split
    · simp
    · simp
    · iterate 5
        split
        · simp
      refine (firingsWf_cons ..).2 ⟨postWf_atoms (fun u a j ha => ?_) _, firingsWf_nil⟩
      split
      · exact atoms_step_wf _ _ _ _ _ ha
      · exact ha
    · simp

theorem execRepeatTok_wf : nextWf (execRepeatTok s) := by
  refine fireElem_wf wf fun el h f hf => ?_
  obtain ⟨f', -, rfl⟩ := List.mem_map.1 hf
  exact postWf_of_mem draw_mem

end

end Sys2Proof
end

section
/-! The instructions of a block keep memory in canonical form: what fires changes its block alone, but for what a read, a
store, an acquire and the commands on configurations do besides (R45, R172). -/

namespace Sys2Proof

open Machine

/-! ## Firing -/

theorem fireBlk_wf {s : State} {pr : Pr} {a : Bool} {g : Blk → Option Blk} (wf : Memory.wf s.mem = true) :
    nextWf (s.fireBlk pr a g) := fun t h => by
  obtain rfl | ⟨b, b', -, -, -, -, -, rfl⟩ := fireBlk_cases h
  · exact wf
  · exact wf

/-- What the firing of an instruction does outside its block, where it fires, keeps memory in canonical form. -/
def givesWf (o : Option (Blk × (State → State))) : Prop := ∀ b post, o = some (b, post) → postWf post

@[simp] theorem givesWf_none : givesWf none := nofun

@[simp] theorem givesWf_some (b : Blk) (post : State → State) : givesWf (some (b, post)) ↔ postWf post :=
  ⟨fun h => h b post rfl, fun h _ _ e => by cases e; exact h⟩

theorem fireWith_wf {s : State} {pr : Pr} {a : Bool} {g : Blk → Option (Blk × (State → State))}
    (wf : Memory.wf s.mem = true) (hg : ∀ b, givesWf (g b)) : nextWf (s.fireWith pr a g) := fun t h => by
  obtain rfl | ⟨b, b', post, -, -, -, -, hpost, rfl⟩ := fireWith_cases h
  · exact wf
  · exact hg b b' post hpost _ wf

theorem fireOrEnd_wf {s : State} {pr : Pr} {start : Blk → Option Blk} {fin : Blk → Waiter → Option Blk}
    (wf : Memory.wf s.mem = true) : nextWf (s.fireOrEnd pr start fin) := fun t h => by
  obtain rfl | ⟨b, w, b', -, -, -, rfl⟩ | h := fireOrEnd_cases h
  · exact wf
  · exact wf
  · exact fireBlk_wf wf t h

/-! ## Repeats, and the counting of reads -/

@[simp] theorem retake_mem (s : State) (q : Nat) (sel : Nat → Blk → List Nat) : (s.retake q sel).mem = s.mem :=
  retake_keeps s q sel (·.mem) (fun _ _ => rfl) fun _ _ => rfl

@[simp] theorem afterAcquire_mem (s : State) (q : Nat) : (s.afterAcquire q).mem = s.mem := retake_mem ..

@[simp] theorem afterStore_mem (s : State) (q pa n : Nat) : (s.afterStore q pa n).mem = s.mem := retake_mem ..

@[simp] theorem afterRead_mem (s : State) (q n : Nat) (l : LoadRec) : (s.afterRead q n l).mem = s.mem := retake_mem ..

@[simp] theorem countLoad_mem (s : State) (q : Nat) (b : Blk) (l : LoadRec) : (s.countLoad q b l).mem = s.mem := by
  unfold State.countLoad
  split <;> simp

theorem fireAcquire_wf {s : State} {pr : Pr} {start : Blk → Option Blk} {fin : Blk → Waiter → Option Blk}
    (wf : Memory.wf s.mem = true) : nextWf (s.fireAcquire pr start fin) := by
  unfold State.fireAcquire
  split
  · split <;> simp [wf]
  · refine fireWith_wf wf fun b c post h => postWf_of_mem fun u => ?_
    obtain ⟨b', -, e⟩ := Option.map_eq_some_iff.1 h
    cases e
    split <;> simp

/-! ## Instructions with an effect at their firing -/

section
variable {s : State} (wf : Memory.wf s.mem = true)
include wf

theorem fireLoad_wf (f : LS) (signed : Bool) : nextWf (s.fireLoad f signed) := by
  refine fireWith_wf wf fun b => ?_
  dsimp only
  (repeat' split) <;> simp [postWf]

theorem fireAmo_wf (f : AM) (op : AmoOp) : nextWf (s.fireAmo f op) := by
  refine fireWith_wf wf fun b => ?_
  dsimp only
  (repeat' split) <;> simp [postWf]

end

end Sys2Proof
end

section
/-! The other steps keep memory in canonical form: tokens, contexts, blocks, accesses of address generators, copies,
power, the host and its links, and tasks. -/

namespace Sys2Proof

open Machine

/-! ## Outcomes -/

/-- An outcome whose next state, or whose first state where it has none, has canonical memory. -/
theorem nextWf_of_after {s : State} {o : Host.Outcome State Fault Refusal} (h : Memory.wf (afterOf s o).mem = true) :
    nextWf o := fun t e => by
  subst e
  exact h

theorem writePieces_wf {s : State} (tr : Perm → Nat → Except AccErr Nat) (a : Nat) (ps : List (List Word))
    (wf : Memory.wf s.mem = true) : Memory.wf (s.writePieces tr a ps).1.mem = true := by
  induction ps generalizing s a with
  | nil => exact wf
  | cons p ps ih =>
    unfold State.writePieces
    split
    next => exact wf
    next h => exact ih _ (writeVia_wf h wf)

theorem writeCadastre_wf {s : State} (r : Nat) (wf : Memory.wf s.mem = true) :
    Memory.wf (s.writeCadastre r).1.mem = true := by
  unfold State.writeCadastre
  dsimp only
  split
  · exact wf
  · split
    · exact wf
    · split <;> next h => exact congrArg Prod.fst h ▸ writePieces_wf _ _ _ wf

@[simp] theorem yieldTo_mem (s : State) (rs : List Nat) : (s.yieldTo rs).mem = s.mem := by
  unfold State.yieldTo
  (repeat' split) <;> simp

@[simp] theorem reportStop_wf (s : State) (ch code : Nat) (va : Word) (wf : Memory.wf s.mem = true) :
    Memory.wf (s.reportStop ch code va).mem = true := by
  unfold State.reportStop
  dsimp only
  (repeat' split) <;> simp [wf]

theorem finalWrite_wf {s u : State} {q : Nat} {tr : Perm → Nat → Except AccErr Nat} {a code : Nat} {fail : Word}
    (h : s.finalWrite q tr a code fail = some u) (wf : Memory.wf s.mem = true) : Memory.wf u.mem = true := by
  unfold State.finalWrite at h
  split at h
  · cases h
    refine storeRuns_wf _ _ _ (wf_ite _ _ _ (storeRuns_wf _ _ _ ?_) ?_) <;> simpa using wf
  · cases h

@[simp] theorem badRequest_wf (s : State) (v : Word) (wf : Memory.wf s.mem = true) :
    Memory.wf (s.badRequest v).mem = true := request_wf s v _ _ _ (fun _ h => h) wf

theorem bootStages_wf (s : State) (ls : List (List Byte)) (wf : Memory.wf s.mem = true) :
    Memory.wf (s.bootStages ls).mem = true := by
  induction ls generalizing s with
  | nil => exact wf
  | cons img rest ih =>
    unfold State.bootStages
    split
    · exact ih _ (runStage_wf _ _ _ _ wf)
    · simpa using wf

@[simp] theorem endRelease_mem (s : State) : s.endRelease.mem = s.mem := by
  unfold State.endRelease
  split <;> simp

@[simp] theorem logRejects_wf (s : State) (q : Nat) (b : Blk) (wf : Memory.wf s.mem = true) :
    Memory.wf (s.logRejects q b).mem = true := foldl_wf _ _ _ (fun t _ h => log_wf t _ _ _ _ _ _ h) wf

@[simp] theorem countFrame_mem (s : State) (p : Nat) (f : Frame) : (s.countFrame p f).mem = s.mem := by
  simp [State.countFrame]

@[simp] theorem sendFrame_mem (s : State) (p : Nat) (f : Frame) : (s.sendFrame p f).mem = s.mem := by
  simp [State.sendFrame]

theorem remotePush_wf {s u : State} {h : Nat} {t : Token} (e : s.remotePush h t = some u)
    (wf : Memory.wf s.mem = true) : Memory.wf u.mem = true := by
  unfold State.remotePush at e
  dsimp only at e
  split at e
  · cases e
    exact wf_ite _ _ _ (by simp [wf]) wf
  · split at e
    · cases e
      simp [wf]
    · split at e
      · cases e
      · cases e
        split <;> simp [wf]

theorem remotePushes_wf {s : State} (h : Nat) (ts : List Token) (wf : Memory.wf s.mem = true) :
    Memory.wf (s.remotePushes h ts).1.mem = true := by
  induction ts generalizing s with
  | nil => exact wf
  | cons t ts ih =>
    unfold State.remotePushes
    split
    next => exact wf
    next e => exact ih (remotePush_wf e wf)

theorem warmRegion_wf {s u : State} {r a : Nat} (e : s.warmRegion r a = some u) (wf : Memory.wf s.mem = true) :
    Memory.wf u.mem = true := by
  unfold State.warmRegion at e
  split at e
  · cases e
  next hr =>
    have hm := readAt_mem hr
    dsimp only at e
    split at e
    · cases e
    · split at e
      · cases e
      · cases e
        simp only [updSeq_mem, updRegion_mem]
        split <;> simp [hm, wf]

theorem wakeRegion_wf (s : State) (r a : Nat) (restore : Bool) (wf : Memory.wf s.mem = true) :
    Memory.wf (s.wakeRegion r a restore).1.mem = true := by
  unfold State.wakeRegion
  split
  · split
    next h => exact warmRegion_wf h wf
    next => exact coldRegion_wf s r wf
  · exact coldRegion_wf s r wf

theorem readTaskRec_mem {s u : State} {t : Nat} {r : List Word} (e : s.readTaskRec t = .ok (r, u)) : u.mem = s.mem := by
  unfold State.readTaskRec at e
  split at e
  · cases e
  next h =>
    cases e
    exact readAt_mem h

theorem readPipe_mem {s u : State} {p : Nat} {a : Word} {gs : List StageRec} (e : s.readPipe p a = .ok (gs, u)) :
    u.mem = s.mem := by
  unfold State.readPipe at e
  split at e
  · cases e
  next h =>
    dsimp only at e
    split at e
    · cases e
    next h' =>
      cases e
      exact (readAt_mem h').trans (readVia_mem h)

theorem staging_mem {s u : State} {t : Nat} {l : List StageRec} (e : s.staging t = .ok l u) : u.mem = s.mem := by
  unfold State.staging at e
  dsimp only at e
  split at e
  · cases e
    rfl
  · split at e
    · cases e
    · cases e
    next h =>
      cases e
      exact readPipe_mem h

theorem writeImage_wf {s u : State} {t j r : Nat} {hseq : Word} {hasPos : Bool}
    (e : s.writeImage t j r hseq hasPos = .ok u) (wf : Memory.wf s.mem = true) : Memory.wf u.mem = true := by
  unfold State.writeImage at e
  dsimp only at e
  split at e
  · cases e
  · split at e
    · cases e
    next h =>
      have h := writeVia_wf h wf
      split at e
      · split at e
        · cases e
        · split at e
          · cases e
          · cases e
            simp [h]
      · cases e
        exact h

theorem writeImages_wf {s u : State} {t : Nat} {hseq : Word} {hasPos : Bool} {l : List (Nat × Nat)}
    (e : s.writeImages t hseq hasPos l = .ok u) (wf : Memory.wf s.mem = true) : Memory.wf u.mem = true := by
  induction l generalizing s with
  | nil =>
    cases e
    exact wf
  | cons p l ih =>
    unfold State.writeImages at e
    split at e
    · cases e
    next h => exact ih e (writeImage_wf h wf)

theorem resumeMeters_mem {s u : State} {t : Nat} {v : Saved} {l : List (Nat × Nat)}
    (e : s.resumeMeters t v l = .ok u) : u.mem = s.mem := by
  induction l generalizing s with
  | nil =>
    cases e
    rfl
  | cons p l ih =>
    unfold State.resumeMeters at e
    split at e
    · split at e
      · cases e
      next => exact (ih e).trans (updSeq_mem ..)
    · exact (ih e).trans (updSeq_mem ..)

/-! ## The states that the checks of a record leave -/

/-- The state in which the check of a record ends, where it does not wait. -/
def Machine.Checked.keepsMem (s : State) : Checked → Prop
  | .wait => True
  | .bad _ _ u => u.mem = s.mem
  | .good _ u => u.mem = s.mem

theorem checkTable_mem (s : State) (ch q : Nat) (x : Xfer) : (s.checkTable ch q x).keepsMem s := by
  unfold State.checkTable
  split
  · exact rfl
  · dsimp only
    split
    · trivial
    · exact countSeqWalk_mem ..
    next h =>
      have hm := (readAt_mem h).trans (countSeqWalk_mem ..)
      split
      · trivial
      · exact hm
      next h' =>
        have hm' := (readAt_mem h').trans hm
        (repeat' split) <;> exact hm'

theorem checkRecord_mem (s : State) (ch q : Nat) (d : List Word) : (s.checkRecord ch q d).keepsMem s := by
  unfold State.checkRecord
  dsimp only
  (repeat' split) <;> first | exact rfl | trivial | exact checkTable_mem ..

/-! ## Steps whose outcome takes more than one fact -/

section
variable {s : State} (wf : Memory.wf s.mem = true)
include wf

theorem execBarrierArrival_wf (k : Nat) : nextWf (execBarrierArrival k s) := by
  unfold execBarrierArrival
  split
  · exact (nextWf_next s).2 wf
  · split
    · exact (nextWf_next s).2 wf
    · extract_lets o b n taken logged total full after counted _ _ collected
      have hlogged : Memory.wf logged.mem = true := wf_ite _ _ _ (log_wf _ _ _ _ _ _ _ wf) wf
      exact (nextWf_next _).2 (wf_ite _ _ _ hlogged hlogged)

theorem execHangDeclaration_wf (r : Nat) : nextWf (execHangDeclaration r s) := by
  unfold execHangDeclaration
  split
  · exact (nextWf_next s).2 wf
  · extract_lets draining u
    have hu : Memory.wf (u.writeCadastre r).1.mem = true := writeCadastre_wf r wf
    dsimp only
    split <;> simp [hu]

theorem execRetainComplete_wf (d c : Nat) : nextWf (execRetainComplete d c s) := by
  unfold execRetainComplete
  extract_lets g a u
  have hu : Memory.wf u.mem = true := foldl_wf _ _ _ (fun t x h => writeRetention_wf t _ _ _ h) wf
  (repeat' split) <;> simp [wf, hu]

theorem execWakeComplete_wf (d c : Nat) : nextWf (execWakeComplete d c s) := by
  unfold execWakeComplete
  extract_lets g a
  split
  · exact (nextWf_next s).2 wf
  · split
    next u bad h =>
    extract_lets v w
    have hu : Memory.wf (u, bad).1.mem = true := by
      rw [← h]
      refine List.foldlRecOn (motive := fun sb : State × Bool => Memory.wf sb.1.mem = true) _ _ wf fun sb hsb x _ => ?_
      exact wakeRegion_wf sb.1 _ _ _ hsb
    have hv : v.mem = u.mem := foldl_mem _ _ _ fun t r => by dsimp only; split <;> simp
    split <;> simp [w, hv, hu]

theorem execRegisterWrite_wf (q : Nat) (id : BitVec 12) (v : Word) : nextWf (execRegisterWrite q id v s) := by
  unfold execRegisterWrite
  split
  · simp [wf]
  · split
    next h => simp [writePlain_mem h, wf]
    next => simp [wf]

theorem execPagerResolve_wf (p : Nat) : nextWf (execPagerResolve p s) := by
  unfold execPagerResolve
  dsimp only
  split
  · exact (nextWf_next s).2 wf
  · split
    · simp [wf]
    · exact (nextWf_next _).2 (flushFaults_wf _ (foldl_wf _ _ _ (fun t k h => resolveEntry_wf t _ _ h) wf))

theorem execCopyRecordRead_wf (d c : Nat) : nextWf (execCopyRecordRead d c s) := by
  unfold execCopyRecordRead
  dsimp only
  split
  · simp [wf]
  · split
    · simp [wf]
    · simp [wf]
    next t h =>
      have hm := readAt_mem h
      split
      · simp [hm, wf]
      · have hc := checkRecord_mem t (d * 64 + c) (s.chan (d * 64 + c)).issuer
        split <;> next e =>
          have hu := e ▸ hc _
          simp_all [Checked.keepsMem]

theorem execCopyWriteUnit_wf (d c : Nat) : nextWf (execCopyWriteUnit d c s) := by
  unfold execCopyWriteUnit
  dsimp only
  (repeat' split) <;> simp +contextual [wf, foldl_wf]

theorem execCopyRecordComplete_wf (d c : Nat) : nextWf (execCopyRecordComplete d c s) := by
  have hended (q : Nat) (tr : Perm → Nat → Except AccErr Nat) (a code : Nat) (fail : Word) :
      Memory.wf ((s.finalWrite q tr a code fail).getD s).mem = true := of_getD (fun u e => finalWrite_wf e wf) wf
  unfold execCopyRecordComplete
  dsimp only
  (repeat' split) <;> simp [wf, hended]

theorem execHeadraceSectionComplete_wf (d : Nat) : nextWf (execHeadraceSectionComplete d s) := by
  unfold execHeadraceSectionComplete
  dsimp only
  split
  · simp [wf]
  · split
    · simp [wf]
    · split
      · simp [wf]
      · split
        · split
          · simp [wf]
          · simp [wf]
          next h => simp [readVia_mem h, wf]
        · (repeat' split) <;> simp [wf]

omit wf in
theorem execModuleReset_wf (ls : List (List Byte)) : nextWf (execModuleReset ls s) :=
  (nextWf_next _).2 (bootStages_wf _ _ (moduleReset_wf s))

theorem execRemoteFrameReceive_wf (p n h : Nat) (ws : List (List Word)) : nextWf (execRemoteFrameReceive p n h ws s) := by
  unfold execRemoteFrameReceive
  extract_lets u x y ts r
  have hu : Memory.wf u.mem = true := by simpa [u, State.countReceived] using wf
  have hr : Memory.wf r.1.mem = true := remotePushes_wf _ _ hu
  (repeat' split) <;> simp [hu, hr]

theorem execTaskAllocate_wf (d t : Nat) : nextWf (execTaskAllocate d t s) := by
  unfold execTaskAllocate
  dsimp only
  split
  · simp [wf]
  · split
    · simp [wf]
    next h => simp [readTaskRec_mem h, wf]

theorem execTaskResetByHost_wf (d t : Nat) : nextWf (execTaskResetByHost d t s) := by
  unfold execTaskResetByHost
  dsimp only
  split
  · simp [wf]
  · split
    · simp [wf]
    next h => simp [readTaskRec_mem h, wf]

theorem execTaskLaunch_wf (d t : Nat) : nextWf (execTaskLaunch d t s) := by
  unfold execTaskLaunch
  dsimp only
  split
  · simp [wf]
  · split
    · simp [wf]
    · simp [wf]
    · simp [wf]
    · split
      · simp [wf]
      · simp [wf]
      next h => split <;> simp [staging_mem h, wf]

theorem execTaskFault_wf (d t : Nat) : nextWf (execTaskFault d t s) := by
  unfold execTaskFault
  extract_lets k u x v
  split
  · exact (nextWf_next s).2 wf
  · have hu : Memory.wf u.mem = true := by
      dsimp only [u]
      split <;> simp [wf]
    have hv : v.mem = (u.writeFault k x.faultWord).mem := foldl_mem _ _ _ fun w r => by simp
    split <;> simp [hv, hu]

theorem execSaveComplete_wf (d t : Nat) : nextWf (execSaveComplete d t s) := by
  have hdiscard (cs : List Nat) : Memory.wf (cs.foldl State.discard s).mem = true :=
    foldl_wf _ _ _ (fun u c h => discard_wf u c h) wf
  unfold execSaveComplete
  dsimp only
  split
  · split
    · simp [wf]
    · split
      · simp [wf]
      · split
        · simp [wf]
        · simp [hdiscard]
        next h => simp [writeImages_wf h wf]
  · simp [wf]

theorem execTaskResume_wf (d t : Nat) : nextWf (execTaskResume d t s) := by
  unfold execTaskResume
  dsimp only
  split
  · split
    · simp [wf]
    · split
      next h => simp [resumeMeters_mem h, wf]
      · simp [wf]
      · simp [wf]
  · simp [wf]

theorem execRestoreComplete_wf (d t : Nat) : nextWf (execRestoreComplete d t s) := by
  unfold execRestoreComplete
  dsimp only
  (repeat' split) <;> simp +contextual [wf, foldl_mem, foldl_wf]

theorem execStaticEnergyTick_wf : nextWf (execStaticEnergyTick s) := by
  unfold execStaticEnergyTick
  split
  · simp [wf]
  · simp +contextual [wf, foldl_wf, wf_ite]

end

end Sys2Proof
end

section
/-! Every instruction keeps memory in canonical form. -/

namespace Sys2Proof

open Machine

/-- Every instruction keeps memory in canonical form: what fires in a block or an element by what it does besides, and the
other steps by what each does on every one of its ways. -/
theorem exec_wf (i : Instr) {s : State} (wf : Memory.wf s.mem = true) : nextWf (exec i s) := by
  unfold exec
  cases i with
  -- instructions of a block, by what they do outside it
  | rdg _ | wrg _ | mov _ | movi _ | movhi _ | null _ | snul _ | add _ | sub _ | mul _ | mulh _ | mulhu _ | div _
  | divu _ | rem _ | remu _ | and _ | or _ | xor _ | shl _ | shr _ | sra _ | rol _ | min _ | max _ | minu _
  | maxu _ | clz _ | popc _ | ext _ | addi _ | andi _ | ori _ | xori _ | shli _ | shri _ | srai _ | muli _ | teq _
  | tne _ | tlt _ | tltu _ | tle _ | tleu _ | tgt _ | tgtu _ | tge _ | tgeu _ | teqi _ | tnei _ | tlti _ | tgei _
  | fadd _ | fsub _ | fmul _ | fdiv _ | fma _ | fmin _ | fmax _ | fcvt _ | fteq _ | ftlt _ | ftle _ | fsqrt _
  | fence _ | br _ | bri _ | call _ | calli _ | ret _ | loop _ | scall _ | trap _ | eret _ | cfga _ | drain _
  | tcnt _ | spush _ | space _ | inj _ | bar _ | flgs _ | flgc _ | tagf _ | tagc _ | depd _ | depr _ | cpch _
  | cpst _ | cpab _ | sysw _ | halt _ =>
    exact fireBlk_wf wf
  | spop _ | bwait _ | bph _ | flgt _ | flgw _ | tagw _ =>
    exact fireAcquire_wf wf
  | waiti _ =>
    exact fireOrEnd_wf wf
  | ld f | lds f => exact fireLoad_wf wf f _
  | amoadd f | amoswp f | amocas f | amomin f | amomax f | amoand f | amoor f => exact fireAmo_wf wf f _
  | st _ | jtab _ | sysr _ | cfgl _ | cfgw _ =>
    refine fireWith_wf wf fun b => ?_
    dsimp only
    (repeat' split) <;> simp +contextual [postWf]
  -- firings of elements, by what they do outside the fabric
  | vadd | vsub | vmul | vmin | vmax | vabs | vneg | vadds | vsubs | vand | vor | vxor | vshl | vshr | vsra | vcmp
  | vcmpi | vsel | vaddi | vscl | vfma =>
    exact vec_wf wf _ _ _ _ _
  | vexp2 | vlog2 | vrcp | vrsq | vtanh | vsigm => exact trans_wf wf _ _
  | vrsum | vrmax => exact rowOp_wf wf _ _
  | rdadd | rdmax | rdmin => exact reduce_wf wf _
  | flset | flclr => exact flagWrite_wf wf _ _
  | bufw | steer | sink | carry | inv | repeatp | const | count | flgate | agld | bufrp =>
    refine fireElem_wf wf fun el h => ?_
    (repeat' split) <;> simp
  | vcvt | vtrn | hmix | vmask | aclr | res | resn | acmp | astr | ald | aadd | tld | txch | temit | agseq | agst
  | aggat | agsct | steern | merge | mergea | mergec | ratem | scsplit | scjoin | fan | fltst | flwait | bufr
  | bufrn =>
    refine fireElem_wf wf fun el h => ?_
    dsimp only
    (repeat' split) <;> simp
  | scrr | egr | ingr | ingrq | egrq =>
    simp only [execScrr, execEgr, execIngr, execIngrq, execEgrq]
    refine fireElem_wf wf fun el h => ?_
    (repeat' split) <;> simp
  -- steps that write through the shared operations alone, on every one of their ways
  | blockFetch _ | blockDecode _ | blockResolve _ | blockCommit _ | blkhang _ | runaheadBlockStart _ | dbghalt _
  | accessPerformed _ _ _ =>
    simp only [execBlockFetch, execBlockDecode, execBlockResolve, execBlockCommit, execBlkhang,
      execRunaheadBlockStart, execDbghalt, execAccessPerformed]
    (repeat' split) <;> simp [wf, countFetch_mem]
  | tokenVisible _ | requestArrival _ | strayControlDiscard _ | sluicePark _ | controlTokenPassage | contextArm _
  | drainComplete _ | phaseEnd _ | agDescriptorFetch | agMemoryResponse | agPageFault =>
    simp only [execTokenVisible, execRequestArrival, execStrayControlDiscard, execSluicePark, execControlTokenPassage,
      execContextArm, execDrainComplete, execPhaseEnd, execAgDescriptorFetch, execAgMemoryResponse, execAgPageFault]
    (repeat' split) <;> simp [wf, foldl_mem]
  | preempt _ _ _ | preemptGraceExpire _ _ | taskSelect _ | taskEnd _ _ | preemptDecision _
  | taskReleaseByHost _ _ | stageWiden _ _ _ | copyChainStart _ _ | headraceRecordRead _ =>
    simp only [execPreempt, execPreemptGraceExpire, execTaskSelect, execTaskEnd, execPreemptDecision,
      execTaskReleaseByHost, execStageWiden, execCopyChainStart, execHeadraceRecordRead]
    (repeat' split) <;> simp [wf]
  | quiesceComplete _ _ | gateComplete _ _ | voltageSlew _ | powerMeasure _ | millpondHold _ _
  | millpondRelease _ _ | regionIdleGate _ | regionIdleWake _ | errorWindowExpire | correctedError _ _ =>
    simp only [execQuiesceComplete, execGateComplete, execVoltageSlew, execPowerMeasure, execMillpondHold,
      execMillpondRelease, execRegionIdleGate, execRegionIdleWake, execErrorWindowExpire, execCorrectedError]
    (repeat' split) <;> simp [wf, foldl_mem, afterOf]
  | hostMemoryWindow _ _ _ _ | hostTaskPost _ | hostArmPost _ | attestationRequest _ | remoteRetransmit _ _
  | remotePeerTimeout _ | regaccRead _ _ | regaccWrite _ _ _ | extest | idcode | samplePreload | sqhaltStop
  | sqhaltRelease | bypass =>
    simp only [execHostMemoryWindow, execHostTaskPost, execHostArmPost, execAttestationRequest, execRemoteRetransmit,
      execRemotePeerTimeout, execRegaccRead, execRegaccWrite, execExtest, execIdcode, execSamplePreload,
      execSqhaltStop, execSqhaltRelease, execBypass]
    (repeat' split) <;> simp [wf]
  -- writes of registers, by the laws about their outcomes
  | sqStatusWrite q v => exact nextWf_of_after (execSqStatusWrite_after_wf s q v wf)
  | rasdWrite q v => exact nextWf_of_after (execRasdWrite_after_wf s q v wf)
  | dbgCtlWrite q v => exact nextWf_of_after (execDbgCtlWrite_after_wf s q v wf)
  | dbgHaltWrite q k v => exact nextWf_of_after (execDbgHaltWrite_after_wf s q k v wf)
  | dbgStep q v => exact nextWf_of_after (execDbgStep_after_wf s q v wf)
  | hangThaw q v => exact nextWf_of_after (execHangThaw_after_wf s q v wf)
  | hangDiscard q v => exact nextWf_of_after (execHangDiscard_after_wf s q v wf)
  | flogCtlWrite q v => exact nextWf_of_after (execFlogCtlWrite_after_wf s q v wf)
  | flogRdWrite q v => exact nextWf_of_after (execFlogRdWrite_after_wf s q v wf)
  | quiesce v => exact nextWf_of_after (execQuiesce_after_wf s v wf)
  | retain v => exact nextWf_of_after (execRetain_after_wf s v wf)
  | gate v => exact nextWf_of_after (execGate_after_wf s v wf)
  | release v => exact nextWf_of_after (execRelease_after_wf s v wf)
  | groupSelectDie v => exact nextWf_of_after (execGroupSelectDie_after_wf s v wf)
  | wake v => exact nextWf_of_after (execWake_after_wf s v wf)
  | pwrCapWrite v => exact nextWf_of_after (execPwrCapWrite_after_wf s v wf)
  | pwrErrlogClear v => exact nextWf_of_after (execPwrErrlogClear_after_wf s v wf)
  | pwrVsetWrite v => exact nextWf_of_after (execPwrVsetWrite_after_wf s v wf)
  | pwrEvalWrite v => exact nextWf_of_after (execPwrEvalWrite_after_wf s v wf)
  | partitionLoad v => exact nextWf_of_after (execPartitionLoad_after_wf s v wf)
  -- steps with a lemma of their own
  | registerWrite q id v => exact execRegisterWrite_wf wf q id v
  | hangDeclaration r => exact execHangDeclaration_wf wf r
  | remoteFrameReceive peer seq handle words => exact execRemoteFrameReceive_wf wf peer seq handle words
  | copyRecordRead die ch => exact execCopyRecordRead_wf wf die ch
  | copyWriteUnit die ch => exact execCopyWriteUnit_wf wf die ch
  | copyRecordComplete die ch => exact execCopyRecordComplete_wf wf die ch
  | headraceSectionComplete die => exact execHeadraceSectionComplete_wf wf die
  | taskAllocate die task => exact execTaskAllocate_wf wf die task
  | taskLaunch die task => exact execTaskLaunch_wf wf die task
  | saveComplete die task => exact execSaveComplete_wf wf die task
  | taskResume die task => exact execTaskResume_wf wf die task
  | restoreComplete die task => exact execRestoreComplete_wf wf die task
  | taskFault die task => exact execTaskFault_wf wf die task
  | taskResetByHost die task => exact execTaskResetByHost_wf wf die task
  | pagerResolve part => exact execPagerResolve_wf wf part
  | retainComplete die col => exact execRetainComplete_wf wf die col
  | wakeComplete die col => exact execWakeComplete_wf wf die col
  | moduleReset stages => exact execModuleReset_wf stages
  | tilePortWrite => exact execTilePortWrite_wf wf
  | tileExchange => exact execTileExchange_wf wf
  | mma => exact execMma_wf wf
  | sysm => exact execSysm_wf wf
  | scrw => exact execScrw_wf wf
  | agatm => exact execAgatm_wf wf
  | repeatTok => exact execRepeatTok_wf wf
  | staticEnergyTick => exact execStaticEnergyTick_wf wf
  | barrierArrival k => exact execBarrierArrival_wf wf k

end Sys2Proof
end

section
/-! What the next step is (log entry 1): the choice of it, and a step that has no row of its own, keep memory in canonical
form. -/

namespace Sys2Proof

open Machine

/-- Steps that may be taken from a state, each in a state of the same memory. -/
def movesKeepMem (s : State) (l : List (Instr × State)) : Prop := ∀ x ∈ l, x.2.mem = s.mem

section
variable (s : State)

@[simp] theorem movesKeepMem_nil : movesKeepMem s [] := List.forall_mem_nil _

@[simp] theorem movesKeepMem_cons (i : Instr) (t : State) (l : List (Instr × State)) :
    movesKeepMem s ((i, t) :: l) ↔ t.mem = s.mem ∧ movesKeepMem s l := List.forall_mem_cons

@[simp] theorem movesKeepMem_append (l m : List (Instr × State)) :
    movesKeepMem s (l ++ m) ↔ movesKeepMem s l ∧ movesKeepMem s m := List.forall_mem_append

@[simp] theorem movesKeepMem_ite (c : Prop) [Decidable c] (l m : List (Instr × State)) :
    movesKeepMem s (if c then l else m) ↔ (c → movesKeepMem s l) ∧ (¬ c → movesKeepMem s m) := by
  split <;> simp [*]

theorem movesKeepMem_map {α : Type} {f : α → Instr × State} (l : List α) (h : ∀ a, (f a).2.mem = s.mem) :
    movesKeepMem s (l.map f) := List.forall_mem_map.2 fun a _ => h a

theorem movesKeepMem_optionMap {α : Type} {f : α → Instr × State} (o : Option α) (h : ∀ a, (f a).2.mem = s.mem) :
    movesKeepMem s (o.map f).toList := by
  cases o with
  | none => exact List.forall_mem_nil _
  | some a => exact List.forall_mem_singleton.2 (h a)

theorem movesKeepMem_flatMap {α : Type} {f : α → List (Instr × State)} (l : List α) (h : ∀ a, movesKeepMem s (f a)) :
    movesKeepMem s (l.flatMap f) := List.forall_mem_flatMap.2 fun a _ => h a

theorem movesKeepMem_filterMap {α : Type} {f : α → Option (Instr × State)} (l : List α)
    (h : ∀ a x, f a = some x → x.2.mem = s.mem) : movesKeepMem s (l.filterMap f) := fun x hx => by
  obtain ⟨a, -, ha⟩ := List.mem_filterMap.1 hx
  exact h a x ha

/-! ## The turns of the parties -/

theorem aheadMoves_keepMem (q : Nat) : movesKeepMem s (s.aheadMoves q) :=
  movesKeepMem_flatMap s _ fun bn => movesKeepMem_filterMap s _ fun k x h => by
    split at h
    · split at h
      · cases h
        rfl
      · cases h
    · cases h

theorem blockMoves_keepMem (q : Nat) (b : Blk) : movesKeepMem s (s.blockMoves q b) := by
  have hwaits : movesKeepMem s (b.waits.filterMap fun w => (b.instr w.ix).map fun i => (i, s.focus q 0 w.ix)) :=
    movesKeepMem_filterMap s _ fun w x h => by
      obtain ⟨i, -, rfl⟩ := Option.map_eq_some_iff.1 h
      rfl
  simp [State.blockMoves, hwaits, movesKeepMem_map, aheadMoves_keepMem]

theorem firingMoves_keepMem (q : Nat) (b : Blk) : movesKeepMem s (s.firingMoves q b) :=
  movesKeepMem_filterMap s _ fun k x h => by
    split at h
    · obtain ⟨i, -, rfl⟩ := Option.map_eq_some_iff.1 h
      rfl
    · cases h

theorem threadMoves_keepMem (q : Nat) : movesKeepMem s (s.threadMoves q) := by
  unfold State.threadMoves
  generalize (s.seq q).cond = c
  cases c with
  | run =>
    dsimp only
    split
    next => exact movesKeepMem_nil s
    next => exact (movesKeepMem_append ..).2 ⟨firingMoves_keepMem s q _, blockMoves_keepMem s q _⟩
  | _ => simp

theorem fabricMoves_keepMem (r c : Nat) : movesKeepMem s (s.fabricMoves r c) := by
  simp [State.fabricMoves, movesKeepMem_flatMap, movesKeepMem_optionMap]

theorem contextMoves_keepMem : movesKeepMem s s.contextMoves := by
  simp [State.contextMoves, movesKeepMem_flatMap, movesKeepMem_map]

theorem engineMoves_keepMem : movesKeepMem s s.engineMoves := by
  simp [State.engineMoves, movesKeepMem_flatMap]

theorem taskMoves_keepMem : movesKeepMem s s.taskMoves := by
  simp [State.taskMoves, movesKeepMem_flatMap, movesKeepMem_map, movesKeepMem_optionMap]

theorem groupMoves_keepMem : movesKeepMem s s.groupMoves := by
  simp [State.groupMoves, movesKeepMem_flatMap]

theorem movesOf_keepMem (p c : Nat) : movesKeepMem s (s.movesOf p c) := by
  unfold State.movesOf
  (repeat' split) <;> simp [threadMoves_keepMem, fabricMoves_keepMem, contextMoves_keepMem, engineMoves_keepMem,
    taskMoves_keepMem, groupMoves_keepMem]

end

/-! ## The choice -/

/-- The state in which a step takes place has canonical memory. -/
def pickWf : Pick → Prop
  | .idle t => Memory.wf t.mem = true
  | .outside _ t => Memory.wf t.mem = true
  | .run _ t => Memory.wf t.mem = true
  | .bad => True

section
variable {s : State} (wf : Memory.wf s.mem = true)
include wf

theorem turnMove_wf : pickWf s.turnMove := by
  unfold State.turnMove
  extract_lets n u p l
  split
  next i t h =>
    have ht : t.mem = u.mem := movesOf_keepMem u _ _ _ (List.mem_of_getElem? h)
    rw [pickWf, ht]
    exact wf
  next => exact wf

omit wf in
theorem countWrite_mem (s : State) (i : Instr) : (s.countWrite i).mem = s.mem := by
  unfold State.countWrite
  split <;> simp

theorem planned_wf (m : Move) : pickWf (s.planned m) := by
  unfold State.planned
  (repeat' split) <;> simp [pickWf, wf, countWrite_mem, State.focus]

theorem pick_wf : pickWf s.pick := by
  unfold State.pick
  split
  next m rest _ => exact planned_wf (s := { s with plan := rest }) wf m
  next =>
    split
    next => dsimp only; split <;> exact wf
    next => exact turnMove_wf wf

theorem outside_wf (m : Move) : Memory.wf (s.outside m).mem = true := by
  unfold State.outside State.mirrorRead
  (repeat' split) <;> simp [wf]

end

/-- Settles O59: a step is chosen in a state of the same memory, and every instruction keeps memory in canonical form. -/
theorem everyStepKeepsMemoryCanonical : Obligations.EveryStepKeepsMemoryCanonical := by
  intro s t wf h
  have hpick := pick_wf wf
  unfold step at h
  cases hs : s.pick with
  | idle u =>
    rw [hs] at h hpick
    exact (nextWf_next u).2 hpick t h
  | run i u =>
    rw [hs] at h hpick
    exact exec_wf i hpick t h
  | outside m u =>
    rw [hs] at h hpick
    exact (nextWf_next _).2 (outside_wf hpick m) t h
  | bad =>
    rw [hs] at h
    cases h

end Sys2Proof
end
